-- ==== Sys2Proof/Word.lean ====
section
/-! DEFINITION. Word.lean: the word types of the KQ-80 (00 R1, R2) and nothing else. -/
namespace Sys2Proof

/-- A slot, a port value, an instruction word, an address or a vault entry: 64 bits. -/
abbrev Word := BitVec 64
/-- One byte of memory. -/
abbrev Byte := BitVec 8

end Sys2Proof
end

