-- ==== Sys2Proof/Config.lean ====
section
/-! DEFINITION. Config.lean: what the part fixes at manufacturing test (the "fused" values) and the values the spec
leaves open, as constants without a body: nothing proves a value of one. -/
namespace Sys2Proof.Config

/-- Physical fields (R14). -/
abbrev nFields : Nat := 80
/-- Clusters of a field and cells of a cluster (R15). -/
abbrev nClustersPerField : Nat := 12
abbrev nCellsPerCluster : Nat := 16
/-- Cells of a field and of the wafer (R15). -/
abbrev nCellsPerField : Nat := 192
abbrev nClusters : Nat := 960
abbrev nCells : Nat := 15360

/-- The part modelled is fused to timing class A with no defects (log 4). -/
abbrev fusedClassB : Bool := false
/-- Supply at reset, at the safe point and at most, in mV (log 4: the spec gives no number). -/
opaque fusedVolt : BitVec 12
opaque fusedVsafe : Nat → BitVec 12
/-- The stepping of the part (R425, R428). -/
opaque stepping : BitVec 16

/-- A value the spec does not state where the machine goes on; n is a fresh number (`State.freeCtr`). -/
opaque freeWord : Nat → BitVec 64
/-- Which of the values allowed within its ulp bound a special function returns (R331): a fixed function of the
function's number and the input bits. -/
opaque specialChoice : Nat → Nat → Nat
/-- The sign of an exact zero sum that joins −0 in a multiply-accumulate (R349 does not state it), by the row of the datapath and the
factors of the group's products: class, sign, significand and exponent of each. -/
opaque zeroSign : Nat → List (List Int × List Int) → Bool
/-- The signature and certificate bytes of R466 to R468 are opaque functions of what they sign. -/
opaque signature : List Byte → List Byte
opaque certificates : List Byte
/-- Whether the signature in an image's header verifies under the fused root (R466), which the spec gives no function of the bytes for. -/
opaque xmssVerifies : List Byte → Bool
/-- The 32-byte SHAKE256 digest of a byte string (R466, R468): the spec names the function and gives no body. -/
opaque shake256 : List Byte → List Byte
/-- The static power in mW of a field at a frequency in MHz, leakage at 105 °C (R453), and whether the field would
need more than VMAX there (R445). -/
opaque staticPower : Nat → Nat → Nat
opaque needsMoreThanVmax : Nat → Nat → Bool
/-- The lowest 5 mV step of supply that meets a frequency at the present temperature (R445). -/
opaque voltFor : Nat → Nat → Int → BitVec 12
/-- The two-point coefficients A and B of a field's diode, fused at test, in 1/16 °C (R455), and what a diode reads when it is sampled
at a vault clock. -/
opaque diodeA : Nat → Nat → Int
opaque diodeB : Nat → Nat → Int
opaque diodeRaw : Nat → Nat → Nat → Nat
/-- Power and leakage readings of the telemetry (Table 19-3): the spec gives no law for them. -/
opaque leakReading : Nat → Nat → BitVec 22
opaque energyReading : Nat → Nat → BitVec 64
/-- A field's power in mW, and the module's coolant and power readings (MODTEL), at a vault clock. -/
opaque powerReading : Nat → Nat → Nat
opaque moduleReading : Nat → BitVec 64

/-- Core cycles from the issue of an instruction to its result where the spec states no latency (loads, handles, control registers,
log 69); the number identifies the instruction in flight. -/
opaque resultDelay : Nat → Nat

/-- The way of a flit from one cell to another, as cells: the spec gives the links of the mesh (R17) and no routing
function. -/
opaque meshPath : Nat → Nat → List Nat

/-- The 16 check bits over bits [303:0] of a flit (R309): the spec names no code. -/
opaque flitCheck : BitVec 304 → BitVec 16

/-- The body of a snapshot as it is stored, which R425 leaves opaque: a function of a fresh number. -/
opaque snapBody : Nat → List (BitVec 8)

/-- Tree clocks from a node of the Anise tree up to the root (R398), by level and node. -/
opaque treeUpLatency : Nat → Nat → Nat
/-- Tree clocks from the root down to a leaf, by cell (R397). -/
opaque leafLatency : Nat → Nat

end Sys2Proof.Config
end

