-- ==== Sys2Proof/Syntax.lean ====
section
/-! DEFINITION. Syntax.lean: the operations of spec/opcode_table.json, one constructor of `Instr` per row:
the block instructions (10 R223, Table 10-7), the vault entries (06 R110) and the machine's events
(95_what_each_step_holds.md).  Operands are typed; raw encodings appear only in Decode.lean. -/
namespace Sys2Proof

/-- PR of Table 10-3. -/
inductive Pr | always | onTrue | onFalse | gated
  deriving DecidableEq, Repr, Inhabited

/-- WD of Table 10-3. -/
inductive Width | w8 | w16 | w32 | w64
  deriving DecidableEq, Repr, Inhabited

/-- The ports of an instruction (R224). -/
inductive Port | a | b | p | c
  deriving DecidableEq, Repr, Inhabited

/-- A target (Tables 10-4, 10-5).  `malformed` keeps an 11-bit value that no row of the tables defines, so that
predecode can refuse it in its place (R231). -/
inductive Target
  | none
  | port (idx : BitVec 7) (p : Port)
  | slot (s : BitVec 6) (life : BitVec 3)
  | exit
  | storeData (h : Bool) (seq : BitVec 5)
  | sendData (ord : BitVec 3) (word : BitVec 2)
  | malformed (raw : BitVec 11)
  deriving DecidableEq, Repr, Inhabited

/-- What every instruction with targets carries: PR, TA, TB. -/
structure Hdr where
  pr : Pr
  ta : Target
  tb : Target
  deriving DecidableEq, Repr, Inhabited

/-- Scopes (Table 8-2), with none for a TSC of 0. -/
inductive Scope | none | cel | clu | fld | waf | sys
  deriving DecidableEq, Repr, Inhabited

/-- The rounding field of Table 12-9. -/
inductive Rm | rne | rtz | rup | rdn | sr | dyn
  deriving DecidableEq, Repr, Inhabited

/-- The scalar float formats that WD and XM[3] select (R283). -/
inductive FFmt | fp64 | fp32 | fp16 | bf16
  deriving DecidableEq, Repr, Inhabited

/-- FSGN forms (R286). -/
inductive Sgn | j | jn | jx
  deriving DecidableEq, Repr, Inhabited

/-- FCMP conditions (Table 12-11). -/
inductive FCond | eq | lt | le | un | ltq | leq
  deriving DecidableEq, Repr, Inhabited

/-- The immediate of MOVHI: bits [51:26] or bits [63:52] (R256). -/
inductive HiPart | mid (v : BitVec 26) | top (v : BitVec 12)
  deriving DecidableEq, Repr, Inhabited

/-- Layout A of Table 13-1. -/
structure LayA where
  seq : BitVec 5
  tsc : Scope
  disp : BitVec 16
  deriving DecidableEq, Repr, Inhabited

/-- Layout Q: the amount is AMT when present (XM 1) and port b when absent (XM 0). -/
structure LayQ where
  seq : BitVec 5
  tsc : Scope
  q : BitVec 6
  amt : Option (BitVec 12)
  deriving DecidableEq, Repr, Inhabited

/-- Layout S (messages). -/
structure LayS where
  seq : BitVec 5
  tsc : Scope
  vc : BitVec 3
  wcnt : BitVec 2
  deriving DecidableEq, Repr, Inhabited

/-- Layout R of Table 14-1 (vector registers). -/
structure LayR where
  seq : BitVec 5
  vd : BitVec 5
  va : BitVec 5
  vb : BitVec 5
  km : BitVec 3
  z : Bool
  bf : Bool
  ex : Bool
  deriving DecidableEq, Repr, Inhabited

/-- Layout L (linear vector memory). -/
structure LayL where
  seq : BitVec 5
  tsc : Scope
  vr : BitVec 5
  km : BitVec 3
  z : Bool
  disp : BitVec 9
  deriving DecidableEq, Repr, Inhabited

/-- Layout X (indexed vector memory). -/
structure LayX where
  seq : BitVec 5
  tsc : Scope
  vr : BitVec 5
  vi : BitVec 5
  km : BitVec 3
  z : Bool
  sc : BitVec 2
  u : Bool
  deriving DecidableEq, Repr, Inhabited

/-- Layout B (bitonic step). -/
structure LayB where
  seq : BitVec 5
  vd : BitVec 5
  vp : BitVec 5
  j : BitVec 3
  k : BitVec 3
  deriving DecidableEq, Repr, Inhabited

/-- WD and XM of a typed vector instruction (Table 14-3): float lanes or integer lanes, and XM[2:0]. -/
structure VOp where
  w : Width
  flt : Bool
  m : BitVec 3
  deriving DecidableEq, Repr, Inhabited

/-- Operand tiles, accumulator tile and Z of the MMA family (Table 15-3). -/
structure LayM where
  seq : BitVec 5
  oa : BitVec 5
  ob : BitVec 5
  at_ : BitVec 5
  z : Bool
  deriving DecidableEq, Repr, Inhabited

/-- MDRN and MDRNT (Table 15-3); `q` is present exactly when QE = 1. -/
structure LayD where
  seq : BitVec 5
  at_ : BitVec 5
  fmt : BitVec 6
  mode : BitVec 3
  sat : Bool
  q : Option (BitVec 6)
  deriving DecidableEq, Repr, Inhabited

/-- MCOMB operations (R352). -/
inductive Comb | add | max | min
  deriving DecidableEq, Repr, Inhabited

/-- Accumulator lane formats of MCLR (R351): lane tags 0, 1, 2 of R336. -/
inductive LaneFmt | i40 | a40 | a80
  deriving DecidableEq, Repr, Inhabited

/-- MSCL forms (R353): scalar from port b, or row or column factors from an operand tile. -/
inductive ScaleBy | scalar | row (ot : BitVec 5) | col (ot : BitVec 5)
  deriving DecidableEq, Repr, Inhabited

/-- Where DRD and DWR move their column (Table 6-4).  Offsets are in 128-byte units. -/
inductive VTgt
  | loc (off : BitVec 11)
  | csp (off : BitVec 14)
  | rng (ring : BitVec 5) (k : BitVec 4) (role : Bool) (off : BitVec 9)
  | opm (tile : BitVec 5) (off : BitVec 6)
  deriving DecidableEq, Repr, Inhabited

/-- DCHK kinds (R119). -/
inductive ChkKind | sem | ring | sync
  deriving DecidableEq, Repr, Inhabited

/-- A ring descriptor (R66): rd n of a cluster or td n of a cell. -/
inductive RingRef
  | cluster (k n : Nat)
  | tcm (cell n : Nat)
  deriving DecidableEq, Repr, Inhabited

/-- An agent that arrives at a ring barrier (R70). -/
inductive RingAgent
  | ctx (cell x : Nat)
  | seq (cell : Nat)
  | txe (cell : Nat)
  deriving DecidableEq, Repr, Inhabited

/-- A memory bank in the sense of R421. -/
inductive BankRef
  | tcm (cell bank : Nat)
  | csp (cluster bank : Nat)
  | fsram (field slice bank : Nat)
  | opm (cell bank : Nat)
  | acm (cell bank : Nat)
  | vault (cell bank : Nat)
  deriving DecidableEq, Repr, Inhabited

/-- A register that the Mace network, the supervisor or the host writes (R5), by the table that defines it. -/
inductive RegRef
  | ctxCsr (cell x : Nat) (csr : BitVec 12)
  | cellCsr (cell : Nat) (csr : BitVec 12)
  | cellCfg (cell : Nat)
  | codeRgn (cell : Nat)
  | htab (cell i : Nat)
  | ahtab (cell i : Nat)
  | treech (cell c : Nat)
  | vrmap (cell bank i : Nat)
  | fsslc (field s : Nat)
  | fcb (field n : Nat)
  | fvf (field : Nat)
  | pwctl (field : Nat)
  | ebcap (field : Nat)
  | duty (field : Nat)
  | ftab (i : Nat)
  | ctab (field i : Nat)
  | ltab (cluster i : Nat)
  | atab (cluster am i : Nat)
  | anmask (level node c : Nat)
  | anpad
  | slkcfg (g : Nat)
  | slkpark (g : Nat)
  | pgrant (h : Nat)
  | hwin (n : Nat)
  | mbctl
  | mbstat
  deriving DecidableEq, Repr, Inhabited

/-- A host CXL.mem access to HDM range 0 or to a window of range 1 (R462): byte offset, and the bytes of a write. -/
structure HostAcc where
  range : Nat
  off : Nat
  len : Nat
  wr : Option (List Byte)
  poi : Bool
  deriving DecidableEq, Repr, Inhabited

/-- A link frame as it arrives from another wafer (Table 17-6). -/
structure Frame where
  kind : Nat
  vc : Nat
  tag : Nat
  swafer : Nat
  dwafer : Nat
  inst : Nat
  gen : Nat
  pois : Nat
  payload : List Byte
  deriving DecidableEq, Repr, Inhabited

/-- Sumac's choice of live units for a launch (R211 step 2): each virtual number with the physical one it gets; the V/F regions
that Saffron forms at the binding, none to keep the present ones (R447); whether the binder has another placement to try (R213);
whether the launch's other wafers have completed steps 1 to 4 of R211 (R482). -/
structure Placement where
  fields : List (Nat × Nat)
  clusters : List (Nat × Nat × Nat)
  cells : List (Nat × Nat × Nat)
  regions : List (Nat × Nat × Nat × Nat) := []
  more : Bool := false
  ready : Bool := false
  deriving DecidableEq, Repr, Inhabited

/-- A kill of a launch: its record, and whether a field manager has asked the supervisor for it (R474) or its CTRL says so (R209). -/
structure KillReq where
  i : Nat
  asked : Bool := false
  deriving DecidableEq, Repr, Inhabited

/-- A segment of a configuration load: its number, and whether it is the last (R426). -/
structure SegNo where
  n : Nat
  last : Bool := false
  deriving DecidableEq, Repr, Inhabited

/-- Halt groups that are signalled, and whether a field manager signals them now (R432). -/
structure HaltSig where
  groups : BitVec 16
  manager : Bool := false
  deriving DecidableEq, Repr, Inhabited

/-- The operations and events of spec/opcode_table.json. -/
inductive Instr
  -- control (R250 to R258)
  | br (p : Pr) (off : BitVec 26)
  | jmp (p : Pr)
  | call (h : Hdr) (off : BitVec 26)
  | callr (h : Hdr)
  | ret (p : Pr)
  | done (p : Pr)
  | yield (p : Pr)
  | trap (p : Pr)
  | null (h : Hdr)
  | mov (h : Hdr) (w : Width)
  | movi (h : Hdr) (w : Width) (zx : Bool) (imm : BitVec 26)
  | movhi (h : Hdr) (f : HiPart)
  | sel (h : Hdr) (w : Width)
  | baddr (h : Hdr)
  -- tests (R259)
  | teq (h : Hdr) (w : Width)
  | tne (h : Hdr) (w : Width)
  | tlt (h : Hdr) (w : Width)
  | tle (h : Hdr) (w : Width)
  | tltu (h : Hdr) (w : Width)
  | tleu (h : Hdr) (w : Width)
  | teqi (h : Hdr) (w : Width) (imm : BitVec 26)
  | tnei (h : Hdr) (w : Width) (imm : BitVec 26)
  | tlti (h : Hdr) (w : Width) (imm : BitVec 26)
  | tlei (h : Hdr) (w : Width) (imm : BitVec 26)
  | tltui (h : Hdr) (w : Width) (imm : BitVec 26)
  | tleui (h : Hdr) (w : Width) (imm : BitVec 26)
  | tbit (h : Hdr) (w : Width) (n : BitVec 6)
  | tnz (h : Hdr) (w : Width) (mask : Option (BitVec 26))
  -- integer (R260 to R267)
  | add (h : Hdr) (w : Width)
  | sub (h : Hdr) (w : Width)
  | addi (h : Hdr) (w : Width) (imm : BitVec 26)
  | adds (h : Hdr) (w : Width)
  | addsu (h : Hdr) (w : Width)
  | subs (h : Hdr) (w : Width)
  | subsu (h : Hdr) (w : Width)
  | neg (h : Hdr) (w : Width) (sat : Bool)
  | abs (h : Hdr) (w : Width) (sat : Bool)
  | min (h : Hdr) (w : Width)
  | max (h : Hdr) (w : Width)
  | minu (h : Hdr) (w : Width)
  | maxu (h : Hdr) (w : Width)
  | mul (h : Hdr) (w : Width)
  | mulh (h : Hdr) (w : Width)
  | mulhu (h : Hdr) (w : Width)
  | mulhsu (h : Hdr) (w : Width)
  | madd (h : Hdr) (w : Width)
  | div (h : Hdr) (w : Width)
  | divu (h : Hdr) (w : Width)
  | rem (h : Hdr) (w : Width)
  | remu (h : Hdr) (w : Width)
  | and (h : Hdr) (w : Width)
  | or (h : Hdr) (w : Width)
  | xor (h : Hdr) (w : Width)
  | andn (h : Hdr) (w : Width)
  | andi (h : Hdr) (w : Width) (zx : Bool) (imm : BitVec 26)
  | ori (h : Hdr) (w : Width) (zx : Bool) (imm : BitVec 26)
  | xori (h : Hdr) (w : Width) (zx : Bool) (imm : BitVec 26)
  | shl (h : Hdr) (w : Width) (amt : Option (BitVec 6))
  | shr (h : Hdr) (w : Width) (amt : Option (BitVec 6))
  | sar (h : Hdr) (w : Width) (amt : Option (BitVec 6))
  | rol (h : Hdr) (w : Width) (amt : Option (BitVec 6))
  | ror (h : Hdr) (w : Width) (amt : Option (BitVec 6))
  | clz (h : Hdr) (w : Width)
  | ctz (h : Hdr) (w : Width)
  | popc (h : Hdr) (w : Width)
  | bfx (h : Hdr) (w : Width) (pos len1 : BitVec 6)
  | bfxu (h : Hdr) (w : Width) (pos len1 : BitVec 6)
  | bfi (h : Hdr) (w : Width) (pos len1 : BitVec 6)
  -- scalar float (R284 to R289)
  | fadd (h : Hdr) (f : FFmt) (m : Rm)
  | fsub (h : Hdr) (f : FFmt) (m : Rm)
  | fmul (h : Hdr) (f : FFmt) (m : Rm)
  | fdiv (h : Hdr) (f : FFmt) (m : Rm)
  | fsqrt (h : Hdr) (f : FFmt) (m : Rm)
  | fma (h : Hdr) (f : FFmt) (m : Rm)
  | fmin (h : Hdr) (f : FFmt) (prop : Bool)
  | fmax (h : Hdr) (f : FFmt) (prop : Bool)
  | fsgn (h : Hdr) (f : FFmt) (k : Sgn)
  | fcmp (h : Hdr) (f : FFmt) (k : FCond)
  | fclass (h : Hdr) (f : FFmt)
  | fcvt (h : Hdr)
  | ftoi (h : Hdr)
  | itof (h : Hdr)
  -- memory (R296 to R308)
  | ld (h : Hdr) (w : Width) (s at_ x2 : Bool) (l : LayA)
  | st (h : Hdr) (w : Width) (at_ x2 : Bool) (l : LayA)
  | ldf (h : Hdr) (w : Width) (s : Bool) (l : LayA)
  | ldfe (h : Hdr) (w : Width) (s : Bool) (l : LayA)
  | stf (h : Hdr) (w : Width) (l : LayA)
  | aadd (h : Hdr) (w : Width) (l : LayA)
  | aand (h : Hdr) (w : Width) (l : LayA)
  | aor (h : Hdr) (w : Width) (l : LayA)
  | axor (h : Hdr) (w : Width) (l : LayA)
  | amin (h : Hdr) (w : Width) (l : LayA)
  | amax (h : Hdr) (w : Width) (l : LayA)
  | aminu (h : Hdr) (w : Width) (l : LayA)
  | amaxu (h : Hdr) (w : Width) (l : LayA)
  | aswap (h : Hdr) (w : Width) (l : LayA)
  | acas (h : Hdr) (w : Width) (l : LayA)
  | aadds (h : Hdr) (w : Width) (u : Bool) (l : LayA)
  | afadd (h : Hdr) (f : FFmt) (m : Rm) (l : LayA)
  | afmin (h : Hdr) (f : FFmt) (prop : Bool) (l : LayA)
  | afmax (h : Hdr) (f : FFmt) (prop : Bool) (l : LayA)
  | fence (h : Hdr) (seq : BitVec 5) (sc : Scope)
  | cfence (h : Hdr) (seq : BitVec 5)
  | sacq (h : Hdr) (l : LayQ)
  | sacqt (h : Hdr) (l : LayQ)
  | srel (h : Hdr) (l : LayQ)
  | syncw (h : Hdr) (l : LayA)
  | sbar (h : Hdr) (seq : BitVec 5) (tsc : Scope) (ring : BitVec 5)
  | cbar (h : Hdr) (seq : BitVec 5) (cb : BitVec 3)
  | send (h : Hdr) (l : LayS)
  | wake (h : Hdr) (l : LayS)
  | aaddb (h : Hdr) (w : Width) (l : LayA)
  -- vector (R319 to R333)
  | vld (h : Hdr) (w : Width) (l : LayL)
  | vst (h : Hdr) (w : Width) (l : LayL)
  | vlds (h : Hdr) (w : Width) (l : LayL)
  | vsts (h : Hdr) (w : Width) (l : LayL)
  | vgath (h : Hdr) (w : Width) (l : LayX)
  | vscat (h : Hdr) (w : Width) (l : LayX)
  | vcst (h : Hdr) (w : Width) (l : LayL)
  | vmov (h : Hdr) (w : Width) (l : LayR)
  | vadd (h : Hdr) (o : VOp) (l : LayR)
  | vsub (h : Hdr) (o : VOp) (l : LayR)
  | vmul (h : Hdr) (o : VOp) (l : LayR)
  | vfma (h : Hdr) (o : VOp) (l : LayR)
  | vdiv (h : Hdr) (o : VOp) (l : LayR)
  | vsqrt (h : Hdr) (o : VOp) (l : LayR)
  | vmin (h : Hdr) (o : VOp) (l : LayR)
  | vmax (h : Hdr) (o : VOp) (l : LayR)
  | vabs (h : Hdr) (o : VOp) (l : LayR)
  | vneg (h : Hdr) (o : VOp) (l : LayR)
  | vand (h : Hdr) (w : Width) (l : LayR)
  | vor (h : Hdr) (w : Width) (l : LayR)
  | vxor (h : Hdr) (w : Width) (l : LayR)
  | vshl (h : Hdr) (w : Width) (sc1 : Bool) (l : LayR)
  | vshr (h : Hdr) (w : Width) (sc1 : Bool) (l : LayR)
  | vsar (h : Hdr) (w : Width) (sc1 : Bool) (l : LayR)
  | vcvt (h : Hdr) (l : LayR)
  | vcmp (h : Hdr) (o : VOp) (l : LayR)
  | vmask (h : Hdr) (w : Width) (k : BitVec 3) (l : LayR)
  | vsel (h : Hdr) (w : Width) (l : LayR)
  | vred (h : Hdr) (o : VOp) (l : LayR)
  | vscan (h : Hdr) (o : VOp) (l : LayR)
  | vperm (h : Hdr) (w : Width) (two : Bool) (l : LayR)
  | vbcast (h : Hdr) (w : Width) (lane : Bool) (l : LayR)
  | vext (h : Hdr) (w : Width) (l : LayR)
  | vins (h : Hdr) (w : Width) (l : LayR)
  | vexp (h : Hdr) (o : VOp) (l : LayR)
  | vlog (h : Hdr) (o : VOp) (l : LayR)
  | vrsq (h : Hdr) (o : VOp) (l : LayR)
  | vtanh (h : Hdr) (o : VOp) (l : LayR)
  | vbms (h : Hdr) (o : VOp) (l : LayB)
  | vsrch (h : Hdr) (o : VOp) (l : LayR)
  -- matrix (R343 to R359)
  | mclaim (h : Hdr) (seq : BitVec 5) (ot : BitVec 5) (exp : BitVec 7)
  | mrel (h : Hdr) (seq : BitVec 5) (ot : BitVec 5)
  | mclr (h : Hdr) (seq : BitVec 5) (at_ : BitVec 5) (lf : LaneFmt)
  | mma (h : Hdr) (l : LayM)
  | mmasp (h : Hdr) (l : LayM) (om : BitVec 5)
  | mmsc (h : Hdr) (l : LayM) (os : BitVec 5)
  | mscl (h : Hdr) (seq : BitVec 5) (at_ : BitVec 5) (by_ : ScaleBy)
  | mcomb (h : Hdr) (seq : BitVec 5) (atd ats : BitVec 5) (op : Comb)
  | mdrn (h : Hdr) (l : LayD)
  | mdrnt (h : Hdr) (l : LayD)
  | mtrn (h : Hdr) (seq : BitVec 5) (at_ : BitVec 5)
  | mcvt (h : Hdr) (seq : BitVec 5) (at_ : BitVec 5) (toA40 : Bool) (mode : Rm)
  | macc (h : Hdr) (seq : BitVec 5) (at_ ot f : BitVec 5)
  | mstat (h : Hdr) (seq : BitVec 5)
  -- transfer engine and collectives (R370 to R378)
  | xcpy (h : Hdr) (seq : BitVec 5)
  | xc2d (h : Hdr) (seq : BitVec 5) (sp dp : BitVec 10)
  | xgath (h : Hdr) (seq : BitVec 5) (cntm1 : BitVec 16)
  | xscat (h : Hdr) (seq : BitVec 5) (cntm1 : BitVec 16)
  | xfill (h : Hdr) (seq : BitVec 5)
  | xarr (h : Hdr) (seq : BitVec 5) (ring : BitVec 5)
  | xqry (h : Hdr) (seq : BitVec 5)
  | cpost (h : Hdr) (seq : BitVec 5) (tsc : Scope) (cp : BitVec 3)
  | cwait (h : Hdr) (seq : BitVec 5) (cp : BitVec 3)
  | cwaitChk (h : Hdr) (seq : BitVec 5) (cp : BitVec 3)
  | cpoll (h : Hdr) (seq : BitVec 5) (cp : BitVec 3)
  | cabrt (h : Hdr) (seq : BitVec 5) (tsc : Scope) (cp : BitVec 3)
  -- vault control and system (R379 to R389)
  | drun (h : Hdr)
  | drunRel (h : Hdr)
  | drunRes (h : Hdr)
  | drunResp (h : Hdr)
  | dstop (h : Hdr)
  | dstopEnd (h : Hdr)
  | dpos (h : Hdr)
  | dposElap (h : Hdr)
  | dposT0 (h : Hdr)
  | csrr (h : Hdr) (csr : BitVec 12)
  | csrw (h : Hdr) (csr : BitVec 12)
  | csrs (h : Hdr) (csr : BitVec 12)
  | csrc (h : Hdr) (csr : BitVec 12)
  | csrx (h : Hdr) (csr : BitVec 12)
  | scall (h : Hdr) (svc : BitVec 8)
  | sret (h : Hdr)
  | brk (h : Hdr) (code : BitVec 16)
  | xtrig (h : Hdr)
  | tbind (h : Hdr)
  | tbindGen (h : Hdr)
  | bcinv (h : Hdr)
  | bcinvLine (h : Hdr)
  | wfm (h : Hdr)
  -- vault entries (R114 to R122); delta is DELTA of R110
  | dact (delta : BitVec 12) (bank : BitVec 3) (row : BitVec 13) (rinc : BitVec 8)
  | drd (delta : BitVec 12) (bank : BitVec 3) (col : BitVec 4) (t : VTgt) (step : BitVec 11) (cinc : BitVec 4)
  | dwr (delta : BitVec 12) (bank : BitVec 3) (col : BitVec 4) (t : VTgt) (step : BitVec 11) (cinc : BitVec 4)
  | dpre (delta : BitVec 12) (bank : BitVec 3)
  | dprea (delta : BitVec 12)
  | drefa (delta : BitVec 12) (th : Option (BitVec 4))
  | drefb (delta : BitVec 12) (bank : BitVec 3) (th : Option (BitVec 4))
  | dwait (delta : BitVec 12) (count : BitVec 32)
  | dchk (delta : BitVec 12) (kind : ChkKind) (index : BitVec 6) (ginc : BitVec 8) (value : BitVec 32)
  | dsig (delta : BitVec 12) (sem : Bool) (index : BitVec 6) (amount : BitVec 32)
  | drpt (delta : BitVec 12) (back : BitVec 12) (count : BitVec 32)
  | dend (delta : BitVec 12)
  -- events of blocks, memory and messages
  | blockEntry (cell x : Nat)
  | blockCommit (cell x : Nat)
  | slotExpiry (cell x slot : Nat)
  | storeQueueLeave (cell x : Nat)
  | remoteLoadIssue (cell x : Nat)
  | homeAccess (n : Nat)
  | loadResponse (n : Nat)
  | lateDropStop (cell x : Nat)
  | fullEmptyRelease (unit : Nat)
  | ringArrival (who : RingAgent) (ring : RingRef)
  | ringRotation (ring : RingRef)
  | ringHoldRelease (n : Nat)
  | semaphoreAcquireServe (cell q : Nat)
  | syncWordArrival (n : Nat)
  | syncwRelease (unit : Nat)
  | clusterBarrierComplete (cluster n : Nat)
  | messageDelivery (n : Nat)
  | messageDispatch (cell x : Nat)
  | wfmWake (cell x : Nat)
  | resultLanding (cell x n : Nat)
  -- events of the engines
  | txeAccept (cell : Nat)
  | txePieceIssue (cell : Nat)
  | txeComplete (cell n : Nat)
  | vxeCommandStart (cell : Nat)
  | vxeCommandComplete (cell : Nat)
  | mxeCommandStart (cell : Nat)
  | accumulatorWriteDone (cell : Nat)
  | drainComplete (cell n : Nat)
  | engineReportStop (cell x : Nat)
  | progressFault (cell x : Nat)
  -- events of the vault sequencer and the vault
  | drunAccept (cell : Nat)
  | programStart (cell : Nat)
  | resumePreamble (cell : Nat)
  | dstopEffect (cell : Nat)
  | seqFetch (cell : Nat)
  | vaultDelivery (cell : Nat)
  | dwrStaging (cell : Nat)
  | faultPrecharge (cell : Nat)
  | refreshTick (cell : Nat)
  | guardRefresh (cell : Nat)
  | refreshClassFall (field : Nat)
  | untimedAccess (cell : Nat)
  | rowRemap (cell bank row : Nat)
  | cacheFill (field slice : Nat)
  | cacheFlush (field slice : Nat)
  -- events of the tree, collectives and links
  | treeinjPush (cell x : Nat)
  | treeextPop (cell x : Nat)
  | treestatRead (cell : Nat)
  | treeNodeCombine (level node chan : Nat)
  | treeExtractValid (n : Nat)
  | collectivePostAccept (cell x : Nat)
  | collectiveRoundStart (g inst : Nat)
  | bucketStep (g inst : Nat) (recv : List (List (BitVec 64 × Bool)))
  | collectivePostFinish (g inst : Nat)
  | cwaitRelease (cell x : Nat)
  | abortMarker (g inst round : Nat) (link : Option Nat)
  | linkFrameReceive (g : Nat) (f : Frame)
  | linkWake (g : Nat) (peer : Bool)
  | wavelengthReady (g lam : Nat)
  | wakeTimeout (g : Nat)
  | linkPark (g : Nat) (mask : BitVec 6)
  -- events of the host, the launch area and the supervisor
  | hostMemAccess (a : HostAcc)
  | launchPosting (i : Nat)
  | launchDispatch (i : Nat)
  | timedDispatch (i : Nat) (placeable : Bool)
  | launchCancel (i : Nat)
  | launchKill (k : KillReq)
  | launchBinding (i : Nat) (p : Placement)
  | completionToken (i : Nat)
  | nodeAdoption (i deadCell acell actx node am abase : Nat)
  | fwload (floor : Nat)
  | getid
  | attest
  | dumpbuf
  | halt
  | telem
  | grant (approve : Bool)
  | syscfg
  | herrRead
  | hdropRead (cell : Nat)
  | sterrClear (cell x : Nat)
  | vxstatClear (cell x : Nat)
  | mxstatClear (cell x : Nat)
  | txstatClear (cell x : Nat)
  | semovfClear (cell : Nat) (mask : BitVec 64)
  | srseedWrite (cell x : Nat) (v : BitVec 64)
  | registerWrite (r : RegRef) (v : BitVec 64)
  | atsMiss (pasid page : Nat) (entry : Option (Nat × Nat))
  | atsInvalidation (pasid page : Nat)
  -- events of stops, repair and pre-emption
  | stopReport (cell x : Nat) (handled : Bool)
  | resume (cell x : Nat)
  | redirect (cell x : Nat) (addr : BitVec 64)
  | setslot (cell x slot : Nat) (v : BitVec 64) (life : BitVec 3)
  | endh (cell x : Nat)
  | mode (cell x : Nat) (sup : Bool)
  | clrstat (cell x : Nat)
  | hwFatalFault (cell unit : Nat)
  | fatalDump (i : Nat) (manager : Bool)
  | supervisorRecovery
  | bankErrorEvent (b : BankRef) (key : Nat) (correctable : Bool)
  | bankRetirement (b : BankRef)
  | cellRetirement (cell : Nat)
  | preemption (sx0 sy0 sx1 sy1 : Nat)
  | snapshotRestore (i : Nat) (cells : List (Nat × Nat))
  | configSegmentLoad (cell : Nat) (load : Nat) (seg : SegNo) (discard : Bool) (regs : List (RegRef × BitVec 64)) (data : List (Nat × Byte))
  | haltSignal (sig : HaltSig) (cells : List Nat)
  | haltRelease (groups : BitVec 16) (cells : List Nat)
  | rebinding (ents : List (RegRef × BitVec 64)) (moves : List (Nat × Nat))
  | flitMisroute (n : Nat)
  -- events of power, clocks, reset
  | saffronControlPeriod (fields : List Nat) (fvf pwctl duty : List (BitVec 64))
  | operatingPointChange (field volt freq : Nat)
  | sensorSample (field i raw : Nat)
  | thermalTrip (field : Nat)
  | tripClear (field : Nat)
  | waferReset
  | bootProgress (found : Option (List (Nat × Nat × Nat)))
  | coreCycle (field : Nat)
  | vaultClock
  | powerOnReset
  | mailboxOverrun (payload : Bool)
  | unknownMailboxCommand
  | sensorSuspectClear (field i : Nat)
  | voltageSettled (field : Nat)
  | vaultInterfaceFailure (cell : Nat)
  | treeRepair (lat : List (Nat × Nat))
  | meshRouteRepair (cell : Nat)
  deriving DecidableEq, Repr, Inhabited

end Sys2Proof
end

