-- ==== Sys2Proof/Machine/Alu.lean ====
section
/-! DEFINITION. Machine/Alu.lean: the integer helpers of R233 and the integer results of chapter 11, on unbounded
integers reduced where a helper says so (R9).  Operands x, y are already reduced to the width w. -/
namespace Sys2Proof.Machine

/-- bits(x, h, l) of R233. -/
def bitsN (x h l : Nat) : Nat := x / 2 ^ l % 2 ^ (h - l + 1)

/-- zext(x, w) of a natural number. -/
def zextN (x w : Nat) : Nat := x % 2 ^ w

/-- zext(x, w) of an integer. -/
def zextI (x : Int) (w : Nat) : Nat := (x % (2 ^ w : Int)).toNat

/-- sext(x, w) of R233. -/
def sextN (x w : Nat) : Int :=
  let z := x % 2 ^ w
  if w ≠ 0 ∧ 2 ^ (w - 1) ≤ z then (z : Int) - 2 ^ w else z

/-- sat_s(x, w). -/
def satS (x : Int) (w : Nat) : Int := min (max x (-(2 ^ (w - 1) : Int))) (2 ^ (w - 1) - 1)

/-- sat_u(x, w). -/
def satU (x : Int) (w : Nat) : Nat := (min (max x 0) (2 ^ w - 1)).toNat

/-- A truth value as a token value (R259). -/
def ofBool (b : Bool) : Nat := if b then 1 else 0

/-- The immediate as an integer, and as an operand at width w. -/
def immS (v : BitVec 26) : Int := v.toInt
def immZ (v : BitVec 26) (zx : Bool) (w : Nat) : Nat := if zx then v.toNat % 2 ^ w else zextI v.toInt w

/-! R260: addition and subtraction. -/
def aluAdd (w x y : Nat) : Nat := zextN (x + y) w
def aluSub (w x y : Nat) : Nat := zextI ((x : Int) - y) w
def aluAdds (w x y : Nat) : Nat := zextI (satS (sextN x w + sextN y w) w) w
def aluAddsu (w x y : Nat) : Nat := satU (x + y) w
def aluSubs (w x y : Nat) : Nat := zextI (satS (sextN x w - sextN y w) w) w
def aluSubsu (w x y : Nat) : Nat := satU ((x : Int) - y) w

/-! R261: negation, absolute value, extremes. -/
def aluNeg (sat : Bool) (w x : Nat) : Nat :=
  if sat then zextI (satS (-(sextN x w)) w) w else zextI (-(sextN x w)) w
def aluAbs (sat : Bool) (w x : Nat) : Nat :=
  let m : Int := (sextN x w).natAbs
  if sat then zextI (satS m w) w else zextI m w
def aluMin (w x y : Nat) : Nat := if sextN x w ≤ sextN y w then x else y
def aluMax (w x y : Nat) : Nat := if sextN x w ≤ sextN y w then y else x
def aluMinu (_w x y : Nat) : Nat := min x y
def aluMaxu (_w x y : Nat) : Nat := max x y

/-! R262: multiplication; the quotient by 2^w rounds toward minus infinity. -/
def aluMul (w x y : Nat) : Nat := zextN (x * y) w
def aluMulh (w x y : Nat) : Nat := zextI ((sextN x w * sextN y w) / (2 ^ w : Int)) w
def aluMulhu (w x y : Nat) : Nat := x * y / 2 ^ w
def aluMulhsu (w x y : Nat) : Nat := zextI ((sextN x w * y) / (2 ^ w : Int)) w
def aluMadd (w x y z : Nat) : Nat := zextN (x * y + zextN z w) w

/-! R263: division rounds toward zero; by zero and on overflow it is defined. -/
def aluDiv (w x y : Nat) : Nat :=
  let X := sextN x w
  let Y := sextN y w
  if Y = 0 then zextI (-1) w
  else if X = -(2 ^ (w - 1) : Int) ∧ Y = -1 then x
  else zextI (Int.tdiv X Y) w
def aluRem (w x y : Nat) : Nat :=
  let X := sextN x w
  let Y := sextN y w
  if Y = 0 then x
  else if X = -(2 ^ (w - 1) : Int) ∧ Y = -1 then 0
  else zextI (X - Int.tdiv X Y * Y) w
def aluDivu (w x y : Nat) : Nat := if y = 0 then 2 ^ w - 1 else x / y
def aluRemu (_w x y : Nat) : Nat := if y = 0 then x else x % y

/-! R264: logic. -/
def aluAnd (_w x y : Nat) : Nat := x &&& y
def aluOr (_w x y : Nat) : Nat := x ||| y
def aluXor (_w x y : Nat) : Nat := x ^^^ y
def aluNot (w x : Nat) : Nat := 2 ^ w - 1 - x
def aluAndn (w x y : Nat) : Nat := x &&& aluNot w y

/-! R265: shifts by s and rotates by s mod w. -/
def aluShl (w x s : Nat) : Nat := if w ≤ s then 0 else zextN (x * 2 ^ s) w
def aluShr (w x s : Nat) : Nat := if w ≤ s then 0 else x / 2 ^ s
def aluSar (w x s : Nat) : Nat :=
  if w ≤ s then (if sextN x w < 0 then 2 ^ w - 1 else 0) else zextI (sextN x w / (2 ^ s : Int)) w
def aluRol (w x s : Nat) : Nat := zextN (x * 2 ^ (s % w)) w + x / 2 ^ (w - s % w)
def aluRor (w x s : Nat) : Nat := x / 2 ^ (s % w) + zextN (x * 2 ^ (w - s % w)) w

/-! R266: bit counts. -/
def popCount : Nat → Nat → Nat
  | 0, _ => 0
  | w + 1, x => x % 2 + popCount w (x / 2)
def aluClz (w x : Nat) : Nat := if x = 0 then w else w - 1 - x.log2
def ctzFrom : Nat → Nat → Nat
  | 0, _ => 0
  | w + 1, x => if x % 2 = 1 then 0 else 1 + ctzFrom w (x / 2)
def aluCtz (w x : Nat) : Nat := ctzFrom w x
def aluPopc (w x : Nat) : Nat := popCount w x

/-! R267: bit fields at pos of length len. -/
def aluBfx (w x pos len : Nat) : Nat := zextI (sextN (bitsN x (pos + len - 1) pos) len) w
def aluBfxu (_w x pos len : Nat) : Nat := bitsN x (pos + len - 1) pos
def aluBfi (_w x y pos len : Nat) : Nat :=
  x - bitsN x (pos + len - 1) pos * 2 ^ pos + y % 2 ^ len * 2 ^ pos

/-! R259: tests. -/
def testLt (w x y : Nat) : Bool := sextN x w < sextN y w
def testLe (w x y : Nat) : Bool := sextN x w ≤ sextN y w

/-! R256: MOVHI replaces one field. -/
def movhiVal (a : Nat) : HiPart → Nat
  | .mid v => a - bitsN a 51 26 * 2 ^ 26 + v.toNat * 2 ^ 26
  | .top v => bitsN a 51 0 + v.toNat * 2 ^ 52

/-- One step of the generator of R278. -/
def srStep (x : BitVec 64) : BitVec 64 :=
  let x := x ^^^ (x <<< 13)
  let x := x ^^^ (x >>> 7)
  x ^^^ (x <<< 17)

/-- The generator after n steps. -/
def srSteps : Nat → BitVec 64 → BitVec 64
  | 0, x => x
  | n + 1, x => srSteps n (srStep x)

/-- A draw: the low 32 bits of a state. -/
def srDraw (x : BitVec 64) : Nat := x.toNat % 2 ^ 32

end Sys2Proof.Machine
end

