-- ==== Sys2Proof/Machine/Float.lean ====
section
/-! DEFINITION. Machine/Float.lean: the number formats and rounding of chapter 12 (R269 to R289), exact until the one
rounding of R276, and the special functions of R331. -/
namespace Sys2Proof.Machine

/-! ### Formats -/

/-- What the top exponent code means (Table 12-2). -/
inductive TopCode | ieee | e4m3 | normal
  deriving DecidableEq, Repr, Inhabited

/-- A floating-point format: total width, fraction width, bias, low bits ignored, meaning of the top code. -/
structure Fmt where
  w : Nat
  m : Nat
  bias : Nat
  low : Nat := 0
  top : TopCode := .ieee
  deriving DecidableEq, Repr, Inhabited

def f64 : Fmt := { w := 64, m := 52, bias := 1023 }
def f32 : Fmt := { w := 32, m := 23, bias := 127 }
def e8m10 : Fmt := { w := 32, m := 10, bias := 127, low := 13 }
def bf16 : Fmt := { w := 16, m := 7, bias := 127 }
def f16 : Fmt := { w := 16, m := 10, bias := 15 }
def e4m3 : Fmt := { w := 8, m := 3, bias := 7, top := .e4m3 }
def e5m2 : Fmt := { w := 8, m := 2, bias := 15 }
def e3m2 : Fmt := { w := 6, m := 2, bias := 3, top := .normal }
def e2m3 : Fmt := { w := 6, m := 3, bias := 1, top := .normal }
def e2m1 : Fmt := { w := 4, m := 1, bias := 1, top := .normal }
/-- The accumulator formats (R275). -/
def a40 : Fmt := { w := 40, m := 31, bias := 127 }
def a80 : Fmt := { w := 80, m := 64, bias := 16383 }

/-- The scalar float formats (R283). -/
def fmtOf : FFmt → Fmt
  | .fp64 => f64
  | .fp32 => f32
  | .fp16 => f16
  | .bf16 => bf16

/-- The float format of a code of Table 12-1 (0x00 to 0x09). -/
def floatCode (c : Nat) : Option Fmt :=
  match c with
  | 0x00 => some f64
  | 0x01 => some f32
  | 0x02 => some e8m10
  | 0x03 => some bf16
  | 0x04 => some f16
  | 0x05 => some e4m3
  | 0x06 => some e5m2
  | 0x07 => some e3m2
  | 0x08 => some e2m3
  | 0x09 => some e2m1
  | _ => none

/-- The integer format of a code: width and signedness (R272, Table 12-1). -/
def intCode (c : Nat) : Option (Nat × Bool) :=
  match c with
  | 0x0A => some (16, true)
  | 0x0B => some (16, false)
  | 0x0C => some (8, true)
  | 0x0D => some (8, false)
  | 0x0E => some (4, true)
  | 0x0F => some (4, false)
  | 0x10 => some (2, true)
  | 0x11 => some (2, false)
  | 0x20 => some (32, true)
  | 0x21 => some (32, false)
  | 0x22 => some (64, true)
  | 0x23 => some (64, false)
  | _ => none

/-- Element bits of a format code (Table 12-1). -/
def codeBits (c : Nat) : Nat :=
  match c with
  | 0x00 => 64
  | 0x01 => 32
  | 0x02 => 32
  | 0x03 => 16
  | 0x04 => 16
  | 0x07 => 6
  | 0x08 => 6
  | 0x09 => 4
  | 0x0A => 16
  | 0x0B => 16
  | 0x0E => 4
  | 0x0F => 4
  | 0x10 => 2
  | 0x11 => 2
  | 0x14 => 6
  | 0x15 => 6
  | 0x16 => 4
  | 0x18 => 4
  | 0x19 => 6
  | 0x1B => 4
  | 0x1D => 4
  | 0x1E => 1
  | 0x1F => 2
  | 0x20 => 32
  | 0x21 => 32
  | 0x22 => 64
  | 0x23 => 64
  | _ => 8

/-- Exponent of the smallest unit in the last place: 1 − B − M (R271). -/
def Fmt.qmin (F : Fmt) : Int := 1 - (F.bias : Int) - F.m
/-- Exponent of the smallest normal (EMIN of R276). -/
def Fmt.emin (F : Fmt) : Int := 1 - (F.bias : Int)
/-- Exponent field width. -/
def Fmt.ebits (F : Fmt) : Nat := F.w - F.low - 1 - F.m
/-- The top exponent code. -/
def Fmt.topE (F : Fmt) : Nat := 2 ^ F.ebits - 1
/-- The largest finite magnitude code: exponent and fraction together (Table 12-2). -/
def Fmt.maxCode (F : Fmt) : Nat :=
  match F.top with
  | .ieee => F.topE * 2 ^ F.m - 1
  | .e4m3 => 2 ^ (F.ebits + F.m) - 2
  | .normal => 2 ^ (F.ebits + F.m) - 1
/-- A format with an infinity. -/
def Fmt.hasInf (F : Fmt) : Bool := F.top == .ieee

/-- The word of a sign and a magnitude code. -/
def Fmt.pack (F : Fmt) (s : Bool) (code : Nat) : Nat :=
  (if s then 2 ^ (F.w - 1) else 0) + code * 2 ^ F.low

/-- The canonical NaN (Table 12-2); +0 where the format has none (Table 12-6). -/
def Fmt.cnan (F : Fmt) : Nat :=
  match F.top with
  | .ieee => F.pack false (F.topE * 2 ^ F.m + 2 ^ (F.m - 1))
  | .e4m3 => F.pack false (2 ^ (F.ebits + F.m) - 1)
  | .normal => 0

/-- The infinity of a sign; E4M3 gives its NaN of that sign, a format with neither gives ±MAX (Table 12-5, 12-6). -/
def Fmt.infOf (F : Fmt) (s : Bool) : Nat :=
  match F.top with
  | .ieee => F.pack s (F.topE * 2 ^ F.m)
  | .e4m3 => F.pack s (2 ^ (F.ebits + F.m) - 1)
  | .normal => F.pack s F.maxCode

/-- ±MAX. -/
def Fmt.maxOf (F : Fmt) (s : Bool) : Nat := F.pack s F.maxCode

/-! ### Values -/

/-- A value of a format: NaN (signalling or quiet), an infinity, or (−1)^s · n · 2^e. -/
inductive Fv
  | nan (sig : Bool)
  | inf (s : Bool)
  | fin (s : Bool) (n : Nat) (e : Int)
  deriving DecidableEq, Repr, Inhabited

/-- The value of some bits (R271). -/
def Fmt.value (F : Fmt) (bits : Nat) : Fv :=
  let x := bits % 2 ^ F.w
  let s := x / 2 ^ (F.w - 1) == 1
  let code := x % 2 ^ (F.w - 1) / 2 ^ F.low
  let e := code / 2 ^ F.m
  let f := code % 2 ^ F.m
  let fin : Fv := if e = 0 then .fin s f F.qmin else .fin s (2 ^ F.m + f) (F.qmin + (e - 1 : Nat))
  if e = F.topE then
    match F.top with
    | .ieee => if f = 0 then .inf s else .nan (f < 2 ^ (F.m - 1))
    | .e4m3 => if f = 2 ^ F.m - 1 then .nan false else fin
    | .normal => fin
  else fin

def Fv.isNan : Fv → Bool
  | .nan _ => true
  | _ => false
def Fv.isSnan : Fv → Bool
  | .nan s => s
  | _ => false
def Fv.isZero : Fv → Bool
  | .fin _ n _ => n == 0
  | _ => false
def Fv.isInf : Fv → Bool
  | .inf _ => true
  | _ => false
def Fv.sign : Fv → Bool
  | .nan _ => false
  | .inf s => s
  | .fin s _ _ => s

/-- The signed integer n of (−1)^s · n. -/
def sgnInt (s : Bool) (n : Nat) : Int := if s then -(n : Int) else n

/-- Comparison of two finite or infinite values: −1, 0 or 1. -/
def fvCmp : Fv → Fv → Int
  | .fin s n e, .fin t m d =>
      let q := min e d
      let a := sgnInt s n * 2 ^ (e - q).toNat
      let b := sgnInt t m * 2 ^ (d - q).toNat
      if a < b then -1 else if a = b then 0 else 1
  | .inf s, .inf t => if s == t then 0 else if s then -1 else 1
  | .inf s, _ => if s then -1 else 1
  | _, .inf t => if t then 1 else -1
  | _, _ => 0

/-! ### Rounding -/

/-- The resolved rounding modes of R234. -/
inductive RMode | rne | rtz | rup | rdn | sr
  deriving DecidableEq, Repr, Inhabited

/-- The mode FRM codes (Table 12-7). -/
def frmMode (frm : BitVec 3) : RMode :=
  match frm.toNat with
  | 1 => .rtz
  | 2 => .rup
  | 3 => .rdn
  | 4 => .sr
  | _ => .rne

/-- A rounding field with FRM for DYN (R281). -/
def rmMode (frm : BitVec 3) : Rm → RMode
  | .rne => .rne
  | .rtz => .rtz
  | .rup => .rup
  | .rdn => .rdn
  | .sr => .sr
  | .dyn => frmMode frm

/-- A 3-bit rounding field with FRM for DYN (5). -/
def bitsMode (frm : BitVec 3) (m : BitVec 3) : RMode := if m == 5 then frmMode frm else frmMode m

/-- A positive exact magnitude: (n / d) · 2^e, or its square root. -/
structure Mag where
  n : Nat
  d : Nat := 1
  e : Int := 0
  root : Bool := false
  deriving DecidableEq, Repr, Inhabited

/-- Digit by digit square root. -/
def isqrtGo : Nat → Nat → Nat → Nat
  | 0, n, r => if (r + 1) * (r + 1) ≤ n then r + 1 else r
  | k + 1, n, r =>
      let c := r + 2 ^ (k + 1)
      if c * c ≤ n then isqrtGo k n c else isqrtGo k n r
def isqrt (n : Nat) : Nat := isqrtGo (n.log2 / 2 + 1) n 0

/-- floor(x / 2^q) of a magnitude, and whether something is left over. -/
def Mag.floorAt (x : Mag) (q : Int) : Nat × Bool :=
  let k := if x.root then x.e - 2 * q else x.e - q
  let num := x.n * 2 ^ k.toNat
  let den := x.d * 2 ^ (-k).toNat
  let t := num / den
  if x.root then
    let r := isqrt t
    (r, r * r * den != num)
  else (t, t * den != num)

/-- floor(log2 x) of a positive magnitude. -/
def Mag.log2 (x : Mag) : Int :=
  let k : Int := (x.n.log2 : Int) - x.d.log2
  let below := if 0 ≤ k then x.n < x.d * 2 ^ k.toNat else x.n * 2 ^ (-k).toNat < x.d
  let l := (if below then k - 1 else k) + x.e
  if x.root then l / 2 else l

/-- The flags of FCSR [4:0]: NV, DZ, OF, UF, NX. -/
abbrev Flags := BitVec 5
def fNV : Flags := 16
def fDZ : Flags := 8
def fOF : Flags := 4
def fUF : Flags := 2
def fNX : Flags := 1

/-- Whether a discarded part rounds up: the fraction below the unit as f34 / 2^34 and a sticky rest (R276). -/
def roundsUp (mode : RMode) (draw : Nat) (s : Bool) (odd : Bool) (f34 : Nat) (sticky : Bool) : Bool :=
  match mode with
  | .rne => f34 > 2 ^ 33 || (f34 == 2 ^ 33 && (sticky || odd))
  | .rtz => false
  | .rup => !s
  | .rdn => s
  | .sr => draw < f34 / 4

/-- The overflow result of Table 12-5. -/
def Fmt.overflow (F : Fmt) (mode : RMode) (s : Bool) : Nat :=
  match mode with
  | .rne => F.infOf s
  | .sr => F.infOf s
  | .rtz => F.maxOf s
  | .rup => if s then F.maxOf s else F.infOf s
  | .rdn => if s then F.infOf s else F.maxOf s

/-- round_fmt of a non-zero magnitude with a sign (R276): bits, flags, and whether it overflowed. -/
def Fmt.roundMag (F : Fmt) (mode : RMode) (draw : Nat) (s : Bool) (x : Mag) : Nat × Flags × Bool :=
  let e := x.log2
  let q := max e F.emin - F.m
  let (t, sticky) := x.floorAt (q - 34)
  let lo := t / 2 ^ 34
  let f34 := t % 2 ^ 34
  let inexact := f34 != 0 || sticky
  let v := if inexact && roundsUp mode draw s (lo % 2 == 1) f34 sticky then lo + 1 else lo
  let code := (q - F.qmin).toNat * 2 ^ F.m + v
  let nx := if inexact then fNX else 0
  let uf := if inexact && e < F.emin then fUF else 0
  if code > F.maxCode then (F.overflow mode s, fOF ||| fNX, true)
  else (F.pack s code, nx ||| uf, false)

/-- round_fmt of a finite value (zero keeps its sign and is exact). -/
def Fmt.roundFin (F : Fmt) (mode : RMode) (draw : Nat) (s : Bool) (n : Nat) (e : Int) : Nat × Flags :=
  if n = 0 then (F.pack s 0, 0)
  else
    let (b, f, _) := F.roundMag mode draw s { n := n, e := e }
    (b, f)

/-! ### Arithmetic (R284, Table 12-10) -/

/-- The NaN rows of Table 12-10 over some operands. -/
def nanRow (F : Fmt) (xs : List Fv) : Option (Nat × Flags) :=
  if xs.any Fv.isSnan then some (F.cnan, fNV)
  else if xs.any Fv.isNan then some (F.cnan, 0)
  else none

/-- The sum of two finite values as a signed integer and an exponent. -/
def sumFin (s : Bool) (n : Nat) (e : Int) (t : Bool) (m : Nat) (d : Int) : Int × Int :=
  let q := min e d
  (sgnInt s n * 2 ^ (e - q).toNat + sgnInt t m * 2 ^ (d - q).toNat, q)

/-- A sum of values, neither NaN: infinities and zeros as Table 12-10, else one rounding. -/
def fsum (F : Fmt) (mode : RMode) (draw : Nat) (x y : Fv) : Nat × Flags :=
  match x, y with
  | .inf s, .inf t => if s == t then (F.infOf s, 0) else (F.cnan, fNV)
  | .inf s, _ => (F.infOf s, 0)
  | _, .inf t => (F.infOf t, 0)
  | .fin s n e, .fin t m d =>
      let (v, q) := sumFin s n e t m d
      if v = 0 then
        (if n = 0 ∧ m = 0 ∧ s = true ∧ t = true then (F.pack true 0, 0)
         else if n = 0 ∧ m = 0 ∧ s = false ∧ t = false then (F.pack false 0, 0)
         else (F.pack (mode == .rdn) 0, 0))
      else F.roundFin mode draw (v < 0) v.natAbs q
  | _, _ => (F.cnan, 0)

/-- A value with its sign inverted. -/
def Fv.neg : Fv → Fv
  | .nan s => .nan s
  | .inf s => .inf (!s)
  | .fin s n e => .fin (!s) n e

def fadd (F : Fmt) (mode : RMode) (draw : Nat) (a b : Nat) : Nat × Flags :=
  let x := F.value a
  let y := F.value b
  (nanRow F [x, y]).getD (fsum F mode draw x y)

def fsub (F : Fmt) (mode : RMode) (draw : Nat) (a b : Nat) : Nat × Flags :=
  let x := F.value a
  let y := F.value b
  (nanRow F [x, y]).getD (fsum F mode draw x y.neg)

/-- The exact product of two values: none for 0 × Inf. -/
def fvMul : Fv → Fv → Option Fv
  | .inf s, .inf t => some (.inf (s != t))
  | .inf s, .fin t n _ => if n = 0 then none else some (.inf (s != t))
  | .fin s n _, .inf t => if n = 0 then none else some (.inf (s != t))
  | .fin s n e, .fin t m d => some (.fin (s != t) (n * m) (e + d))
  | .nan s, _ => some (.nan s)
  | _, .nan s => some (.nan s)

def fmul (F : Fmt) (mode : RMode) (draw : Nat) (a b : Nat) : Nat × Flags :=
  let x := F.value a
  let y := F.value b
  (nanRow F [x, y]).getD
    (match fvMul x y with
     | none => (F.cnan, fNV)
     | some (.inf s) => (F.infOf s, 0)
     | some (.fin s n e) => F.roundFin mode draw s n e
     | some (.nan _) => (F.cnan, 0))

def fdiv (F : Fmt) (mode : RMode) (draw : Nat) (a b : Nat) : Nat × Flags :=
  let x := F.value a
  let y := F.value b
  (nanRow F [x, y]).getD
    (match x, y with
     | .inf _, .inf _ => (F.cnan, fNV)
     | .inf s, .fin t _ _ => (F.infOf (s != t), 0)
     | .fin s _ _, .inf t => (F.pack (s != t) 0, 0)
     | .fin s n e, .fin t m d =>
         if m = 0 then (if n = 0 then (F.cnan, fNV) else (F.infOf (s != t), fDZ))
         else if n = 0 then (F.pack (s != t) 0, 0)
         else
           let (b, f, _) := F.roundMag mode draw (s != t) { n := n, d := m, e := e - d }
           (b, f)
     | _, _ => (F.cnan, 0))

def fsqrt (F : Fmt) (mode : RMode) (draw : Nat) (a : Nat) : Nat × Flags :=
  let x := F.value a
  (nanRow F [x]).getD
    (match x with
     | .inf s => if s then (F.cnan, fNV) else (F.infOf false, 0)
     | .fin s n e =>
         if n = 0 then (F.pack s 0, 0)
         else if s then (F.cnan, fNV)
         else
           let (b, f, _) := F.roundMag mode draw false { n := n, e := e, root := true }
           (b, f)
     | _ => (F.cnan, 0))

/-- FMA: 0 × Inf gives NaN with NV whatever c holds (R284). -/
def fma (F : Fmt) (mode : RMode) (draw : Nat) (a b c : Nat) : Nat × Flags :=
  let x := F.value a
  let y := F.value b
  let z := F.value c
  if (x.isInf && y.isZero) || (x.isZero && y.isInf) then (F.cnan, fNV)
  else (nanRow F [x, y, z]).getD
    (match fvMul x y with
     | none => (F.cnan, fNV)
     | some p => fsum F mode draw p z)

/-- FMIN and FMAX (R285): −0 counts as less than +0. -/
def fminmax (F : Fmt) (wantMax prop : Bool) (a b : Nat) : Nat × Flags :=
  let x := F.value a
  let y := F.value b
  let fl := if x.isSnan || y.isSnan then fNV else 0
  let a := a % 2 ^ F.w
  let b := b % 2 ^ F.w
  let r :=
    if x.isNan && y.isNan then F.cnan
    else if x.isNan then (if prop then F.cnan else b)
    else if y.isNan then (if prop then F.cnan else a)
    else
      let c := fvCmp x y
      let aLess := c < 0 || (c == 0 && x.sign && !y.sign)
      let bLess := c > 0 || (c == 0 && y.sign && !x.sign)
      if wantMax then (if aLess then b else a) else (if bLess then b else a)
  (r, fl)

/-- FSGN (R286). -/
def fsgn (F : Fmt) (k : Sgn) (a b : Nat) : Nat :=
  let h := 2 ^ (F.w - 1)
  let sa := a % 2 ^ F.w / h
  let sb := b % 2 ^ F.w / h
  let t := match k with
    | .j => sb
    | .jn => 1 - sb
    | .jx => sa ^^^ sb
  a % h + t * h

/-- FCMP (R287). -/
def fcmp (F : Fmt) (k : FCond) (a b : Nat) : Nat × Flags :=
  let x := F.value a
  let y := F.value b
  let anyNan := x.isNan || y.isNan
  let anySig := x.isSnan || y.isSnan
  let quiet := if anySig then fNV else 0
  let loud := if anyNan then fNV else 0
  let c := fvCmp x y
  match k with
  | .eq => (ofBool (!anyNan && c == 0), quiet)
  | .lt => (ofBool (!anyNan && c < 0), loud)
  | .le => (ofBool (!anyNan && c ≤ 0), loud)
  | .un => (ofBool anyNan, quiet)
  | .ltq => (ofBool (!anyNan && c < 0), quiet)
  | .leq => (ofBool (!anyNan && c ≤ 0), quiet)

/-- FCLASS (R288). -/
def fclass (F : Fmt) (a : Nat) : Nat :=
  match F.value a with
  | .inf s => if s then 1 else 128
  | .nan sig => if sig then 256 else 512
  | .fin s n _ =>
      if n = 0 then (if s then 8 else 16)
      else if n < 2 ^ F.m then (if s then 4 else 32)
      else (if s then 2 else 64)

/-! ### Conversion (R277, R289) -/

/-- cvt from a value to a format (Table 12-6). -/
def cvtValue (F : Fmt) (mode : RMode) (draw : Nat) (sat : Bool) (x : Fv) : Nat × Flags :=
  match x with
  | .nan sig => (F.cnan, (if sig || F.top == .normal then fNV else 0))
  | .inf s =>
      if sat then (F.maxOf s, fNV)
      else (F.infOf s, if F.hasInf then 0 else fNV)
  | .fin s n e =>
      if n = 0 then (F.pack s 0, 0)
      else
        let (b, f, ov) := F.roundMag mode draw s { n := n, e := e }
        (if ov && sat then F.maxOf s else b, f)

/-- FCVT; with FROM equal to TO the value is unchanged but for a NaN (R289). -/
def cvt (frm dst : Nat) (mode : RMode) (draw : Nat) (sat : Bool) (v : Nat) : Nat × Flags :=
  match floatCode frm, floatCode dst with
  | some A, some B =>
      let x := A.value v
      if frm = dst then
        (match x with
         | .nan sig => (B.cnan, if sig then fNV else 0)
         | _ => (v % 2 ^ A.w / 2 ^ A.low * 2 ^ A.low, 0))
      else cvtValue B mode draw sat x
  | _, _ => (0, 0)

/-- A finite value rounded to an integer by a mode: the integer, and whether it is inexact. -/
def roundInt (mode : RMode) (draw : Nat) (s : Bool) (n : Nat) (e : Int) : Int × Bool :=
  let (t, sticky) := Mag.floorAt { n := n, e := e } (-34)
  let lo := t / 2 ^ 34
  let f34 := t % 2 ^ 34
  let inexact := f34 != 0 || sticky
  let v := if inexact && roundsUp mode draw s (lo % 2 == 1) f34 sticky then lo + 1 else lo
  (sgnInt s v, inexact)

/-- The range of an integer format. -/
def intLo (w : Nat) (signed : Bool) : Int := if signed then -(2 ^ (w - 1) : Int) else 0
def intHi (w : Nat) (signed : Bool) : Int := if signed then 2 ^ (w - 1) - 1 else 2 ^ w - 1

/-- FTOI of a value into a w-bit integer (R289). -/
def ftoiValue (w : Nat) (signed : Bool) (mode : RMode) (draw : Nat) (sat : Bool) (x : Fv) : Nat × Flags :=
  let lo := intLo w signed
  let hi := intHi w signed
  let bad := if signed then zextI lo w else 2 ^ w - 1
  match x with
  | .nan _ => (if sat then 0 else bad, fNV)
  | .inf s => (if sat then zextI (if s then lo else hi) w else bad, fNV)
  | .fin s n e =>
      let (q, inexact) := roundInt mode draw s n e
      if q < lo ∨ hi < q then
        (if sat then zextI (if q < lo then lo else hi) w else bad, fNV)
      else (zextI q w, if inexact then fNX else 0)

/-- An integer of a format code. -/
def intValue (w : Nat) (signed : Bool) (v : Nat) : Int := if signed then sextN v w else (v % 2 ^ w : Nat)

/-- ITOF of an integer (R289): zero gives +0. -/
def itofValue (F : Fmt) (mode : RMode) (draw : Nat) (sat : Bool) (i : Int) : Nat × Flags :=
  cvtValue F mode draw sat (.fin (i < 0) i.natAbs 0)

/-! ### Conversion words (Table 12-12) -/

/-- A conversion word with its reserved bits zero and a defined mode. -/
structure ConvWord where
  frm : Nat
  dst : Nat
  mode : BitVec 3
  sat : Bool
  deriving DecidableEq, Repr, Inhabited

def convWordOf (b : BitVec 64) : Option ConvWord :=
  let n := b.toNat
  let mode := bitsN n 18 16
  if bitsN n 63 21 = 0 ∧ bitsN n 19 19 = 0 ∧ bitsN n 15 14 = 0 ∧ bitsN n 7 6 = 0 ∧ mode ≤ 5 then
    some { frm := bitsN n 5 0, dst := bitsN n 13 8, mode := BitVec.ofNat 3 mode, sat := bitsN n 20 20 == 1 }
  else none

/-- The scalar pairs of R289: 0 FCVT, 1 FTOI, 2 ITOF. -/
def convFcvt (c : ConvWord) : Bool := (floatCode c.frm).isSome && (floatCode c.dst).isSome
def convFtoi (c : ConvWord) : Bool := (floatCode c.frm).isSome && (intCode c.dst).isSome
def convItof (c : ConvWord) : Bool := (intCode c.frm).isSome && (floatCode c.dst).isSome

/-- Any permitted conversion of one element (R289, R326): TER2 counts as an integer from −1 to +1 whose code 0b10
reads as 0 (R272). -/
def convElem (c : ConvWord) (mode : RMode) (draw : Nat) (v : Nat) : Nat × Flags :=
  let srcInt : Option Int :=
    if c.frm = 0x1F then some (match v % 4 with | 1 => 1 | 3 => -1 | _ => 0)
    else (intCode c.frm).map fun p => intValue p.1 p.2 v
  match srcInt with
  | none =>
      (match floatCode c.frm, floatCode c.dst with
       | some _, some _ => cvt c.frm c.dst mode draw c.sat v
       | some A, none =>
           (match intCode c.dst with
            | some (w, sg) => ftoiValue w sg mode draw c.sat (A.value v)
            | none =>
                let x := A.value v
                (match x with
                 | .nan _ => (0, fNV)
                 | .inf s => (if s then 3 else 1, fNV)
                 | .fin s n e =>
                     let (q, inexact) := roundInt mode draw s n e
                     if q < -1 ∨ 1 < q then (if q < 0 then 3 else 1, fNV)
                     else (zextI q 2, if inexact then fNX else 0)))
       | none, _ => (0, 0))
  | some i =>
      (match floatCode c.dst with
       | some B => itofValue B mode draw c.sat i
       | none =>
           (match intCode c.dst with
            | some (w, sg) =>
                if c.sat then (zextI (min (max i (intLo w sg)) (intHi w sg)) w, 0) else (zextI i w, 0)
            | none => (zextI (min (max i (-1)) 1) 2, 0)))

/-! ### Special functions (R331) -/

/-- ln 2, scaled by 2^200. -/
def ln2Fix : Nat := 1113844574712631719546256151097547306333272293549090750737802

/-- exp of a fixed-point r / 2^200 in [0, 1), as a sum of terms. -/
def expSum : Nat → Nat → Nat → Nat → Nat → Nat
  | 0, _, _, _, acc => acc
  | k + 1, i, r, term, acc =>
      let t := term * r / (2 ^ 200 * i)
      expSum k (i + 1) r t (acc + t)
def expFix (r : Nat) : Nat := expSum 60 1 r (2 ^ 200) (2 ^ 200)

/-- atanh of t / 2^200: the sum of t^(2i+1) / (2i+1). -/
def atanhSum : Nat → Nat → Nat → Nat → Nat → Nat
  | 0, _, _, _, acc => acc
  | k + 1, i, t2, p, acc => atanhSum k (i + 2) t2 (p * t2 / 2 ^ 200) (acc + p / i)
def atanhFix (t : Nat) : Nat := atanhSum 80 1 (t * t / 2 ^ 200) t 0

/-- A value scaled by 2^200, rounded down. -/
def fixOf (s : Bool) (n : Nat) (e : Int) : Int := (sgnInt s n * 2 ^ (e + 200).toNat) / 2 ^ (-(e + 200)).toNat

/-- e^x or 2^x of x scaled by 2^200: a magnitude. -/
def expMag (base2 : Bool) (x : Int) : Mag :=
  let one : Int := if base2 then 2 ^ 200 else (ln2Fix : Int)
  let k := x / one
  let r := (x - k * one).toNat
  let r' := if base2 then r * ln2Fix / 2 ^ 200 else r
  { n := expFix r', e := k - 200 }

/-- ln of n · 2^e scaled by 2^200, with the argument brought near 1. -/
def lnFix (n : Nat) (e : Int) : Int :=
  let b := n.log2
  let m := n * 2 ^ 200 / 2 ^ b
  let (m, k) := if 3 * 2 ^ 199 < m then (m / 2, (b : Int) + e + 1) else (m, (b : Int) + e)
  let one : Nat := 2 ^ 200
  let a : Int :=
    if one ≤ m then 2 * (atanhFix ((m - one) * one / (m + one)) : Int)
    else -(2 * (atanhFix ((one - m) * one / (m + one)) : Int))
  a + k * ln2Fix

/-- The result of a special function whose exact value is not representable: correctly rounded at 16 bits; at FP32 one
of the values the bound of Table 14-6 allows, which the spec does not fix (`Config.specialChoice`, log 7). -/
def specialRound (fn : Nat) (F : Fmt) (bits : Nat) (s : Bool) (x : Mag) : Nat × Flags :=
  if F.w = 16 then
    let (b, f, _) := F.roundMag .rne 0 s x
    (b, f ||| fNX)
  else
    let (lo, f, _) := F.roundMag .rtz 0 s x
    let c := Config.specialChoice fn bits
    let (hi, f', ov) := F.roundMag (if s then .rdn else .rup) 0 s x
    let one := F.pack s (F.bias * 2 ^ F.m)
    if fn = 3 then
      (match c % 4 with
       | 0 => (lo, f ||| fNX)
       | 1 => (hi, f ||| fNX)
       | 2 => (if lo % 2 ^ (F.w - 1) = 0 then lo else lo - 1, f ||| fNX)
       | _ => (if hi = one then hi else hi + 1, f ||| fNX))
    else if f &&& fOF != 0 then (F.infOf s, fOF ||| fNX)
    else if c % 2 = 0 then (lo, f ||| fNX)
    else (hi, (if ov then fOF ||| fNX else f' ||| fNX))

/-- VEXP (R331). -/
def vexp (base2 : Bool) (F : Fmt) (bits : Nat) : Nat × Flags :=
  let x := F.value bits
  (nanRow F [x]).getD
    (match x with
     | .inf s => if s then (F.pack false 0, 0) else (F.infOf false, 0)
     | .fin s n e =>
         let l : Int := (n.log2 : Int) + e
         let isInt := base2 && (0 ≤ e || n % 2 ^ (-e).toNat == 0)
         if n = 0 then (F.pack false (F.bias * 2 ^ F.m), 0)
         else if 10 < l then
           (if s then specialRound 0 F bits false { n := 1, e := -2000 } else (F.infOf false, fOF ||| fNX))
         else if isInt then
           F.roundFin .rne 0 false 1 (sgnInt s (n * 2 ^ e.toNat / 2 ^ (-e).toNat))
         else specialRound 0 F bits false (expMag base2 (fixOf s n e))
     | _ => (F.cnan, 0))

/-- VLOG (R331). -/
def vlog (base2 : Bool) (F : Fmt) (bits : Nat) : Nat × Flags :=
  let x := F.value bits
  (nanRow F [x]).getD
    (match x with
     | .inf s => if s then (F.cnan, fNV) else (F.infOf false, 0)
     | .fin s n e =>
         let pow := n == 2 ^ n.log2
         let k : Int := (n.log2 : Int) + e
         if n = 0 then (F.infOf true, fDZ)
         else if s then (F.cnan, fNV)
         else if pow && k == 0 then (F.pack false 0, 0)
         else if pow && base2 then F.roundFin .rne 0 (k < 0) k.natAbs 0
         else
           let l := lnFix n e
           let m : Mag := if base2 then { n := l.natAbs, d := ln2Fix } else { n := l.natAbs, e := -200 }
           specialRound 1 F bits (l < 0) m
     | _ => (F.cnan, 0))

/-- VRSQ (R331). -/
def vrsq (F : Fmt) (bits : Nat) : Nat × Flags :=
  let x := F.value bits
  (nanRow F [x]).getD
    (match x with
     | .inf s => if s then (F.cnan, fNV) else (F.pack false 0, 0)
     | .fin s n e =>
         if n = 0 then (F.infOf s, fDZ)
         else if s then (F.cnan, fNV)
         else
           let m : Mag := { n := 1, d := n, e := -e, root := true }
           let (b, f, _) := F.roundMag .rtz 0 false m
           if f == 0 then (b, 0) else specialRound 2 F bits false m
     | _ => (F.cnan, 0))

/-- VTANH (R331): below 2^−12 the value x − x³/3 decides between neighbours. -/
def vtanh (F : Fmt) (bits : Nat) : Nat × Flags :=
  let x := F.value bits
  (nanRow F [x]).getD
    (match x with
     | .inf s => (F.pack s (F.bias * 2 ^ F.m), 0)
     | .fin s n e =>
         let l : Int := (n.log2 : Int) + e
         if n = 0 then (F.pack s 0, 0)
         else if 6 < l then specialRound 3 F bits s { n := 2 ^ 200 - 1, e := -200 }
         else if l < -12 then
           let sq : Int := -2 * e
           specialRound 3 F bits s { n := n * (3 * 2 ^ sq.toNat - n * n), d := 3, e := e - sq.toNat }
         else
           let m := expMag false (2 * fixOf false n e)
           let v := m.n * 2 ^ (m.e + 200).toNat
           specialRound 3 F bits s { n := v - 2 ^ 200, d := v + 2 ^ 200 }
     | _ => (F.cnan, 0))

end Sys2Proof.Machine
end

