-- ==== Sys2Proof/Machine/Info.lean ====
section
/-! DEFINITION. Machine/Info.lean: what the instruction tables say of each block instruction besides its effect:
its header, the ports it uses, its place in sequence, what it is counted in, the kind of its result
(Tables 11-1, 11-3, 11-4, 12-8, 13-2, 14-2, 15-3, 16-1; R224, R226, R228, R230, R278). -/
namespace Sys2Proof.Machine

/-- The engines of a cell (R137). -/
inductive Engine | txe | vxe | mxe
  deriving DecidableEq, Repr, Inhabited

/-- What an instruction may deliver: a value like any result (R232), a result that may go only to slots
(R292, R311, R338, R364), or none. -/
inductive ResKind | value | slotOnly | nores
  deriving DecidableEq, Repr, Inhabited

/-- How port c is used: not at all, as a required operand, or as the order port (R224, R293). -/
inductive CUse | no | operand | order
  deriving DecidableEq, Repr, Inhabited

/-- Which count of the block header an instruction belongs to (Table 10-1). -/
inductive Counted | no | nst | nsend
  deriving DecidableEq, Repr, Inhabited

/-- The kinds of Table 8-1; `engine` is a sequenced engine command that is no memory operation of the table. -/
inductive MemKind | no | load | store | commit | ordering | engine
  deriving DecidableEq, Repr, Inhabited

/-- Whether an instruction takes a stochastic draw (R278): never, always counted, or when FRM is SR. -/
inductive DrawUse | no | yes | dyn
  deriving DecidableEq, Repr, Inhabited

/-- The facts of one block instruction. -/
structure Info where
  hdr : Hdr
  pa : Bool := false
  pb : Bool := false
  pc : CUse := .no
  hi : Bool := false
  seq : Option (BitVec 5) := none
  tsc : Scope := .none
  res : ResKind := .nores
  cnt : Counted := .no
  exitc : Bool := false
  eng : Option Engine := none
  kind : MemKind := .no
  sup : Bool := false
  words : Nat := 0
  draw : DrawUse := .no
  deriving DecidableEq, Repr, Inhabited

/-- A header with no targets. -/
def bare (p : Pr) : Hdr := { pr := p, ta := .none, tb := .none }

/-- The draw use of a rounding field. -/
def drawOf : Rm → DrawUse
  | .sr => .yes
  | .dyn => .dyn
  | _ => .no

/-- The draw use of a 3-bit rounding field (vector and matrix instructions). -/
def drawOfBits (m : BitVec 3) : DrawUse := if m == 4 then .yes else if m == 5 then .dyn else .no

/-- A result of ports a, b and c. -/
def infoV (h : Hdr) (pa pb : Bool) (pc : CUse := .no) (draw : DrawUse := .no) : Info :=
  { hdr := h, pa := pa, pb := pb, pc := pc, res := .value, draw := draw }

/-- An exit without a result. -/
def infoX (p : Pr) (pa : Bool) : Info := { hdr := bare p, pa := pa, exitc := true }

/-- A load of layout A. -/
def infoLd (h : Hdr) (l : LayA) (pb : Bool := false) : Info :=
  { hdr := h, pa := true, pb := pb, pc := .order, seq := some l.seq, tsc := l.tsc, res := .value, kind := .load }

/-- A store of layout A. -/
def infoSt (h : Hdr) (l : LayA) (hi : Bool := false) : Info :=
  { hdr := h, pa := true, pb := true, hi := hi, pc := .order, seq := some l.seq, tsc := l.tsc, cnt := .nst,
    kind := .store }

/-- An atomic of layout A: commit-time, its old value goes to slots. -/
def infoAt (h : Hdr) (l : LayA) (hi : Bool := false) : Info :=
  { hdr := h, pa := true, pb := true, hi := hi, pc := .order, seq := some l.seq, tsc := l.tsc, res := .slotOnly,
    cnt := .nst, kind := .commit }

/-- A semaphore acquire of layout Q. -/
def infoQ (h : Hdr) (l : LayQ) (res : ResKind) : Info :=
  { hdr := h, pb := l.amt.isNone, pc := .order, seq := some l.seq, tsc := l.tsc, res := res, kind := .commit }

/-- A message of layout S. -/
def infoMsg (h : Hdr) (l : LayS) : Info :=
  { hdr := h, pa := true, pb := true, pc := .order, seq := some l.seq, tsc := l.tsc, cnt := .nsend, kind := .store,
    words := l.wcnt.toNat }

/-- A VXE register instruction. -/
def infoR (h : Hdr) (l : LayR) (pb : Bool := false) (res : ResKind := .nores) (draw : DrawUse := .no) : Info :=
  { hdr := h, pb := pb, seq := some l.seq, res := res, eng := some .vxe, kind := .engine, draw := draw }

/-- A VXE lane-typed instruction; only float lanes draw. -/
def infoO (h : Hdr) (o : VOp) (l : LayR) (rounds : Bool) (res : ResKind := .nores) : Info :=
  infoR h l false res (if rounds && o.flt then drawOfBits o.m else .no)

/-- A VXE memory instruction. -/
def infoVM (h : Hdr) (seq : BitVec 5) (tsc : Scope) (kind : MemKind) (pb : Bool) (res : ResKind := .nores) : Info :=
  { hdr := h, pa := true, pb := pb, pc := .order, seq := some seq, tsc := tsc, res := res, eng := some .vxe,
    kind := kind }

/-- An MXE instruction. -/
def infoM (h : Hdr) (seq : BitVec 5) (pa : Bool := false) (pb : Bool := false) (res : ResKind := .nores)
    (draw : DrawUse := .no) : Info :=
  { hdr := h, pa := pa, pb := pb, pc := .order, seq := some seq, res := res, eng := some .mxe, kind := .engine,
    draw := draw }

/-- A TXE instruction; the moving ones take a command word from STORE DATA with H = 1 (R364). -/
def infoT (h : Hdr) (seq : BitVec 5) (moves : Bool) (res : ResKind) : Info :=
  { hdr := h, pa := moves, pb := moves, hi := moves, seq := some seq, res := res, eng := some .txe, kind := .engine }

/-- An unsequenced system instruction. -/
def infoS (h : Hdr) (pa pb : Bool) (res : ResKind) (sup : Bool := false) (exitc : Bool := false)
    (pc : CUse := .no) : Info :=
  { hdr := h, pa := pa, pb := pb, pc := pc, res := res, sup := sup, exitc := exitc }

/-- The facts of a block instruction; none for a vault entry or an event. -/
def infoOf : Instr → Option Info
  | .br p _ => some (infoX p false)
  | .jmp p => some (infoX p true)
  | .call h _ => some { infoV h true false with exitc := true }
  | .callr h => some { infoV h true true with exitc := true }
  | .ret p => some (infoX p true)
  | .done p => some (infoX p false)
  | .yield p => some (infoX p true)
  | .trap p => some (infoX p true)
  | .null h => some (infoV h false false)
  | .mov h _ => some (infoV h true false)
  | .movi h _ _ _ => some (infoV h false false)
  | .movhi h _ => some (infoV h true false)
  | .sel h _ => some (infoV h true true .operand)
  | .baddr h => some (infoV h false false)
  | .teq h _ => some (infoV h true true)
  | .tne h _ => some (infoV h true true)
  | .tlt h _ => some (infoV h true true)
  | .tle h _ => some (infoV h true true)
  | .tltu h _ => some (infoV h true true)
  | .tleu h _ => some (infoV h true true)
  | .teqi h _ _ => some (infoV h true false)
  | .tnei h _ _ => some (infoV h true false)
  | .tlti h _ _ => some (infoV h true false)
  | .tlei h _ _ => some (infoV h true false)
  | .tltui h _ _ => some (infoV h true false)
  | .tleui h _ _ => some (infoV h true false)
  | .tbit h _ _ => some (infoV h true false)
  | .tnz h _ _ => some (infoV h true false)
  | .add h _ => some (infoV h true true)
  | .sub h _ => some (infoV h true true)
  | .addi h _ _ => some (infoV h true false)
  | .adds h _ => some (infoV h true true)
  | .addsu h _ => some (infoV h true true)
  | .subs h _ => some (infoV h true true)
  | .subsu h _ => some (infoV h true true)
  | .neg h _ _ => some (infoV h true false)
  | .abs h _ _ => some (infoV h true false)
  | .min h _ => some (infoV h true true)
  | .max h _ => some (infoV h true true)
  | .minu h _ => some (infoV h true true)
  | .maxu h _ => some (infoV h true true)
  | .mul h _ => some (infoV h true true)
  | .mulh h _ => some (infoV h true true)
  | .mulhu h _ => some (infoV h true true)
  | .mulhsu h _ => some (infoV h true true)
  | .madd h _ => some (infoV h true true .operand)
  | .div h _ => some (infoV h true true)
  | .divu h _ => some (infoV h true true)
  | .rem h _ => some (infoV h true true)
  | .remu h _ => some (infoV h true true)
  | .and h _ => some (infoV h true true)
  | .or h _ => some (infoV h true true)
  | .xor h _ => some (infoV h true true)
  | .andn h _ => some (infoV h true true)
  | .andi h _ _ _ => some (infoV h true false)
  | .ori h _ _ _ => some (infoV h true false)
  | .xori h _ _ _ => some (infoV h true false)
  | .shl h _ n => some (infoV h true n.isNone)
  | .shr h _ n => some (infoV h true n.isNone)
  | .sar h _ n => some (infoV h true n.isNone)
  | .rol h _ n => some (infoV h true n.isNone)
  | .ror h _ n => some (infoV h true n.isNone)
  | .clz h _ => some (infoV h true false)
  | .ctz h _ => some (infoV h true false)
  | .popc h _ => some (infoV h true false)
  | .bfx h _ _ _ => some (infoV h true false)
  | .bfxu h _ _ _ => some (infoV h true false)
  | .bfi h _ _ _ => some (infoV h true true)
  | .fadd h _ m => some (infoV h true true .no (drawOf m))
  | .fsub h _ m => some (infoV h true true .no (drawOf m))
  | .fmul h _ m => some (infoV h true true .no (drawOf m))
  | .fdiv h _ m => some (infoV h true true .no (drawOf m))
  | .fsqrt h _ m => some (infoV h true false .no (drawOf m))
  | .fma h _ m => some (infoV h true true .operand (drawOf m))
  | .fmin h _ _ => some (infoV h true true)
  | .fmax h _ _ => some (infoV h true true)
  | .fsgn h _ _ => some (infoV h true true)
  | .fcmp h _ _ => some (infoV h true true)
  | .fclass h _ => some (infoV h true false)
  | .fcvt h => some (infoV h true true .no .yes)
  | .ftoi h => some (infoV h true true .no .yes)
  | .itof h => some (infoV h true true .no .yes)
  | .ld h _ _ _ _ l => some (infoLd h l)
  | .st h _ _ x2 l => some (infoSt h l x2)
  | .ldf h _ _ l => some (infoLd h l)
  | .ldfe h _ _ l => some { infoAt h l with pb := false }
  | .stf h _ l => some (infoSt h l)
  | .aadd h _ l => some (infoAt h l)
  | .aand h _ l => some (infoAt h l)
  | .aor h _ l => some (infoAt h l)
  | .axor h _ l => some (infoAt h l)
  | .amin h _ l => some (infoAt h l)
  | .amax h _ l => some (infoAt h l)
  | .aminu h _ l => some (infoAt h l)
  | .amaxu h _ l => some (infoAt h l)
  | .aswap h _ l => some (infoAt h l)
  | .acas h _ l => some (infoAt h l true)
  | .aadds h _ _ l => some (infoAt h l)
  | .afadd h _ _ l => some (infoAt h l)
  | .afmin h _ _ l => some (infoAt h l)
  | .afmax h _ _ l => some (infoAt h l)
  | .fence h seq _ => some { hdr := h, seq := some seq, kind := .ordering }
  | .cfence h seq => some { hdr := h, seq := some seq, kind := .ordering, cnt := .nst }
  | .sacq h l => some (infoQ h l .nores)
  | .sacqt h l => some (infoQ h l .slotOnly)
  | .srel h l => some { infoQ h l .nores with kind := .store, cnt := .nst }
  | .syncw h l => some (infoLd h l true)
  | .sbar h seq tsc _ => some { hdr := h, pc := .order, seq := some seq, tsc := tsc, cnt := .nst, kind := .store }
  | .cbar h seq _ => some { hdr := h, pc := .order, seq := some seq, res := .slotOnly, kind := .commit }
  | .send h l => some (infoMsg h l)
  | .wake h l => some (infoMsg h l)
  | .aaddb h _ l => some (infoAt h l true)
  | .vld h _ l => some (infoVM h l.seq l.tsc .load false)
  | .vst h _ l => some (infoVM h l.seq l.tsc .store false)
  | .vlds h _ l => some (infoVM h l.seq l.tsc .load true)
  | .vsts h _ l => some (infoVM h l.seq l.tsc .store true)
  | .vgath h _ l => some (infoVM h l.seq l.tsc .load false)
  | .vscat h _ l => some (infoVM h l.seq l.tsc .store false)
  | .vcst h _ l => some (infoVM h l.seq l.tsc .store true .slotOnly)
  | .vmov h _ l => some (infoR h l)
  | .vadd h o l => some (infoO h o l true)
  | .vsub h o l => some (infoO h o l true)
  | .vmul h o l => some (infoO h o l true)
  | .vfma h o l => some (infoO h o l true)
  | .vdiv h o l => some (infoO h o l true)
  | .vsqrt h o l => some (infoO h o l true)
  | .vmin h o l => some (infoO h o l false)
  | .vmax h o l => some (infoO h o l false)
  | .vabs h o l => some (infoO h o l false)
  | .vneg h o l => some (infoO h o l false)
  | .vand h _ l => some (infoR h l)
  | .vor h _ l => some (infoR h l)
  | .vxor h _ l => some (infoR h l)
  | .vshl h _ s l => some (infoR h l s)
  | .vshr h _ s l => some (infoR h l s)
  | .vsar h _ s l => some (infoR h l s)
  | .vcvt h l => some (infoR h l true .nores .yes)
  | .vcmp h o l => some (infoO h o l false)
  | .vmask h _ k l => some (infoR h l (k == 5) (if k == 6 || k == 7 then .slotOnly else .nores))
  | .vsel h _ l => some (infoR h l)
  | .vred h o l => some (infoO h o l false .slotOnly)
  | .vscan h o l => some (infoO h o l false)
  | .vperm h _ _ l => some (infoR h l)
  | .vbcast h _ lane l => some (infoR h l (!lane))
  | .vext h _ l => some (infoR h l true .slotOnly)
  | .vins h _ l => some { infoR h l true with pa := true }
  | .vexp h o l => some (infoO h o l false)
  | .vlog h o l => some (infoO h o l false)
  | .vrsq h o l => some (infoO h o l false)
  | .vtanh h o l => some (infoO h o l false)
  | .vbms h _ l => some { hdr := h, seq := some l.seq, eng := some .vxe, kind := .engine }
  | .vsrch h o l => some (infoO h o l false)
  | .mclaim h seq _ _ => some (infoM h seq false false .slotOnly)
  | .mrel h seq _ => some (infoM h seq)
  | .mclr h seq _ _ => some (infoM h seq)
  | .mma h l => some (infoM h l.seq true)
  | .mmasp h l _ => some (infoM h l.seq true)
  | .mmsc h l _ => some (infoM h l.seq true)
  | .mscl h seq _ b => some (infoM h seq false (b == .scalar))
  | .mcomb h seq _ _ _ => some (infoM h seq)
  | .mdrn h l => some (infoM h l.seq true true .nores (drawOfBits l.mode))
  | .mdrnt h l => some (infoM h l.seq true true .nores (drawOfBits l.mode))
  | .mtrn h seq _ => some (infoM h seq)
  | .mcvt h seq _ _ m => some (infoM h seq false false .nores (drawOf m))
  | .macc h seq _ _ _ => some (infoM h seq)
  | .mstat h seq => some (infoM h seq false false .slotOnly)
  | .xcpy h seq => some (infoT h seq true .slotOnly)
  | .xc2d h seq _ _ => some (infoT h seq true .slotOnly)
  | .xgath h seq _ => some (infoT h seq true .slotOnly)
  | .xscat h seq _ => some (infoT h seq true .slotOnly)
  | .xfill h seq => some (infoT h seq true .slotOnly)
  | .xarr h seq _ => some (infoT h seq false .nores)
  | .xqry h seq => some (infoT h seq false .slotOnly)
  | .cpost h seq tsc _ =>
      some { hdr := h, pa := true, pb := true, pc := .order, seq := some seq, tsc := tsc, cnt := .nst, kind := .store }
  | .cwait h seq _ => some { hdr := h, pc := .order, seq := some seq, res := .slotOnly, kind := .commit }
  | .cwaitChk h seq _ => some { hdr := h, pc := .order, seq := some seq, res := .slotOnly, kind := .commit }
  | .cpoll h seq _ => some { hdr := h, pc := .order, seq := some seq, res := .slotOnly, kind := .commit }
  | .cabrt h seq tsc _ => some { hdr := h, pc := .order, seq := some seq, tsc := tsc, cnt := .nst, kind := .store }
  | .drun h => some (infoS h true true .slotOnly)
  | .drunRel h => some (infoS h true true .slotOnly)
  | .drunRes h => some (infoS h true true .slotOnly true)
  | .drunResp h => some (infoS h true true .slotOnly true false .operand)
  | .dstop h => some (infoS h false false .nores)
  | .dstopEnd h => some (infoS h false false .nores)
  | .dpos h => some (infoS h false false .slotOnly)
  | .dposElap h => some (infoS h false false .slotOnly)
  | .dposT0 h => some (infoS h false false .slotOnly)
  | .csrr h _ => some (infoS h false false .value)
  | .csrw h _ => some (infoS h true false .nores true)
  | .csrs h _ => some (infoS h true false .value true)
  | .csrc h _ => some (infoS h true false .value true)
  | .csrx h _ => some (infoS h true false .value true)
  | .scall h _ => some (infoS h true false .nores false true)
  | .sret h => some (infoS h true false .nores true true)
  | .brk h _ => some (infoS h false false .nores)
  | .xtrig h => some (infoS h true false .nores)
  | .tbind h => some (infoS h true true .slotOnly true)
  | .tbindGen h => some (infoS h true false .slotOnly true)
  | .bcinv h => some (infoS h false false .nores)
  | .bcinvLine h => some (infoS h true false .nores)
  | .wfm h => some (infoS h true false .nores false true)
  | _ => none

end Sys2Proof.Machine
end

