-- ==== Sys2Proof/WellFormed.lean ====
section
/-! DEFINITION. WellFormed.lean: the checks on one instruction by itself: the word-level rules, whose breach is an
illegal instruction (R247, R259, R265, R267, R283, R291, R295, R301, R312, R338, R339, R365), the target placements
(R292, R311, R338, R364), and the static limits of a vault entry (R112, Tables 6-3 and 6-4).  Rules that need the
whole block are in Machine/Predecode.lean. -/
namespace Sys2Proof
open Sys2Proof.Machine (Info ResKind infoOf)

/-- The width in bits. -/
def Width.bits : Width → Nat
  | .w8 => 8
  | .w16 => 16
  | .w32 => 32
  | .w64 => 64

/-- Lanes of a 512-bit register at a width (R310). -/
def Width.lanes (w : Width) : Nat := 512 / w.bits

/-- A field that must fit a width with its length (R267). -/
def fieldFits (w : Width) (pos len1 : BitVec 6) : Bool := pos.toNat + len1.toNat + 1 ≤ w.bits

/-- An immediate shift amount below the width (R265). -/
def amtFits (w : Width) : Option (BitVec 6) → Bool
  | none => true
  | some n => n.toNat < w.bits

/-- A CSR number that Table 16-5 defines (R382). -/
def csrDefined (c : BitVec 12) : Bool :=
  let n := c.toNat
  n ≤ 0x015 || (0x018 ≤ n && n ≤ 0x01B) || (0x100 ≤ n && n ≤ 0x11A) || (0x120 ≤ n && n ≤ 0x127) ||
  (0x140 ≤ n && n ≤ 0x14F) || (0x160 ≤ n && n ≤ 0x1BF) ||
  (0x1C0 ≤ n && n ≤ 0x1DF && n % 8 ≤ 4) || (0x200 ≤ n && n ≤ 0x27F && n % 8 ≤ 4) ||
  (0x280 ≤ n && n ≤ 0x29F && n % 4 ≤ 2)

/-- A ring number of a descriptor (Table 13-1 layout G). -/
def ringDefined (r : BitVec 5) : Bool := r.toNat < 20

/-- Formats a drain may write (R339). -/
def drainFmt (f : BitVec 6) : Bool :=
  f.toNat ≤ 0x11 || f.toNat == 0x1F || (0x20 ≤ f.toNat && f.toNat ≤ 0x23)

/-- Formats MACC may read (R339). -/
def maccFmt (f : BitVec 5) : Bool := f.toNat ≤ 0x11 || f.toNat == 0x1F

/-- Limits of XM[2:0] for integer and float lanes, as the largest value allowed, or none where the lane type is
illegal (Table 14-3). -/
def lanesOk (o : VOp) (intMax fltMax : Option Nat) : Bool :=
  match o.flt with
  | false => (match intMax with | some n => o.m.toNat ≤ n | none => false)
  | true => (match fltMax with | some n => o.m.toNat ≤ n && o.w != .w8 | none => false)

/-- BF only with float lanes at width 16 (R312). -/
def bfOk (o : VOp) (l : LayR) : Bool := !l.bf || (o.flt && o.w == .w16)

/-- The fields a register-layout instruction leaves unused must be zero (R311, R312). -/
def unusedR (l : LayR) (vd va vb km z bf ex : Bool) : Bool :=
  (vd || l.vd == 0) && (va || l.va == 0) && (vb || l.vb == 0) && (km || l.km == 0) && (z || !l.z) &&
  (bf || !l.bf) && (ex || !l.ex)

/-- A lane-typed instruction with the fields of Table 14-2. -/
def laneInstr (o : VOp) (l : LayR) (intMax fltMax : Option Nat) (vb : Bool := true) : Bool :=
  lanesOk o intMax fltMax && bfOk o l && unusedR l true true vb true true true false

/-- An untyped register instruction. -/
def plainR (l : LayR) (va vb : Bool) : Bool := unusedR l true va vb true true false false

/-- The MMA family names an accumulator tile below 24 (R339). -/
def atOk (t : BitVec 5) : Bool := t.toNat ≤ 23

/-- VMASK's fields by XM (Table 14-5). -/
def vmaskOk (k : BitVec 3) (l : LayR) : Bool :=
  l.vd.toNat < 8 && l.va.toNat < 8 && l.vb.toNat < 8 &&
  (match k.toNat with
   | 4 => unusedR l true true false false false false false
   | 5 => unusedR l true false false false false false false
   | 6 => unusedR l false true false false false false false
   | 7 => unusedR l false true false false false false false
   | _ => unusedR l true true true false false false false)

/-- The static limits of a DRD or DWR target (Table 6-4). -/
def VTgt.ok : VTgt → Bool
  | .rng ring _ _ _ => ring.toNat < 20
  | _ => true

/-- The word-level rules of a block instruction, and the static limits of a vault entry. -/
def Instr.legal : Instr → Bool
  | .tbit _ w n => n.toNat < w.bits
  | .shl _ w n => amtFits w n
  | .shr _ w n => amtFits w n
  | .sar _ w n => amtFits w n
  | .rol _ w n => amtFits w n
  | .ror _ w n => amtFits w n
  | .bfx _ w p l => fieldFits w p l
  | .bfxu _ w p l => fieldFits w p l
  | .bfi _ w p l => fieldFits w p l
  | .ld _ w s at_ x2 l => (!x2 || (w == .w64 && !s && l.tsc == .none)) && (!at_ || w == .w32 || w == .w64)
  | .st _ w at_ x2 _ => (!x2 || w == .w64) && (!at_ || w == .w32 || w == .w64)
  | .afadd _ _ m _ => m != .sr
  | .fence _ _ sc => sc != .none
  | .sbar _ _ _ r => ringDefined r
  | .send _ l => l.vc != 6
  | .wake _ l => l.vc != 6 && l.wcnt == 0
  | .vst _ _ l => !l.z
  | .vsts _ _ l => !l.z
  | .vscat _ _ l => !l.z
  | .vcst _ _ l => !l.z && l.disp == 0
  | .vmov _ _ l => plainR l true false
  | .vadd _ o l => laneInstr o l (some 2) (some 5)
  | .vsub _ o l => laneInstr o l (some 2) (some 5)
  | .vmul _ o l => laneInstr o l (some 2) (some 5)
  | .vfma _ o l => laneInstr o l (some 0) (some 5)
  | .vdiv _ o l => laneInstr o l (some 1) (some 5)
  | .vsqrt _ o l => laneInstr o l none (some 5) false
  | .vmin _ o l => laneInstr o l (some 1) (some 1)
  | .vmax _ o l => laneInstr o l (some 1) (some 1)
  | .vabs _ o l => laneInstr o l (some 1) (some 0) false
  | .vneg _ o l => laneInstr o l (some 1) (some 0) false
  | .vand _ _ l => plainR l true true
  | .vor _ _ l => plainR l true true
  | .vxor _ _ l => plainR l true true
  | .vshl _ _ s l => plainR l true (!s)
  | .vshr _ _ s l => plainR l true (!s)
  | .vsar _ _ s l => plainR l true (!s)
  | .vcvt _ l => plainR l true true
  | .vcmp _ o l => laneInstr o l (some 5) (some 5) && l.vd.toNat < 8
  | .vmask _ _ k l => vmaskOk k l
  | .vsel _ _ l => unusedR l true true true true false false false && l.km != 0
  | .vred _ o l => lanesOk o (some 7) (some 2) && bfOk o l && unusedR l false true false true false true false
  | .vscan _ o l => lanesOk o (some 7) (some 2) && bfOk o l && unusedR l true true false true true true true
  | .vperm _ _ _ l => plainR l true true
  | .vbcast _ w lane l => plainR l lane lane && (!lane || l.vb.toNat < w.lanes)
  | .vext _ _ l => unusedR l false true false false false false false
  | .vins _ _ l => unusedR l true false false false false false false
  | .vexp _ o l => laneInstr o l none (some 1) false && o.w != .w64
  | .vlog _ o l => laneInstr o l none (some 1) false && o.w != .w64
  | .vrsq _ o l => laneInstr o l none (some 0) false && o.w != .w64
  | .vtanh _ o l => laneInstr o l none (some 0) false && o.w != .w64
  | .vbms _ o l =>
      (if o.flt then o.m == 0 && o.w != .w8 else o.m == 0 || o.m == 2) && 2 ^ l.j.toNat < o.w.lanes
  | .vsrch _ o l => laneInstr o l (some 3) (some 1)
  | .mclaim _ _ _ e => e.toNat ≤ 64
  | .mclr _ _ t lf => atOk t && (lf != .a80 || t.toNat % 2 == 0)
  | .mma _ l => atOk l.at_
  | .mmasp _ l _ => atOk l.at_
  | .mmsc _ l _ => atOk l.at_
  | .mscl _ _ t _ => atOk t
  | .mcomb _ _ d s _ => atOk d && atOk s
  | .mdrn _ l => atOk l.at_ && drainFmt l.fmt && l.mode.toNat ≤ 5
  | .mdrnt _ l => atOk l.at_ && drainFmt l.fmt && l.mode.toNat ≤ 5
  | .mtrn _ _ t => atOk t
  | .mcvt _ _ t _ _ => atOk t
  | .macc _ _ t _ f => atOk t && maccFmt f
  | .xarr _ _ r => ringDefined r
  | .csrr _ c => csrDefined c
  | .csrw _ c => csrDefined c
  | .csrs _ c => csrDefined c
  | .csrc _ c => csrDefined c
  | .csrx _ c => csrDefined c
  | .drd _ _ _ t _ _ => t.ok
  | .dwr _ _ _ t _ _ => t.ok
  | .dchk _ k i _ _ => (match k with | .sem => true | .ring => i.toNat < 20 | .sync => i.toNat < 8)
  | .dsig _ sem i n => if sem then n != 0 else i.toNat < 20 && n == 0
  | .drpt _ b n => b != 0 && n != 0
  | _ => true

/-- A target that a row of Tables 10-4 and 10-5 defines. -/
def Target.ok : Target → Bool
  | .malformed _ => false
  | _ => true

/-- A slot write or nothing. -/
def Target.slotOrNone : Target → Bool
  | .none => true
  | .slot _ _ => true
  | _ => false

/-- Where a done token may go (R292). -/
def Target.tokenOk : Target → Bool
  | .slot _ _ => true
  | .port _ .c => true
  | _ => false

/-- The placement of one value target under a result kind. -/
def resAllows : ResKind → Target → Bool
  | .value, t => t.ok
  | .slotOnly, t => t.slotOrNone
  | .nores, t => t == .none

/-- The placement rules of an instruction's two targets (R247, R292, R311, R338, R364). -/
def infoTargetsOk (f : Info) : Bool :=
  if f.tsc == .none then resAllows f.res f.hdr.ta && resAllows f.res f.hdr.tb
  else f.hdr.ta.tokenOk && resAllows f.res f.hdr.tb

/-- The placement rules of an instruction; vault entries and events have no targets. -/
def Instr.targetsOk (i : Instr) : Bool :=
  match infoOf i with
  | some f => infoTargetsOk f
  | none => true

/-- A block instruction or a vault entry. -/
def Instr.isVault : Instr → Bool
  | .dact .. => true
  | .drd .. => true
  | .dwr .. => true
  | .dpre .. => true
  | .dprea .. => true
  | .drefa .. => true
  | .drefb .. => true
  | .dwait .. => true
  | .dchk .. => true
  | .dsig .. => true
  | .drpt .. => true
  | .dend .. => true
  | _ => false

/-- Block instructions are those with an `Info`. -/
def Instr.isBlock (i : Instr) : Bool := (infoOf i).isSome

/-- A well-formed instruction: its word is legal and its targets are well placed. -/
def Instr.wf (i : Instr) : Bool := i.legal && i.targetsOk

end Sys2Proof
end

