-- ==== Sys2Proof/Decode.lean ====
section
/-! DEFINITION. Decode.lean: from 64-bit words to instructions and back: the fields of Table 10-3, the targets of
Tables 10-4 and 10-5, the layouts of Tables 10-6, 13-1, 14-1, 15-3 and 16-1, the opcode map (Table 10-7), and the
vault entries of Tables 6-2 to 6-4. -/
namespace Sys2Proof

/-! ### Fields -/

/-- The fields of an instruction word (Table 10-3). -/
structure Fields where
  op : BitVec 8
  pr : BitVec 2
  wd : BitVec 2
  xm : BitVec 4
  ta : BitVec 11
  tb : BitVec 11
  f : BitVec 26
  deriving DecidableEq, Repr, Inhabited

/-- Bits [lo + n - 1 : lo] of a vector. -/
abbrev slice {k : Nat} (x : BitVec k) (lo n : Nat) : BitVec n := x.extractLsb' lo n

/-- The fields of a word (R223). -/
def fieldsOf (x : Word) : Fields :=
  { op := slice x 56 8, pr := slice x 54 2, wd := slice x 52 2, xm := slice x 48 4, ta := slice x 37 11,
    tb := slice x 26 11, f := slice x 0 26 }

/-- The word of some fields. -/
def wordOf (x : Fields) : Word :=
  (x.op ++ x.pr ++ x.wd ++ x.xm ++ x.ta ++ x.tb ++ x.f : BitVec 64)

def prOf (x : BitVec 2) : Pr :=
  match x.toNat with
  | 0 => .always
  | 1 => .onTrue
  | 2 => .onFalse
  | _ => .gated

def prBits : Pr → BitVec 2
  | .always => 0
  | .onTrue => 1
  | .onFalse => 2
  | .gated => 3

def widthOf (x : BitVec 2) : Width :=
  match x.toNat with
  | 0 => .w8
  | 1 => .w16
  | 2 => .w32
  | _ => .w64

def widthBits : Width → BitVec 2
  | .w8 => 0
  | .w16 => 1
  | .w32 => 2
  | .w64 => 3

def portOf (x : BitVec 2) : Port :=
  match x.toNat with
  | 0 => .a
  | 1 => .b
  | 2 => .p
  | _ => .c

def portBits : Port → BitVec 2
  | .a => 0
  | .b => 1
  | .p => 2
  | .c => 3

/-- One bit of a flag. -/
def flag (b : Bool) : BitVec 1 := if b then 1 else 0

/-- A target from its 11 bits (R224). -/
def targetOf (x : BitVec 11) : Target :=
  match (slice x 9 2).toNat with
  | 0 => if slice x 0 9 == 0 then .none else .malformed x
  | 1 => .port (slice x 2 7) (portOf (slice x 0 2))
  | 2 => .slot (slice x 3 6) (slice x 0 3)
  | _ =>
    match (slice x 7 2).toNat with
    | 0 => if slice x 0 7 == 0 then .exit else .malformed x
    | 1 => if slice x 6 1 == 0 then .storeData (x.getLsbD 5) (slice x 0 5) else .malformed x
    | 2 => if slice x 5 2 == 0 then .sendData (slice x 2 3) (slice x 0 2) else .malformed x
    | _ => .malformed x

/-- The 11 bits of a target. -/
def targetBits : Target → BitVec 11
  | .none => 0
  | .port i p => (1#2 ++ i ++ portBits p : BitVec 11)
  | .slot s l => (2#2 ++ s ++ l : BitVec 11)
  | .exit => (3#2 ++ 0#9 : BitVec 11)
  | .storeData h s => (3#2 ++ 1#2 ++ 0#1 ++ flag h ++ s : BitVec 11)
  | .sendData n k => (3#2 ++ 2#2 ++ 0#2 ++ n ++ k : BitVec 11)
  | .malformed x => x

def scopeOf (x : BitVec 3) : Option Scope :=
  match x.toNat with
  | 0 => some .none
  | 1 => some .cel
  | 2 => some .clu
  | 3 => some .fld
  | 4 => some .waf
  | 5 => some .sys
  | _ => none

def scopeBits : Scope → BitVec 3
  | .none => 0
  | .cel => 1
  | .clu => 2
  | .fld => 3
  | .waf => 4
  | .sys => 5

def rmOf (x : BitVec 3) : Option Rm :=
  match x.toNat with
  | 0 => some .rne
  | 1 => some .rtz
  | 2 => some .rup
  | 3 => some .rdn
  | 4 => some .sr
  | 5 => some .dyn
  | _ => none

def rmBits : Rm → BitVec 3
  | .rne => 0
  | .rtz => 1
  | .rup => 2
  | .rdn => 3
  | .sr => 4
  | .dyn => 5

/-- The float format of WD and XM[3] (R283). -/
def ffmtOf (wd : BitVec 2) (bf : Bool) : Option FFmt :=
  match wd.toNat, bf with
  | 3, false => some .fp64
  | 2, false => some .fp32
  | 1, false => some .fp16
  | 1, true => some .bf16
  | _, _ => none

def ffmtWd : FFmt → BitVec 2
  | .fp64 => 3
  | .fp32 => 2
  | _ => 1

def ffmtBf : FFmt → Bool
  | .bf16 => true
  | _ => false

def sgnOf (x : BitVec 3) : Option Sgn :=
  match x.toNat with
  | 0 => some .j
  | 1 => some .jn
  | 2 => some .jx
  | _ => none

def sgnBits : Sgn → BitVec 3
  | .j => 0
  | .jn => 1
  | .jx => 2

def fcondOf (x : BitVec 3) : Option FCond :=
  match x.toNat with
  | 0 => some .eq
  | 1 => some .lt
  | 2 => some .le
  | 3 => some .un
  | 4 => some .ltq
  | 5 => some .leq
  | _ => none

def fcondBits : FCond → BitVec 3
  | .eq => 0
  | .lt => 1
  | .le => 2
  | .un => 3
  | .ltq => 4
  | .leq => 5

def combOf (x : BitVec 2) : Option Comb :=
  match x.toNat with
  | 0 => some .add
  | 1 => some .max
  | 2 => some .min
  | _ => none

def combBits : Comb → BitVec 2
  | .add => 0
  | .max => 1
  | .min => 2

def laneFmtOf (x : BitVec 2) : Option LaneFmt :=
  match x.toNat with
  | 0 => some .i40
  | 1 => some .a40
  | 2 => some .a80
  | _ => none

def laneFmtBits : LaneFmt → BitVec 2
  | .i40 => 0
  | .a40 => 1
  | .a80 => 2

/-! ### Layouts of bits [25:0] -/

/-- `x` when a reserved field is zero. -/
def whenZero {k : Nat} {α : Type} (x : BitVec k) (a : Option α) : Option α := if x == 0 then a else none

def seqOf (f : BitVec 26) : BitVec 5 := slice f 21 5

def layAOf (f : BitVec 26) : Option LayA :=
  whenZero (slice f 16 2) ((scopeOf (slice f 18 3)).map fun t => { seq := seqOf f, tsc := t, disp := slice f 0 16 })

def layABits (l : LayA) : BitVec 26 := (l.seq ++ scopeBits l.tsc ++ 0#2 ++ l.disp : BitVec 26)

/-- Layout Q; AMT counts when XM is 1 and must be zero when XM is 0. -/
def layQOf (xm : BitVec 4) (f : BitVec 26) : Option LayQ :=
  (scopeOf (slice f 18 3)).bind fun t =>
    match xm.toNat with
    | 0 => whenZero (slice f 0 12) (some { seq := seqOf f, tsc := t, q := slice f 12 6, amt := none })
    | 1 => some { seq := seqOf f, tsc := t, q := slice f 12 6, amt := some (slice f 0 12) }
    | _ => none

def layQXm (l : LayQ) : BitVec 4 := if l.amt.isSome then 1 else 0

def layQBits (l : LayQ) : BitVec 26 := (l.seq ++ scopeBits l.tsc ++ l.q ++ l.amt.getD 0 : BitVec 26)

def laySOf (f : BitVec 26) : Option LayS :=
  whenZero (slice f 0 13) ((scopeOf (slice f 18 3)).map fun t =>
    { seq := seqOf f, tsc := t, vc := slice f 15 3, wcnt := slice f 13 2 })

def laySBits (l : LayS) : BitVec 26 := (l.seq ++ scopeBits l.tsc ++ l.vc ++ l.wcnt ++ 0#13 : BitVec 26)

def layROf (f : BitVec 26) : LayR :=
  { seq := seqOf f, vd := slice f 16 5, va := slice f 11 5, vb := slice f 6 5, km := slice f 3 3,
    z := f.getLsbD 2, bf := f.getLsbD 1, ex := f.getLsbD 0 }

def layRBits (l : LayR) : BitVec 26 :=
  (l.seq ++ l.vd ++ l.va ++ l.vb ++ l.km ++ flag l.z ++ flag l.bf ++ flag l.ex : BitVec 26)

def layLOf (f : BitVec 26) : Option LayL :=
  (scopeOf (slice f 18 3)).map fun t =>
    { seq := seqOf f, tsc := t, vr := slice f 13 5, km := slice f 10 3, z := f.getLsbD 9, disp := slice f 0 9 }

def layLBits (l : LayL) : BitVec 26 :=
  (l.seq ++ scopeBits l.tsc ++ l.vr ++ l.km ++ flag l.z ++ l.disp : BitVec 26)

def layXOf (f : BitVec 26) : Option LayX :=
  whenZero (slice f 0 1) ((scopeOf (slice f 18 3)).map fun t =>
    { seq := seqOf f, tsc := t, vr := slice f 13 5, vi := slice f 8 5, km := slice f 5 3, z := f.getLsbD 4,
      sc := slice f 2 2, u := f.getLsbD 1 })

def layXBits (l : LayX) : BitVec 26 :=
  (l.seq ++ scopeBits l.tsc ++ l.vr ++ l.vi ++ l.km ++ flag l.z ++ l.sc ++ flag l.u ++ 0#1 : BitVec 26)

def layBOf (f : BitVec 26) : Option LayB :=
  whenZero (slice f 0 5) (some
    { seq := seqOf f, vd := slice f 16 5, vp := slice f 11 5, j := slice f 8 3, k := slice f 5 3 })

def layBBits (l : LayB) : BitVec 26 := (l.seq ++ l.vd ++ l.vp ++ l.j ++ l.k ++ 0#5 : BitVec 26)

/-- The MMA family without its last field. -/
def layMOf (f : BitVec 26) : LayM :=
  { seq := seqOf f, oa := slice f 16 5, ob := slice f 11 5, at_ := slice f 6 5, z := f.getLsbD 5 }

def layMBits (l : LayM) (last : BitVec 5) : BitVec 26 :=
  (l.seq ++ l.oa ++ l.ob ++ l.at_ ++ flag l.z ++ last : BitVec 26)

/-- MDRN and MDRNT: XM[0] is QE, and Q is zero without it. -/
def layDOf (xm : BitVec 4) (f : BitVec 26) : Option LayD :=
  match xm.toNat with
  | 0 => whenZero (slice f 0 6) (some
      { seq := seqOf f, at_ := slice f 16 5, fmt := slice f 10 6, mode := slice f 7 3, sat := f.getLsbD 6, q := none })
  | 1 => some
      { seq := seqOf f, at_ := slice f 16 5, fmt := slice f 10 6, mode := slice f 7 3, sat := f.getLsbD 6,
        q := some (slice f 0 6) }
  | _ => none

def layDXm (l : LayD) : BitVec 4 := if l.q.isSome then 1 else 0

def layDBits (l : LayD) : BitVec 26 :=
  (l.seq ++ l.at_ ++ l.fmt ++ l.mode ++ flag l.sat ++ l.q.getD 0 : BitVec 26)

/-- An immediate amount (R265): XM 1 takes IMM [5:0] and XM 0 takes port b. -/
def amtOf (xm : BitVec 4) (f : BitVec 26) : Option (Option (BitVec 6)) :=
  match xm.toNat with
  | 0 => whenZero f (some none)
  | 1 => whenZero (slice f 6 20) (some (some (slice f 0 6)))
  | _ => none

def amtXm : Option (BitVec 6) → BitVec 4
  | none => 0
  | some _ => 1

def amtBits : Option (BitVec 6) → BitVec 26
  | none => 0
  | some n => (0#20 ++ n : BitVec 26)

/-- A Boolean XM: 0 or 1. -/
def xmBool (xm : BitVec 4) : Option Bool :=
  match xm.toNat with
  | 0 => some false
  | 1 => some true
  | _ => none

def boolXm (b : Bool) : BitVec 4 := if b then 1 else 0

/-- Lane types from WD and XM (Table 14-3). -/
def vopOf (x : Fields) : VOp := { w := widthOf x.wd, flt := x.xm.getLsbD 3, m := slice x.xm 0 3 }

def vopXm (o : VOp) : BitVec 4 := (flag o.flt ++ o.m : BitVec 4)

/-! ### Decoding one word -/

/-- Why a word is no instruction (Table 10-8). -/
inductive DecodeError
  | reservedOpcode
  | illegalInstruction
  | blockFormat
  deriving DecidableEq, Repr, Inhabited

def hdrOf (x : Fields) : Hdr := { pr := prOf x.pr, ta := targetOf x.ta, tb := targetOf x.tb }

/-- An exit-class instruction that delivers no result: both targets of kind 00, all zero (R247). -/
def bareOf (x : Fields) (g : Pr → Instr) : Option Instr :=
  whenZero x.ta (whenZero x.tb (whenZero x.wd (whenZero x.xm (some (g (prOf x.pr))))))

/-- Format N without a width. -/
def fmtN0 (x : Fields) (g : Hdr → Instr) : Option Instr :=
  whenZero x.wd (whenZero x.xm (whenZero x.f (some (g (hdrOf x)))))

/-- Format N with any width. -/
def fmtNW (x : Fields) (g : Hdr → Width → Instr) : Option Instr :=
  whenZero x.xm (whenZero x.f (some (g (hdrOf x) (widthOf x.wd))))

/-- Format I with any width and XM 0. -/
def fmtIW (x : Fields) (g : Hdr → Width → BitVec 26 → Instr) : Option Instr :=
  whenZero x.xm (some (g (hdrOf x) (widthOf x.wd) x.f))

/-- Format I with any width where XM chooses sign or zero extension. -/
def fmtIZ (x : Fields) (g : Hdr → Width → Bool → BitVec 26 → Instr) : Option Instr :=
  (xmBool x.xm).map fun z => g (hdrOf x) (widthOf x.wd) z x.f

/-- Format N with any width and a Boolean XM. -/
def fmtNB (x : Fields) (g : Hdr → Width → Bool → Instr) : Option Instr :=
  whenZero x.f ((xmBool x.xm).map fun z => g (hdrOf x) (widthOf x.wd) z)

/-- A shift or rotate. -/
def fmtSh (x : Fields) (g : Hdr → Width → Option (BitVec 6) → Instr) : Option Instr :=
  (amtOf x.xm x.f).map fun n => g (hdrOf x) (widthOf x.wd) n

/-- A bit-field instruction. -/
def fmtBf (x : Fields) (g : Hdr → Width → BitVec 6 → BitVec 6 → Instr) : Option Instr :=
  whenZero x.xm (whenZero (slice x.f 12 14) (some (g (hdrOf x) (widthOf x.wd) (slice x.f 0 6) (slice x.f 6 6))))

/-- A scalar float instruction with a rounding field. -/
def fmtFR (x : Fields) (g : Hdr → FFmt → Rm → Instr) : Option Instr :=
  whenZero x.f ((ffmtOf x.wd (x.xm.getLsbD 3)).bind fun f => (rmOf (slice x.xm 0 3)).map fun m => g (hdrOf x) f m)

/-- A scalar float instruction with a Boolean XM[2:0]. -/
def fmtFB (x : Fields) (g : Hdr → FFmt → Bool → Instr) : Option Instr :=
  whenZero x.f ((ffmtOf x.wd (x.xm.getLsbD 3)).bind fun f =>
    whenZero (slice x.xm 1 2) (some (g (hdrOf x) f (x.xm.getLsbD 0))))

/-- An atomic or full/empty store of layout A with any width and XM 0. -/
def fmtA (x : Fields) (g : Hdr → Width → LayA → Instr) : Option Instr :=
  whenZero x.xm ((layAOf x.f).map fun l => g (hdrOf x) (widthOf x.wd) l)

/-- A register-layout vector instruction with any width and XM 0. -/
def fmtRW (x : Fields) (g : Hdr → Width → LayR → Instr) : Option Instr :=
  whenZero x.xm (some (g (hdrOf x) (widthOf x.wd) (layROf x.f)))

/-- A register-layout vector instruction with any width and a Boolean XM. -/
def fmtRB (x : Fields) (g : Hdr → Width → Bool → LayR → Instr) : Option Instr :=
  (xmBool x.xm).map fun b => g (hdrOf x) (widthOf x.wd) b (layROf x.f)

/-- A lane-typed vector instruction. -/
def fmtRO (x : Fields) (g : Hdr → VOp → LayR → Instr) : Option Instr := some (g (hdrOf x) (vopOf x) (layROf x.f))

/-- A linear vector memory instruction. -/
def fmtL (x : Fields) (g : Hdr → Width → LayL → Instr) : Option Instr :=
  whenZero x.xm ((layLOf x.f).map fun l => g (hdrOf x) (widthOf x.wd) l)

/-- An indexed vector memory instruction. -/
def fmtX (x : Fields) (g : Hdr → Width → LayX → Instr) : Option Instr :=
  whenZero x.xm ((layXOf x.f).map fun l => g (hdrOf x) (widthOf x.wd) l)

/-- A sequenced instruction whose bits [20:lo] are zero, with WD 0 and XM 0. -/
def fmtSeq (x : Fields) (g : Hdr → BitVec 5 → Instr) : Option Instr :=
  whenZero x.wd (whenZero x.xm (whenZero (slice x.f 0 21) (some (g (hdrOf x) (seqOf x.f)))))

/-- A system instruction whose format bits are zero, with WD 0 and a given XM. -/
def fmtSys (x : Fields) (g : BitVec 4 → Option (Hdr → Instr)) : Option Instr :=
  whenZero x.wd (whenZero x.f ((g x.xm).map fun k => k (hdrOf x)))

/-- A CSR instruction. -/
def fmtCsr (x : Fields) (g : Hdr → BitVec 12 → Instr) : Option Instr :=
  whenZero x.wd (whenZero x.xm (whenZero (slice x.f 12 14) (some (g (hdrOf x) (slice x.f 0 12)))))

/-- Opcodes 0x00 to 0x0F. -/
def parse0 (lo : Nat) (x : Fields) : Option Instr :=
  match lo with
  | 0x0 => bareOf x fun p => .br p x.f
  | 0x1 => whenZero x.f (bareOf x .jmp)
  | 0x2 => whenZero x.wd (whenZero x.xm (some (.call (hdrOf x) x.f)))
  | 0x3 => fmtN0 x .callr
  | 0x4 => whenZero x.f (bareOf x .ret)
  | 0x5 => whenZero x.f (bareOf x .done)
  | 0x6 => whenZero x.f (bareOf x .yield)
  | 0x7 => whenZero x.f (bareOf x .trap)
  | 0x8 => fmtN0 x .null
  | 0x9 => fmtNW x .mov
  | 0xA => fmtIZ x .movi
  | 0xB => whenZero x.wd
      (match x.xm.toNat with
       | 0 => some (.movhi (hdrOf x) (.mid x.f))
       | 1 => whenZero (slice x.f 12 14) (some (.movhi (hdrOf x) (.top (slice x.f 0 12))))
       | _ => none)
  | 0xC => fmtNW x .sel
  | 0xD => fmtN0 x .baddr
  | _ => none

/-- Opcodes 0x10 to 0x1F. -/
def parse1 (lo : Nat) (x : Fields) : Option Instr :=
  match lo with
  | 0x0 => fmtNW x .teq
  | 0x1 => fmtNW x .tne
  | 0x2 => fmtNW x .tlt
  | 0x3 => fmtNW x .tle
  | 0x4 => fmtNW x .tltu
  | 0x5 => fmtNW x .tleu
  | 0x6 => fmtIW x .teqi
  | 0x7 => fmtIW x .tnei
  | 0x8 => fmtIW x .tlti
  | 0x9 => fmtIW x .tlei
  | 0xA => fmtIW x .tltui
  | 0xB => fmtIW x .tleui
  | 0xC => whenZero x.xm (whenZero (slice x.f 6 20) (some (.tbit (hdrOf x) (widthOf x.wd) (slice x.f 0 6))))
  | 0xD =>
      (match x.xm.toNat with
       | 0 => whenZero x.f (some (.tnz (hdrOf x) (widthOf x.wd) none))
       | 1 => some (.tnz (hdrOf x) (widthOf x.wd) (some x.f))
       | _ => none)
  | _ => none

/-- Opcodes 0x20 to 0x2F. -/
def parse2 (lo : Nat) (x : Fields) : Option Instr :=
  match lo with
  | 0x0 => fmtNW x .add
  | 0x1 => fmtNW x .sub
  | 0x2 => fmtIW x .addi
  | 0x3 => fmtNW x .adds
  | 0x4 => fmtNW x .addsu
  | 0x5 => fmtNW x .subs
  | 0x6 => fmtNW x .subsu
  | 0x7 => fmtNB x .neg
  | 0x8 => fmtNB x .abs
  | 0x9 => fmtNW x .min
  | 0xA => fmtNW x .max
  | 0xB => fmtNW x .minu
  | 0xC => fmtNW x .maxu
  | 0xD => fmtNW x .mul
  | 0xE => fmtNW x .mulh
  | 0xF => fmtNW x .mulhu
  | _ => none

/-- Opcodes 0x30 to 0x3F. -/
def parse3 (lo : Nat) (x : Fields) : Option Instr :=
  match lo with
  | 0x0 => fmtNW x .mulhsu
  | 0x1 => fmtNW x .madd
  | 0x2 => fmtNW x .div
  | 0x3 => fmtNW x .divu
  | 0x4 => fmtNW x .rem
  | 0x5 => fmtNW x .remu
  | 0x6 => fmtNW x .and
  | 0x7 => fmtNW x .or
  | 0x8 => fmtNW x .xor
  | 0x9 => fmtNW x .andn
  | 0xA => fmtIZ x .andi
  | 0xB => fmtIZ x .ori
  | 0xC => fmtIZ x .xori
  | 0xD => fmtSh x .shl
  | 0xE => fmtSh x .shr
  | 0xF => fmtSh x .sar
  | _ => none

/-- Opcodes 0x40 to 0x4F. -/
def parse4 (lo : Nat) (x : Fields) : Option Instr :=
  match lo with
  | 0x0 => fmtSh x .rol
  | 0x1 => fmtSh x .ror
  | 0x2 => fmtNW x .clz
  | 0x3 => fmtNW x .ctz
  | 0x4 => fmtNW x .popc
  | 0x5 => fmtBf x .bfx
  | 0x6 => fmtBf x .bfxu
  | 0x7 => fmtBf x .bfi
  | _ => none

/-- Opcodes 0x50 to 0x5F. -/
def parse5 (lo : Nat) (x : Fields) : Option Instr :=
  match lo with
  | 0x0 => fmtFR x .fadd
  | 0x1 => fmtFR x .fsub
  | 0x2 => fmtFR x .fmul
  | 0x3 => fmtFR x .fdiv
  | 0x4 => fmtFR x .fsqrt
  | 0x5 => fmtFR x .fma
  | 0x6 => fmtFB x .fmin
  | 0x7 => fmtFB x .fmax
  | 0x8 => whenZero x.f ((ffmtOf x.wd (x.xm.getLsbD 3)).bind fun f =>
      (sgnOf (slice x.xm 0 3)).map fun k => .fsgn (hdrOf x) f k)
  | 0x9 => whenZero x.f ((ffmtOf x.wd (x.xm.getLsbD 3)).bind fun f =>
      (fcondOf (slice x.xm 0 3)).map fun k => .fcmp (hdrOf x) f k)
  | 0xA => whenZero x.f ((ffmtOf x.wd (x.xm.getLsbD 3)).bind fun f =>
      whenZero (slice x.xm 0 3) (some (.fclass (hdrOf x) f)))
  | 0xB => fmtN0 x .fcvt
  | 0xC => fmtN0 x .ftoi
  | 0xD => fmtN0 x .itof
  | _ => none

/-- Opcodes 0x60 to 0x6F. -/
def parse6 (lo : Nat) (x : Fields) : Option Instr :=
  match lo with
  | 0x0 => whenZero (slice x.xm 3 1) ((layAOf x.f).map fun l =>
      .ld (hdrOf x) (widthOf x.wd) (x.xm.getLsbD 2) (x.xm.getLsbD 1) (x.xm.getLsbD 0) l)
  | 0x1 => whenZero (slice x.xm 2 2) ((layAOf x.f).map fun l =>
      .st (hdrOf x) (widthOf x.wd) (x.xm.getLsbD 1) (x.xm.getLsbD 0) l)
  | 0x2 => whenZero (slice x.xm 3 1) (whenZero (slice x.xm 0 2) ((layAOf x.f).map fun l =>
      .ldf (hdrOf x) (widthOf x.wd) (x.xm.getLsbD 2) l))
  | 0x3 => whenZero (slice x.xm 3 1) (whenZero (slice x.xm 0 2) ((layAOf x.f).map fun l =>
      .ldfe (hdrOf x) (widthOf x.wd) (x.xm.getLsbD 2) l))
  | 0x4 => fmtA x .stf
  | 0x5 => fmtA x .aadd
  | 0x6 => fmtA x .aand
  | 0x7 => fmtA x .aor
  | 0x8 => fmtA x .axor
  | 0x9 => fmtA x .amin
  | 0xA => fmtA x .amax
  | 0xB => fmtA x .aminu
  | 0xC => fmtA x .amaxu
  | 0xD => fmtA x .aswap
  | 0xE => fmtA x .acas
  | 0xF => (xmBool x.xm).bind fun u => (layAOf x.f).map fun l => .aadds (hdrOf x) (widthOf x.wd) u l
  | _ => none

/-- Opcodes 0x70 to 0x7F. -/
def parse7 (lo : Nat) (x : Fields) : Option Instr :=
  match lo with
  | 0x0 => (ffmtOf x.wd (x.xm.getLsbD 3)).bind fun f => (rmOf (slice x.xm 0 3)).bind fun m =>
      (layAOf x.f).map fun l => .afadd (hdrOf x) f m l
  | 0x1 => (ffmtOf x.wd (x.xm.getLsbD 3)).bind fun f => whenZero (slice x.xm 1 2)
      ((layAOf x.f).map fun l => .afmin (hdrOf x) f (x.xm.getLsbD 0) l)
  | 0x2 => (ffmtOf x.wd (x.xm.getLsbD 3)).bind fun f => whenZero (slice x.xm 1 2)
      ((layAOf x.f).map fun l => .afmax (hdrOf x) f (x.xm.getLsbD 0) l)
  | 0x3 => whenZero x.wd (whenZero (slice x.xm 3 1) (whenZero (slice x.f 0 21)
      ((scopeOf (slice x.xm 0 3)).map fun s => .fence (hdrOf x) (seqOf x.f) s)))
  | 0x4 => fmtSeq x .cfence
  | 0x5 => whenZero x.wd ((layQOf x.xm x.f).map fun l => .sacq (hdrOf x) l)
  | 0x6 => whenZero x.wd ((layQOf x.xm x.f).map fun l => .sacqt (hdrOf x) l)
  | 0x7 => whenZero x.wd ((layQOf x.xm x.f).map fun l => .srel (hdrOf x) l)
  | 0x8 => whenZero x.wd (whenZero x.xm ((layAOf x.f).map fun l => .syncw (hdrOf x) l))
  | 0x9 => whenZero x.wd (whenZero x.xm (whenZero (slice x.f 5 13)
      ((scopeOf (slice x.f 18 3)).map fun t => .sbar (hdrOf x) (seqOf x.f) t (slice x.f 0 5))))
  | 0xA => whenZero x.wd (whenZero x.xm (whenZero (slice x.f 3 18)
      (some (.cbar (hdrOf x) (seqOf x.f) (slice x.f 0 3)))))
  | 0xB => whenZero x.wd (whenZero x.xm ((laySOf x.f).map fun l => .send (hdrOf x) l))
  | 0xC => whenZero x.wd (whenZero x.xm ((laySOf x.f).map fun l => .wake (hdrOf x) l))
  | 0xD => fmtA x .aaddb
  | _ => none

/-- Opcodes 0x80 to 0x8F. -/
def parse8 (lo : Nat) (x : Fields) : Option Instr :=
  match lo with
  | 0x0 => fmtL x .vld
  | 0x1 => fmtL x .vst
  | 0x2 => fmtL x .vlds
  | 0x3 => fmtL x .vsts
  | 0x4 => fmtX x .vgath
  | 0x5 => fmtX x .vscat
  | 0x6 => fmtL x .vcst
  | 0x7 => fmtRW x .vmov
  | 0x8 => fmtRO x .vadd
  | 0x9 => fmtRO x .vsub
  | 0xA => fmtRO x .vmul
  | 0xB => fmtRO x .vfma
  | 0xC => fmtRO x .vdiv
  | 0xD => fmtRO x .vsqrt
  | 0xE => fmtRO x .vmin
  | 0xF => fmtRO x .vmax
  | _ => none

/-- Opcodes 0x90 to 0x9F. -/
def parse9 (lo : Nat) (x : Fields) : Option Instr :=
  match lo with
  | 0x0 => fmtRO x .vabs
  | 0x1 => fmtRO x .vneg
  | 0x2 => fmtRW x .vand
  | 0x3 => fmtRW x .vor
  | 0x4 => fmtRW x .vxor
  | 0x5 => fmtRB x .vshl
  | 0x6 => fmtRB x .vshr
  | 0x7 => fmtRB x .vsar
  | 0x8 => whenZero x.wd (whenZero x.xm (some (.vcvt (hdrOf x) (layROf x.f))))
  | 0x9 => fmtRO x .vcmp
  | 0xA => whenZero (slice x.xm 3 1) (some (.vmask (hdrOf x) (widthOf x.wd) (slice x.xm 0 3) (layROf x.f)))
  | 0xB => fmtRW x .vsel
  | 0xC => fmtRO x .vred
  | 0xD => fmtRO x .vscan
  | 0xE => fmtRB x .vperm
  | 0xF => fmtRB x .vbcast
  | _ => none

/-- Opcodes 0xA0 to 0xAF. -/
def parseA (lo : Nat) (x : Fields) : Option Instr :=
  match lo with
  | 0x0 => fmtRW x .vext
  | 0x1 => fmtRW x .vins
  | 0x2 => fmtRO x .vexp
  | 0x3 => fmtRO x .vlog
  | 0x4 => fmtRO x .vrsq
  | 0x5 => fmtRO x .vtanh
  | 0x6 => (layBOf x.f).map fun l => .vbms (hdrOf x) (vopOf x) l
  | 0x7 => fmtRO x .vsrch
  | _ => none

/-- Opcodes 0xB0 to 0xBF. -/
def parseB (lo : Nat) (x : Fields) : Option Instr :=
  whenZero x.wd
  (match lo with
  | 0x0 => whenZero x.xm (whenZero (slice x.f 0 9)
      (some (.mclaim (hdrOf x) (seqOf x.f) (slice x.f 16 5) (slice x.f 9 7))))
  | 0x1 => whenZero x.xm (whenZero (slice x.f 0 16) (some (.mrel (hdrOf x) (seqOf x.f) (slice x.f 16 5))))
  | 0x2 => whenZero x.xm (whenZero (slice x.f 0 14) ((laneFmtOf (slice x.f 14 2)).map fun k =>
      .mclr (hdrOf x) (seqOf x.f) (slice x.f 16 5) k))
  | 0x3 => whenZero x.xm (whenZero (slice x.f 0 5) (some (.mma (hdrOf x) (layMOf x.f))))
  | 0x4 => whenZero x.xm (some (.mmasp (hdrOf x) (layMOf x.f) (slice x.f 0 5)))
  | 0x5 => whenZero x.xm (some (.mmsc (hdrOf x) (layMOf x.f) (slice x.f 0 5)))
  | 0x6 => whenZero (slice x.f 0 11)
      (match x.xm.toNat with
       | 0 => whenZero (slice x.f 11 5) (some (.mscl (hdrOf x) (seqOf x.f) (slice x.f 16 5) .scalar))
       | 1 => some (.mscl (hdrOf x) (seqOf x.f) (slice x.f 16 5) (.row (slice x.f 11 5)))
       | 2 => some (.mscl (hdrOf x) (seqOf x.f) (slice x.f 16 5) (.col (slice x.f 11 5)))
       | _ => none)
  | 0x7 => whenZero x.xm (whenZero (slice x.f 0 9) ((combOf (slice x.f 9 2)).map fun k =>
      .mcomb (hdrOf x) (seqOf x.f) (slice x.f 16 5) (slice x.f 11 5) k))
  | 0x8 => (layDOf x.xm x.f).map fun l => .mdrn (hdrOf x) l
  | 0x9 => (layDOf x.xm x.f).map fun l => .mdrnt (hdrOf x) l
  | 0xA => whenZero x.xm (whenZero (slice x.f 0 16) (some (.mtrn (hdrOf x) (seqOf x.f) (slice x.f 16 5))))
  | 0xB => whenZero x.xm (whenZero (slice x.f 0 11) (whenZero (slice x.f 15 1)
      ((rmOf (slice x.f 11 3)).map fun m => .mcvt (hdrOf x) (seqOf x.f) (slice x.f 16 5) (x.f.getLsbD 14) m)))
  | 0xC => whenZero x.xm (whenZero (slice x.f 0 6)
      (some (.macc (hdrOf x) (seqOf x.f) (slice x.f 16 5) (slice x.f 11 5) (slice x.f 6 5))))
  | 0xD => fmtSeq x .mstat
  | _ => none)

/-- Opcodes 0xC0 to 0xCF. -/
def parseC (lo : Nat) (x : Fields) : Option Instr :=
  match lo with
  | 0x0 => fmtSeq x .xcpy
  | 0x1 => whenZero x.wd (whenZero x.xm (whenZero (slice x.f 0 1)
      (some (.xc2d (hdrOf x) (seqOf x.f) (slice x.f 11 10) (slice x.f 1 10)))))
  | 0x2 => whenZero x.wd (whenZero x.xm (whenZero (slice x.f 0 5)
      (some (.xgath (hdrOf x) (seqOf x.f) (slice x.f 5 16)))))
  | 0x3 => whenZero x.wd (whenZero x.xm (whenZero (slice x.f 0 5)
      (some (.xscat (hdrOf x) (seqOf x.f) (slice x.f 5 16)))))
  | 0x4 => fmtSeq x .xfill
  | 0x5 => whenZero x.wd (whenZero x.xm (whenZero (slice x.f 5 16)
      (some (.xarr (hdrOf x) (seqOf x.f) (slice x.f 0 5)))))
  | 0x6 => fmtSeq x .xqry
  | 0x7 => whenZero x.wd (whenZero x.xm (whenZero (slice x.f 3 15) ((scopeOf (slice x.f 18 3)).map fun t =>
      .cpost (hdrOf x) (seqOf x.f) t (slice x.f 0 3))))
  | 0x8 => whenZero x.wd (whenZero (slice x.f 3 18) ((xmBool x.xm).map fun k =>
      if k then .cwaitChk (hdrOf x) (seqOf x.f) (slice x.f 0 3) else .cwait (hdrOf x) (seqOf x.f) (slice x.f 0 3)))
  | 0x9 => whenZero x.wd (whenZero x.xm (whenZero (slice x.f 3 18)
      (some (.cpoll (hdrOf x) (seqOf x.f) (slice x.f 0 3)))))
  | 0xA => whenZero x.wd (whenZero x.xm (whenZero (slice x.f 3 15) ((scopeOf (slice x.f 18 3)).map fun t =>
      .cabrt (hdrOf x) (seqOf x.f) t (slice x.f 0 3))))
  | 0xB => fmtSys x fun m =>
      (match m.toNat with
       | 0 => some .drun
       | 1 => some .drunRel
       | 2 => some .drunRes
       | 3 => some .drunResp
       | _ => none)
  | 0xC => fmtSys x fun m =>
      (match m.toNat with
       | 0 => some .dstop
       | 1 => some .dstopEnd
       | _ => none)
  | 0xD => fmtSys x fun m =>
      (match m.toNat with
       | 0 => some .dpos
       | 1 => some .dposElap
       | 2 => some .dposT0
       | _ => none)
  | _ => none

/-- Opcodes 0xD0 to 0xDF. -/
def parseD (lo : Nat) (x : Fields) : Option Instr :=
  match lo with
  | 0x0 => fmtCsr x .csrr
  | 0x1 => fmtCsr x .csrw
  | 0x2 => fmtCsr x .csrs
  | 0x3 => fmtCsr x .csrc
  | 0x4 => fmtCsr x .csrx
  | 0x5 => whenZero x.wd (whenZero x.xm (whenZero (slice x.f 8 18) (some (.scall (hdrOf x) (slice x.f 0 8)))))
  | 0x6 => fmtSys x fun m => if m == 0 then some .sret else none
  | 0x7 => whenZero x.wd (whenZero x.xm (whenZero (slice x.f 16 10) (some (.brk (hdrOf x) (slice x.f 0 16)))))
  | 0x8 => fmtSys x fun m => if m == 0 then some .xtrig else none
  | 0x9 => fmtSys x fun m =>
      (match m.toNat with
       | 0 => some .tbind
       | 1 => some .tbindGen
       | _ => none)
  | 0xA => fmtSys x fun m =>
      (match m.toNat with
       | 0 => some .bcinv
       | 1 => some .bcinvLine
       | _ => none)
  | 0xB => fmtSys x fun m => if m == 0 then some .wfm else none
  | _ => none

/-- The instruction that some fields name, before its word-level rules are checked (R229). -/
def parse (x : Fields) : Option Instr :=
  let lo := x.op.toNat % 16
  match x.op.toNat / 16 with
  | 0x0 => parse0 lo x
  | 0x1 => parse1 lo x
  | 0x2 => parse2 lo x
  | 0x3 => parse3 lo x
  | 0x4 => parse4 lo x
  | 0x5 => parse5 lo x
  | 0x6 => parse6 lo x
  | 0x7 => parse7 lo x
  | 0x8 => parse8 lo x
  | 0x9 => parse9 lo x
  | 0xA => parseA lo x
  | 0xB => parseB lo x
  | 0xC => parseC lo x
  | 0xD => parseD lo x
  | _ => none

/-- How many opcodes of each row of Table 10-7 are assigned. -/
def assignedIn (hi : Nat) : Nat :=
  match hi with
  | 0x0 => 14
  | 0x1 => 14
  | 0x2 => 16
  | 0x3 => 16
  | 0x4 => 8
  | 0x5 => 14
  | 0x6 => 16
  | 0x7 => 14
  | 0x8 => 16
  | 0x9 => 16
  | 0xA => 8
  | 0xB => 14
  | 0xC => 14
  | 0xD => 12
  | _ => 0

/-- An assigned opcode of Table 10-7. -/
def opAssigned (op : BitVec 8) : Bool := op.toNat % 16 < assignedIn (op.toNat / 16)

/-- The word-level row of Table 10-8: the instruction of a word whose OP, WD, XM and format bits are defined.  Its
targets may still be malformed or badly placed: predecode tests those after the rows on SEQ and privilege (R231). -/
def decodeRaw (w : Word) : Except DecodeError Instr :=
  let x := fieldsOf w
  if opAssigned x.op then
    match parse x with
    | some i => if i.legal then .ok i else .error .illegalInstruction
    | none => .error .illegalInstruction
  else .error .reservedOpcode

/-- A block instruction word: total, refusing by name. -/
def decode (w : Word) : Except DecodeError Instr :=
  match decodeRaw w with
  | .ok i => if i.targetsOk then .ok i else .error .blockFormat
  | .error e => .error e

/-! ### Vault entries -/

/-- Why an entry is refused at fetch: the DETAIL code of Table 6-7. -/
abbrev VDetail := Nat

/-- The target of a DRD or DWR (Table 6-4), from SPACE and the TGT bits. -/
def vtgtOf (space : BitVec 3) (t : BitVec 19) : Except VDetail VTgt :=
  match space.toNat with
  | 1 => if slice t 11 8 == 0 then .ok (.loc (slice t 0 11)) else .error 2
  | 2 => if slice t 14 5 == 0 then .ok (.csp (slice t 0 14)) else .error 2
  | 3 => .ok (.rng (slice t 14 5) (slice t 10 4) (t.getLsbD 9) (slice t 0 9))
  | 5 => if slice t 11 8 == 0 then .ok (.opm (slice t 6 5) (slice t 0 6)) else .error 2
  | _ => .error 4

def vtgtSpace : VTgt → BitVec 3
  | .loc _ => 1
  | .csp _ => 2
  | .rng _ _ _ _ => 3
  | .opm _ _ => 5

def vtgtBits : VTgt → BitVec 19
  | .loc o => (0#8 ++ o : BitVec 19)
  | .csp o => (0#5 ++ o : BitVec 19)
  | .rng r k c o => (r ++ k ++ flag c ++ o : BitVec 19)
  | .opm t o => (0#8 ++ t ++ o : BitVec 19)

/-- The threshold of a conditional refresh: C and TH. -/
def thOf (c : Bool) (th : BitVec 4) : Except VDetail (Option (BitVec 4)) :=
  if c then .ok (some th) else if th == 0 then .ok none else .error 2

/-- The entry when a reserved field is zero (DETAIL 2). -/
def vZero {k : Nat} (x : BitVec k) (a : Except VDetail Instr) : Except VDetail Instr :=
  if x == 0 then a else .error 2

/-- A vault entry from its word (R110, R112): DETAIL 1 reserved CMD, 2 reserved field, 3 operand limit, 4 space.  DESIGN CHOICE (log 79):
Table 6-7 does not order the DETAILs of a word with several errors, nor name that of a reserved KIND: the reserved fields of a word come
first, then its space, then its limits, and a reserved KIND of DCHK or DSIG counts as a limit. -/
def parseVault (w : Word) : Except VDetail Instr :=
  let d : BitVec 12 := slice w 48 12
  match (slice w 60 4).toNat with
  | 0x0 => vZero (slice w 0 24) (.ok (.dact d (slice w 45 3) (slice w 32 13) (slice w 24 8)))
  | 0x1 => vZero (slice w 0 4) ((vtgtOf (slice w 38 3) (slice w 19 19)).map fun t =>
      .drd d (slice w 45 3) (slice w 41 4) t (slice w 8 11) (slice w 4 4))
  | 0x2 => vZero (slice w 0 4) ((vtgtOf (slice w 38 3) (slice w 19 19)).map fun t =>
      .dwr d (slice w 45 3) (slice w 41 4) t (slice w 8 11) (slice w 4 4))
  | 0x3 => vZero (slice w 0 45) (.ok (.dpre d (slice w 45 3)))
  | 0x4 => vZero (slice w 0 48) (.ok (.dprea d))
  | 0x5 => vZero (slice w 45 3) (vZero (slice w 0 40)
      ((thOf (w.getLsbD 44) (slice w 40 4)).map fun t => .drefa d t))
  | 0x6 => vZero (slice w 0 40) ((thOf (w.getLsbD 44) (slice w 40 4)).map fun t => .drefb d (slice w 45 3) t)
  | 0x7 => vZero (slice w 32 16) (.ok (.dwait d (slice w 0 32)))
  | 0x8 =>
      (match (slice w 46 2).toNat with
       | 0 => .ok (.dchk d .sem (slice w 40 6) (slice w 32 8) (slice w 0 32))
       | 1 => .ok (.dchk d .ring (slice w 40 6) (slice w 32 8) (slice w 0 32))
       | 2 => .ok (.dchk d .sync (slice w 40 6) (slice w 32 8) (slice w 0 32))
       | _ => .error 3)
  | 0x9 => vZero (slice w 32 8)
      (match (slice w 46 2).toNat with
       | 0 => vZero (slice w 0 32) (.ok (.dsig d false (slice w 40 6) (slice w 0 32)))
       | 1 => .ok (.dsig d true (slice w 40 6) (slice w 0 32))
       | _ => .error 3)
  | 0xA => vZero (slice w 32 4) (.ok (.drpt d (slice w 36 12) (slice w 0 32)))
  | 0xB => vZero (slice w 0 48) (.ok (.dend d))
  | _ => .error 1

/-- A vault entry whose static limits hold (DETAIL 3 otherwise). -/
def decodeVault (w : Word) : Except VDetail Instr :=
  match parseVault w with
  | .ok i => if i.legal then .ok i else .error 3
  | .error e => .error e

/-! ### Encoding -/

/-- The fields of a header and the rest of a word. -/
def mkF (op : BitVec 8) (h : Hdr) (wd : BitVec 2) (xm : BitVec 4) (f : BitVec 26) : Fields :=
  { op := op, pr := prBits h.pr, wd := wd, xm := xm, ta := targetBits h.ta, tb := targetBits h.tb, f := f }

/-- The fields of an exit without targets. -/
def mkBare (op : BitVec 8) (p : Pr) (f : BitVec 26) : Fields :=
  { op := op, pr := prBits p, wd := 0, xm := 0, ta := 0, tb := 0, f := f }

/-- XM of a float instruction: XM[3] is BF. -/
def fxm (f : FFmt) (m : BitVec 3) : BitVec 4 := (flag (ffmtBf f) ++ m : BitVec 4)

/-- A sequence number with zero below it. -/
def seqBits (s : BitVec 5) (rest : BitVec 21) : BitVec 26 := (s ++ rest : BitVec 26)

/-- The fields of a block instruction; none for vault entries and events. -/
def encodeFields : Instr → Option Fields
  | .br p off => some (mkBare 0x00 p off)
  | .jmp p => some (mkBare 0x01 p 0)
  | .call h off => some (mkF 0x02 h 0 0 off)
  | .callr h => some (mkF 0x03 h 0 0 0)
  | .ret p => some (mkBare 0x04 p 0)
  | .done p => some (mkBare 0x05 p 0)
  | .yield p => some (mkBare 0x06 p 0)
  | .trap p => some (mkBare 0x07 p 0)
  | .null h => some (mkF 0x08 h 0 0 0)
  | .mov h w => some (mkF 0x09 h (widthBits w) 0 0)
  | .movi h w z v => some (mkF 0x0A h (widthBits w) (boolXm z) v)
  | .movhi h (.mid v) => some (mkF 0x0B h 0 0 v)
  | .movhi h (.top v) => some (mkF 0x0B h 0 1 (0#14 ++ v : BitVec 26))
  | .sel h w => some (mkF 0x0C h (widthBits w) 0 0)
  | .baddr h => some (mkF 0x0D h 0 0 0)
  | .teq h w => some (mkF 0x10 h (widthBits w) 0 0)
  | .tne h w => some (mkF 0x11 h (widthBits w) 0 0)
  | .tlt h w => some (mkF 0x12 h (widthBits w) 0 0)
  | .tle h w => some (mkF 0x13 h (widthBits w) 0 0)
  | .tltu h w => some (mkF 0x14 h (widthBits w) 0 0)
  | .tleu h w => some (mkF 0x15 h (widthBits w) 0 0)
  | .teqi h w v => some (mkF 0x16 h (widthBits w) 0 v)
  | .tnei h w v => some (mkF 0x17 h (widthBits w) 0 v)
  | .tlti h w v => some (mkF 0x18 h (widthBits w) 0 v)
  | .tlei h w v => some (mkF 0x19 h (widthBits w) 0 v)
  | .tltui h w v => some (mkF 0x1A h (widthBits w) 0 v)
  | .tleui h w v => some (mkF 0x1B h (widthBits w) 0 v)
  | .tbit h w n => some (mkF 0x1C h (widthBits w) 0 (0#20 ++ n : BitVec 26))
  | .tnz h w none => some (mkF 0x1D h (widthBits w) 0 0)
  | .tnz h w (some v) => some (mkF 0x1D h (widthBits w) 1 v)
  | .add h w => some (mkF 0x20 h (widthBits w) 0 0)
  | .sub h w => some (mkF 0x21 h (widthBits w) 0 0)
  | .addi h w v => some (mkF 0x22 h (widthBits w) 0 v)
  | .adds h w => some (mkF 0x23 h (widthBits w) 0 0)
  | .addsu h w => some (mkF 0x24 h (widthBits w) 0 0)
  | .subs h w => some (mkF 0x25 h (widthBits w) 0 0)
  | .subsu h w => some (mkF 0x26 h (widthBits w) 0 0)
  | .neg h w s => some (mkF 0x27 h (widthBits w) (boolXm s) 0)
  | .abs h w s => some (mkF 0x28 h (widthBits w) (boolXm s) 0)
  | .min h w => some (mkF 0x29 h (widthBits w) 0 0)
  | .max h w => some (mkF 0x2A h (widthBits w) 0 0)
  | .minu h w => some (mkF 0x2B h (widthBits w) 0 0)
  | .maxu h w => some (mkF 0x2C h (widthBits w) 0 0)
  | .mul h w => some (mkF 0x2D h (widthBits w) 0 0)
  | .mulh h w => some (mkF 0x2E h (widthBits w) 0 0)
  | .mulhu h w => some (mkF 0x2F h (widthBits w) 0 0)
  | .mulhsu h w => some (mkF 0x30 h (widthBits w) 0 0)
  | .madd h w => some (mkF 0x31 h (widthBits w) 0 0)
  | .div h w => some (mkF 0x32 h (widthBits w) 0 0)
  | .divu h w => some (mkF 0x33 h (widthBits w) 0 0)
  | .rem h w => some (mkF 0x34 h (widthBits w) 0 0)
  | .remu h w => some (mkF 0x35 h (widthBits w) 0 0)
  | .and h w => some (mkF 0x36 h (widthBits w) 0 0)
  | .or h w => some (mkF 0x37 h (widthBits w) 0 0)
  | .xor h w => some (mkF 0x38 h (widthBits w) 0 0)
  | .andn h w => some (mkF 0x39 h (widthBits w) 0 0)
  | .andi h w z v => some (mkF 0x3A h (widthBits w) (boolXm z) v)
  | .ori h w z v => some (mkF 0x3B h (widthBits w) (boolXm z) v)
  | .xori h w z v => some (mkF 0x3C h (widthBits w) (boolXm z) v)
  | .shl h w n => some (mkF 0x3D h (widthBits w) (amtXm n) (amtBits n))
  | .shr h w n => some (mkF 0x3E h (widthBits w) (amtXm n) (amtBits n))
  | .sar h w n => some (mkF 0x3F h (widthBits w) (amtXm n) (amtBits n))
  | .rol h w n => some (mkF 0x40 h (widthBits w) (amtXm n) (amtBits n))
  | .ror h w n => some (mkF 0x41 h (widthBits w) (amtXm n) (amtBits n))
  | .clz h w => some (mkF 0x42 h (widthBits w) 0 0)
  | .ctz h w => some (mkF 0x43 h (widthBits w) 0 0)
  | .popc h w => some (mkF 0x44 h (widthBits w) 0 0)
  | .bfx h w p l => some (mkF 0x45 h (widthBits w) 0 (0#14 ++ l ++ p : BitVec 26))
  | .bfxu h w p l => some (mkF 0x46 h (widthBits w) 0 (0#14 ++ l ++ p : BitVec 26))
  | .bfi h w p l => some (mkF 0x47 h (widthBits w) 0 (0#14 ++ l ++ p : BitVec 26))
  | .fadd h f m => some (mkF 0x50 h (ffmtWd f) (fxm f (rmBits m)) 0)
  | .fsub h f m => some (mkF 0x51 h (ffmtWd f) (fxm f (rmBits m)) 0)
  | .fmul h f m => some (mkF 0x52 h (ffmtWd f) (fxm f (rmBits m)) 0)
  | .fdiv h f m => some (mkF 0x53 h (ffmtWd f) (fxm f (rmBits m)) 0)
  | .fsqrt h f m => some (mkF 0x54 h (ffmtWd f) (fxm f (rmBits m)) 0)
  | .fma h f m => some (mkF 0x55 h (ffmtWd f) (fxm f (rmBits m)) 0)
  | .fmin h f k => some (mkF 0x56 h (ffmtWd f) (fxm f (0#2 ++ flag k)) 0)
  | .fmax h f k => some (mkF 0x57 h (ffmtWd f) (fxm f (0#2 ++ flag k)) 0)
  | .fsgn h f k => some (mkF 0x58 h (ffmtWd f) (fxm f (sgnBits k)) 0)
  | .fcmp h f k => some (mkF 0x59 h (ffmtWd f) (fxm f (fcondBits k)) 0)
  | .fclass h f => some (mkF 0x5A h (ffmtWd f) (fxm f 0) 0)
  | .fcvt h => some (mkF 0x5B h 0 0 0)
  | .ftoi h => some (mkF 0x5C h 0 0 0)
  | .itof h => some (mkF 0x5D h 0 0 0)
  | .ld h w s a x l => some (mkF 0x60 h (widthBits w) (0#1 ++ flag s ++ flag a ++ flag x : BitVec 4) (layABits l))
  | .st h w a x l => some (mkF 0x61 h (widthBits w) (0#2 ++ flag a ++ flag x : BitVec 4) (layABits l))
  | .ldf h w s l => some (mkF 0x62 h (widthBits w) (0#1 ++ flag s ++ 0#2 : BitVec 4) (layABits l))
  | .ldfe h w s l => some (mkF 0x63 h (widthBits w) (0#1 ++ flag s ++ 0#2 : BitVec 4) (layABits l))
  | .stf h w l => some (mkF 0x64 h (widthBits w) 0 (layABits l))
  | .aadd h w l => some (mkF 0x65 h (widthBits w) 0 (layABits l))
  | .aand h w l => some (mkF 0x66 h (widthBits w) 0 (layABits l))
  | .aor h w l => some (mkF 0x67 h (widthBits w) 0 (layABits l))
  | .axor h w l => some (mkF 0x68 h (widthBits w) 0 (layABits l))
  | .amin h w l => some (mkF 0x69 h (widthBits w) 0 (layABits l))
  | .amax h w l => some (mkF 0x6A h (widthBits w) 0 (layABits l))
  | .aminu h w l => some (mkF 0x6B h (widthBits w) 0 (layABits l))
  | .amaxu h w l => some (mkF 0x6C h (widthBits w) 0 (layABits l))
  | .aswap h w l => some (mkF 0x6D h (widthBits w) 0 (layABits l))
  | .acas h w l => some (mkF 0x6E h (widthBits w) 0 (layABits l))
  | .aadds h w u l => some (mkF 0x6F h (widthBits w) (boolXm u) (layABits l))
  | .afadd h f m l => some (mkF 0x70 h (ffmtWd f) (fxm f (rmBits m)) (layABits l))
  | .afmin h f k l => some (mkF 0x71 h (ffmtWd f) (fxm f (0#2 ++ flag k)) (layABits l))
  | .afmax h f k l => some (mkF 0x72 h (ffmtWd f) (fxm f (0#2 ++ flag k)) (layABits l))
  | .fence h s sc => some (mkF 0x73 h 0 (0#1 ++ scopeBits sc : BitVec 4) (seqBits s 0))
  | .cfence h s => some (mkF 0x74 h 0 0 (seqBits s 0))
  | .sacq h l => some (mkF 0x75 h 0 (layQXm l) (layQBits l))
  | .sacqt h l => some (mkF 0x76 h 0 (layQXm l) (layQBits l))
  | .srel h l => some (mkF 0x77 h 0 (layQXm l) (layQBits l))
  | .syncw h l => some (mkF 0x78 h 0 0 (layABits l))
  | .sbar h s t r => some (mkF 0x79 h 0 0 (s ++ scopeBits t ++ 0#13 ++ r : BitVec 26))
  | .cbar h s n => some (mkF 0x7A h 0 0 (s ++ 0#18 ++ n : BitVec 26))
  | .send h l => some (mkF 0x7B h 0 0 (laySBits l))
  | .wake h l => some (mkF 0x7C h 0 0 (laySBits l))
  | .aaddb h w l => some (mkF 0x7D h (widthBits w) 0 (layABits l))
  | .vld h w l => some (mkF 0x80 h (widthBits w) 0 (layLBits l))
  | .vst h w l => some (mkF 0x81 h (widthBits w) 0 (layLBits l))
  | .vlds h w l => some (mkF 0x82 h (widthBits w) 0 (layLBits l))
  | .vsts h w l => some (mkF 0x83 h (widthBits w) 0 (layLBits l))
  | .vgath h w l => some (mkF 0x84 h (widthBits w) 0 (layXBits l))
  | .vscat h w l => some (mkF 0x85 h (widthBits w) 0 (layXBits l))
  | .vcst h w l => some (mkF 0x86 h (widthBits w) 0 (layLBits l))
  | .vmov h w l => some (mkF 0x87 h (widthBits w) 0 (layRBits l))
  | .vadd h o l => some (mkF 0x88 h (widthBits o.w) (vopXm o) (layRBits l))
  | .vsub h o l => some (mkF 0x89 h (widthBits o.w) (vopXm o) (layRBits l))
  | .vmul h o l => some (mkF 0x8A h (widthBits o.w) (vopXm o) (layRBits l))
  | .vfma h o l => some (mkF 0x8B h (widthBits o.w) (vopXm o) (layRBits l))
  | .vdiv h o l => some (mkF 0x8C h (widthBits o.w) (vopXm o) (layRBits l))
  | .vsqrt h o l => some (mkF 0x8D h (widthBits o.w) (vopXm o) (layRBits l))
  | .vmin h o l => some (mkF 0x8E h (widthBits o.w) (vopXm o) (layRBits l))
  | .vmax h o l => some (mkF 0x8F h (widthBits o.w) (vopXm o) (layRBits l))
  | .vabs h o l => some (mkF 0x90 h (widthBits o.w) (vopXm o) (layRBits l))
  | .vneg h o l => some (mkF 0x91 h (widthBits o.w) (vopXm o) (layRBits l))
  | .vand h w l => some (mkF 0x92 h (widthBits w) 0 (layRBits l))
  | .vor h w l => some (mkF 0x93 h (widthBits w) 0 (layRBits l))
  | .vxor h w l => some (mkF 0x94 h (widthBits w) 0 (layRBits l))
  | .vshl h w s l => some (mkF 0x95 h (widthBits w) (boolXm s) (layRBits l))
  | .vshr h w s l => some (mkF 0x96 h (widthBits w) (boolXm s) (layRBits l))
  | .vsar h w s l => some (mkF 0x97 h (widthBits w) (boolXm s) (layRBits l))
  | .vcvt h l => some (mkF 0x98 h 0 0 (layRBits l))
  | .vcmp h o l => some (mkF 0x99 h (widthBits o.w) (vopXm o) (layRBits l))
  | .vmask h w k l => some (mkF 0x9A h (widthBits w) (0#1 ++ k : BitVec 4) (layRBits l))
  | .vsel h w l => some (mkF 0x9B h (widthBits w) 0 (layRBits l))
  | .vred h o l => some (mkF 0x9C h (widthBits o.w) (vopXm o) (layRBits l))
  | .vscan h o l => some (mkF 0x9D h (widthBits o.w) (vopXm o) (layRBits l))
  | .vperm h w t l => some (mkF 0x9E h (widthBits w) (boolXm t) (layRBits l))
  | .vbcast h w t l => some (mkF 0x9F h (widthBits w) (boolXm t) (layRBits l))
  | .vext h w l => some (mkF 0xA0 h (widthBits w) 0 (layRBits l))
  | .vins h w l => some (mkF 0xA1 h (widthBits w) 0 (layRBits l))
  | .vexp h o l => some (mkF 0xA2 h (widthBits o.w) (vopXm o) (layRBits l))
  | .vlog h o l => some (mkF 0xA3 h (widthBits o.w) (vopXm o) (layRBits l))
  | .vrsq h o l => some (mkF 0xA4 h (widthBits o.w) (vopXm o) (layRBits l))
  | .vtanh h o l => some (mkF 0xA5 h (widthBits o.w) (vopXm o) (layRBits l))
  | .vbms h o l => some (mkF 0xA6 h (widthBits o.w) (vopXm o) (layBBits l))
  | .vsrch h o l => some (mkF 0xA7 h (widthBits o.w) (vopXm o) (layRBits l))
  | .mclaim h s t e => some (mkF 0xB0 h 0 0 (s ++ t ++ e ++ 0#9 : BitVec 26))
  | .mrel h s t => some (mkF 0xB1 h 0 0 (s ++ t ++ 0#16 : BitVec 26))
  | .mclr h s t k => some (mkF 0xB2 h 0 0 (s ++ t ++ laneFmtBits k ++ 0#14 : BitVec 26))
  | .mma h l => some (mkF 0xB3 h 0 0 (layMBits l 0))
  | .mmasp h l t => some (mkF 0xB4 h 0 0 (layMBits l t))
  | .mmsc h l t => some (mkF 0xB5 h 0 0 (layMBits l t))
  | .mscl h s t .scalar => some (mkF 0xB6 h 0 0 (s ++ t ++ 0#16 : BitVec 26))
  | .mscl h s t (.row o) => some (mkF 0xB6 h 0 1 (s ++ t ++ o ++ 0#11 : BitVec 26))
  | .mscl h s t (.col o) => some (mkF 0xB6 h 0 2 (s ++ t ++ o ++ 0#11 : BitVec 26))
  | .mcomb h s d a k => some (mkF 0xB7 h 0 0 (s ++ d ++ a ++ combBits k ++ 0#9 : BitVec 26))
  | .mdrn h l => some (mkF 0xB8 h 0 (layDXm l) (layDBits l))
  | .mdrnt h l => some (mkF 0xB9 h 0 (layDXm l) (layDBits l))
  | .mtrn h s t => some (mkF 0xBA h 0 0 (s ++ t ++ 0#16 : BitVec 26))
  | .mcvt h s t a m => some (mkF 0xBB h 0 0 (s ++ t ++ 0#1 ++ flag a ++ rmBits m ++ 0#11 : BitVec 26))
  | .macc h s t o f => some (mkF 0xBC h 0 0 (s ++ t ++ o ++ f ++ 0#6 : BitVec 26))
  | .mstat h s => some (mkF 0xBD h 0 0 (seqBits s 0))
  | .xcpy h s => some (mkF 0xC0 h 0 0 (seqBits s 0))
  | .xc2d h s a b => some (mkF 0xC1 h 0 0 (s ++ a ++ b ++ 0#1 : BitVec 26))
  | .xgath h s n => some (mkF 0xC2 h 0 0 (s ++ n ++ 0#5 : BitVec 26))
  | .xscat h s n => some (mkF 0xC3 h 0 0 (s ++ n ++ 0#5 : BitVec 26))
  | .xfill h s => some (mkF 0xC4 h 0 0 (seqBits s 0))
  | .xarr h s r => some (mkF 0xC5 h 0 0 (s ++ 0#16 ++ r : BitVec 26))
  | .xqry h s => some (mkF 0xC6 h 0 0 (seqBits s 0))
  | .cpost h s t c => some (mkF 0xC7 h 0 0 (s ++ scopeBits t ++ 0#15 ++ c : BitVec 26))
  | .cwait h s c => some (mkF 0xC8 h 0 0 (s ++ 0#18 ++ c : BitVec 26))
  | .cwaitChk h s c => some (mkF 0xC8 h 0 1 (s ++ 0#18 ++ c : BitVec 26))
  | .cpoll h s c => some (mkF 0xC9 h 0 0 (s ++ 0#18 ++ c : BitVec 26))
  | .cabrt h s t c => some (mkF 0xCA h 0 0 (s ++ scopeBits t ++ 0#15 ++ c : BitVec 26))
  | .drun h => some (mkF 0xCB h 0 0 0)
  | .drunRel h => some (mkF 0xCB h 0 1 0)
  | .drunRes h => some (mkF 0xCB h 0 2 0)
  | .drunResp h => some (mkF 0xCB h 0 3 0)
  | .dstop h => some (mkF 0xCC h 0 0 0)
  | .dstopEnd h => some (mkF 0xCC h 0 1 0)
  | .dpos h => some (mkF 0xCD h 0 0 0)
  | .dposElap h => some (mkF 0xCD h 0 1 0)
  | .dposT0 h => some (mkF 0xCD h 0 2 0)
  | .csrr h c => some (mkF 0xD0 h 0 0 (0#14 ++ c : BitVec 26))
  | .csrw h c => some (mkF 0xD1 h 0 0 (0#14 ++ c : BitVec 26))
  | .csrs h c => some (mkF 0xD2 h 0 0 (0#14 ++ c : BitVec 26))
  | .csrc h c => some (mkF 0xD3 h 0 0 (0#14 ++ c : BitVec 26))
  | .csrx h c => some (mkF 0xD4 h 0 0 (0#14 ++ c : BitVec 26))
  | .scall h n => some (mkF 0xD5 h 0 0 (0#18 ++ n : BitVec 26))
  | .sret h => some (mkF 0xD6 h 0 0 0)
  | .brk h n => some (mkF 0xD7 h 0 0 (0#10 ++ n : BitVec 26))
  | .xtrig h => some (mkF 0xD8 h 0 0 0)
  | .tbind h => some (mkF 0xD9 h 0 0 0)
  | .tbindGen h => some (mkF 0xD9 h 0 1 0)
  | .bcinv h => some (mkF 0xDA h 0 0 0)
  | .bcinvLine h => some (mkF 0xDA h 0 1 0)
  | .wfm h => some (mkF 0xDB h 0 0 0)
  | _ => none

/-- The word of a block instruction; zero for what has no encoding. -/
def encode (i : Instr) : Word :=
  match encodeFields i with
  | some x => wordOf x
  | none => 0

/-- C and TH of a refresh. -/
def thBits : Option (BitVec 4) → BitVec 5
  | none => 0
  | some t => (1#1 ++ t : BitVec 5)

def chkBits : ChkKind → BitVec 2
  | .sem => 0
  | .ring => 1
  | .sync => 2

/-- The word of a vault entry; none for what is no entry. -/
def encodeVault : Instr → Option Word
  | .dact d b r n => some (0x0#4 ++ d ++ b ++ r ++ n ++ 0#24 : BitVec 64)
  | .drd d b c t s k => some (0x1#4 ++ d ++ b ++ c ++ vtgtSpace t ++ vtgtBits t ++ s ++ k ++ 0#4 : BitVec 64)
  | .dwr d b c t s k => some (0x2#4 ++ d ++ b ++ c ++ vtgtSpace t ++ vtgtBits t ++ s ++ k ++ 0#4 : BitVec 64)
  | .dpre d b => some (0x3#4 ++ d ++ b ++ 0#45 : BitVec 64)
  | .dprea d => some (0x4#4 ++ d ++ 0#48 : BitVec 64)
  | .drefa d t => some (0x5#4 ++ d ++ 0#3 ++ thBits t ++ 0#40 : BitVec 64)
  | .drefb d b t => some (0x6#4 ++ d ++ b ++ thBits t ++ 0#40 : BitVec 64)
  | .dwait d n => some (0x7#4 ++ d ++ 0#16 ++ n : BitVec 64)
  | .dchk d k i g v => some (0x8#4 ++ d ++ chkBits k ++ i ++ g ++ v : BitVec 64)
  | .dsig d s i n => some (0x9#4 ++ d ++ 0#1 ++ flag s ++ i ++ 0#8 ++ n : BitVec 64)
  | .drpt d b n => some (0xA#4 ++ d ++ b ++ 0#4 ++ n : BitVec 64)
  | .dend d => some (0xB#4 ++ d ++ 0#48 : BitVec 64)
  | _ => none

/-- The host's question: the instruction of a word numbered as spec/opcode_table.json numbers its bits.  The words of
the table are the 64-bit block instructions; a vault entry has a decoder of its own, `decodeVault`. -/
def decodeTableWord (nbits w : Nat) : Option Instr :=
  match decode (BitVec.ofNat 64 (w % 2 ^ nbits)) with
  | .ok i => some i
  | .error _ => none

end Sys2Proof
end

