-- ==== Sys2Proof/Machine/Tab.lean ====
section
/-! DEFINITION. Machine/Tab.lean: finite tables with a default (register files, units), sorted sets of numbers, and
the memory of the machine as lists in one canonical form: keys strictly rising, and no entry equal to what an unlisted
key reads as. -/
namespace Sys2Proof.Machine

/-- A table: entries by key, keys strictly rising; what an unlisted key holds is the reader's default. -/
abbrev Tab (α : Type) := List (Nat × α)

/-- The entry of a key, or the default. -/
def Tab.get {α : Type} (d : α) : Tab α → Nat → α
  | [], _ => d
  | (j, v) :: t, k => if k = j then v else if k < j then d else Tab.get d t k

/-- Replace or insert the entry of a key. -/
def Tab.set {α : Type} : Tab α → Nat → α → Tab α
  | [], k, v => [(k, v)]
  | (j, w) :: t, k, v =>
      if k = j then (j, v) :: t else if k < j then (k, v) :: (j, w) :: t else (j, w) :: Tab.set t k v

/-- Remove the entry of a key. -/
def Tab.del {α : Type} : Tab α → Nat → Tab α
  | [], _ => []
  | (j, w) :: t, k => if k = j then t else if k < j then (j, w) :: t else (j, w) :: Tab.del t k

/-- Keys strictly rising from a lower bound on. -/
def keysFrom {α : Type} : Nat → List (Nat × α) → Bool
  | _, [] => true
  | n, (j, _) :: t => decide (n ≤ j) && keysFrom (j + 1) t

/-- A sorted set of numbers. -/
abbrev NSet := List Nat

def NSet.has : NSet → Nat → Bool
  | [], _ => false
  | j :: t, k => if k = j then true else if k < j then false else NSet.has t k

def NSet.put : NSet → Nat → NSet
  | [], k => [k]
  | j :: t, k => if k = j then j :: t else if k < j then k :: j :: t else j :: NSet.put t k

def NSet.del : NSet → Nat → NSet
  | [], _ => []
  | j :: t, k => if k = j then t else if k < j then j :: t else j :: NSet.del t k

def NSet.from : Nat → NSet → Bool
  | _, [] => true
  | n, j :: t => decide (n ≤ j) && NSet.from (j + 1) t

/-! ### Memory -/

/-- What a byte that nothing has written reads as (log 1). -/
def byteAtRest : Byte := 0

/-- The machine's memories in one key space (`Key` of Machine/Ops.lean gives the keys): bytes that are not at rest,
words whose full/empty bit is full, and units whose poison bit is set (R63, R77, R103). -/
structure Mem where
  bytes : List Host.Cell := []
  full : NSet := []
  poison : NSet := []
  deriving DecidableEq, Repr, Inhabited

/-- Read one byte. -/
def readCells : List Host.Cell → Nat → Byte
  | [], _ => byteAtRest
  | (j, v) :: t, k => if k = j then v else if k < j then byteAtRest else readCells t k

/-- Write one byte; writing the byte at rest removes the entry. -/
def writeCells : List Host.Cell → Nat → Byte → List Host.Cell
  | [], k, v => if v = byteAtRest then [] else [(k, v)]
  | (j, w) :: t, k, v =>
      if k = j then (if v = byteAtRest then t else (j, v) :: t)
      else if k < j then (if v = byteAtRest then (j, w) :: t else (k, v) :: (j, w) :: t)
      else (j, w) :: writeCells t k v

/-- Keys strictly rising from a bound, no byte at rest listed. -/
def cellsFrom : Nat → List Host.Cell → Bool
  | _, [] => true
  | n, (j, v) :: t => decide (n ≤ j) && decide (v ≠ byteAtRest) && cellsFrom (j + 1) t

/-- The canonical form of memory. -/
def Mem.wf (m : Mem) : Bool := cellsFrom 0 m.bytes && NSet.from 0 m.full && NSet.from 0 m.poison

def Mem.read (m : Mem) (k : Nat) : Byte := readCells m.bytes k
def Mem.isFull (m : Mem) (k : Nat) : Bool := NSet.has m.full k
def Mem.isPoison (m : Mem) (k : Nat) : Bool := NSet.has m.poison k

/-- The writes that memory takes: a byte, a full/empty bit, a poison bit. -/
inductive MemOp
  | byte (k : Nat) (v : Byte)
  | full (k : Nat) (b : Bool)
  | poison (k : Nat) (b : Bool)
  deriving DecidableEq, Repr, Inhabited

def Mem.apply (m : Mem) : MemOp → Mem
  | .byte k v => { m with bytes := writeCells m.bytes k v }
  | .full k b => { m with full := if b then NSet.put m.full k else NSet.del m.full k }
  | .poison k b => { m with poison := if b then NSet.put m.poison k else NSet.del m.poison k }

/-- Several writes, the first one first. -/
def Mem.applyAll (m : Mem) : List MemOp → Mem
  | [] => m
  | o :: t => Mem.applyAll (m.apply o) t

end Sys2Proof.Machine
end

