-- ==== Sys2Proof/Machine/State.lean ====
section
/-! DEFINITION. Machine/State.lean: all the state the spec gives the machine, as plain data, the state after reset,
and the reasons a step can stop.  INVENTORY.md, under State, gives each field's width, rule and reset value. -/
namespace Sys2Proof.Machine

/-! ### Causes, places, tokens -/

/-- The cause codes of Table 18-1. -/
abbrev Cause := BitVec 8

/-- Where a byte can live: the homes of Table 2-7 and the two tile memories (R35).  Offsets are logical. -/
inductive Region
  | tcm (cell : Nat)
  | csp (cluster : Nat)
  | fsram (field : Nat)
  | carve (field slice : Nat)
  | vault (cell : Nat)
  | opm (cell : Nat)
  | acm (cell : Nat)
  | host (pasid : Nat)
  | far (wafer : Nat)
  deriving DecidableEq, Repr, Inhabited

/-- A home and an offset in it. -/
structure Place where
  r : Region
  off : Nat
  deriving DecidableEq, Repr, Inhabited

/-- A token (R183, R222, R237): its value, its poison bit, and the done token it is a handle of (R168). -/
structure Tok where
  v : Word := 0
  poi : Bool := false
  hnd : Option Nat := none
  deriving DecidableEq, Repr, Inhabited

/-- What has reached a port (R225): nulls and exceptions received, the first non-null token and the core cycle of the field on
which it is there (R249, R290). -/
structure PortSt where
  prod : Nat := 0
  nulls : Nat := 0
  tok : Option Tok := none
  exc : Bool := false
  due : Nat := 0
  deriving DecidableEq, Repr, Inhabited

/-- Where an instruction of a block in flight stands: `issued` waits for a remote response, `held` at a
local home (R65, R72), `acquiring` for a commit-time service (R166), `faulted` has its exception bit set. -/
inductive InstPhase | waiting | issued | held | acquiring | fired | nulled | faulted
  deriving DecidableEq, Repr, Inhabited

/-- An instruction of a block in flight: its word, its ports and data ports (R224, R225), its phase, and once it has fired the core
cycle of the field on which its results are there (R249, R290). -/
structure InstSt where
  word : Word
  st : InstPhase := .waiting
  due : Nat := 0
  a : PortSt := {}
  b : PortSt := {}
  p : PortSt := {}
  c : PortSt := {}
  hi : PortSt := {}
  w1 : PortSt := {}
  w2 : PortSt := {}
  w3 : PortSt := {}
  deriving DecidableEq, Repr, Inhabited

/-- A message (R187): its virtual channel, tag, words, and the WAKE and ADPT marks of Table 13-5. -/
structure Msg where
  vc : Nat
  tag : BitVec 24
  words : List Tok
  wake : Bool := false
  adpt : Bool := false
  deriving DecidableEq, Repr, Inhabited

/-- Where an address leads before it leaves its cell: a fault, the local memory, a ring of the cell, the MMIO window, a
tag, a tile memory (engines only), host memory (TXE only), or the first bytes in local memory and the rest behind a tag (R56). -/
inductive Route
  | bad (c : Cause)
  | here (p : Place)
  | ring (r : RingRef) (k : Int) (off : Nat)
  | mmio (off : Nat)
  | tag (addr : Word)
  | split (p : Place) (n : Nat) (addr : Word)
  | engine (p : Place)
  | hst (iova : Nat)
  deriving DecidableEq, Repr, Inhabited

/-- A command that leaves a block at its commit: a store-queue operation or an engine command, with its operands
(R137, R164).  `id` is its place in program order; `wait` the done token at its order port; `tok` the done token it
emits and its scope; `slots` where its result lands; `before` the store-queue entries that precede it (R173);
`fence` the operations a CFENCE makes it wait for (R172); `ea`, `route` and `len` the
address found at issue; `phase` 1 while it waits at its home, 2 once performed; `done` bytes already performed; `pp` the poison of its
predicate. -/
structure Cmd where
  id : Nat := 0
  i : Instr := .dprea 0
  cell : Nat := 0
  x : Nat := 0
  blk : Word := 0
  idx : Nat := 0
  a : Tok := {}
  b : Tok := {}
  c : Tok := {}
  hi : Tok := {}
  ws : List Tok := []
  wait : Option Nat := none
  tok : Option (Nat × Scope) := none
  slots : List (BitVec 6 × BitVec 3) := []
  before : List Nat := []
  fence : List Nat := []
  ea : Word := 0
  route : Route := .bad 0
  len : Nat := 0
  phase : Nat := 0
  done : Nat := 0
  hno : Nat := 0
  pp : Bool := false
  sup : Bool := false
  fmode : Bool := false
  frm : BitVec 3 := 0
  seed : Word := 0
  rvc : Nat := 0
  tag : BitVec 24 := 0
  deriving DecidableEq, Repr, Inhabited

/-- What follows a block (R226, R252 to R254, R385, R389); after a TRAP, nothing. -/
inductive Exit
  | addr (t : Tok)
  | done
  | yield (t : Tok)
  | scall (dst ret : Word)
  | sret (t : Tok)
  | wfm (t : Tok)
  | trap
  deriving DecidableEq, Repr, Inhabited

/-- CSRW, CSRS, CSRC, CSRX (R384). -/
inductive CsrOp | w | s | c | x
  deriving DecidableEq, Repr, Inhabited

/-- What an instruction that has fired does at its block's commit (R238). -/
inductive Act
  | queue (c : Cmd)
  | engine (c : Cmd)
  | flags (f : BitVec 5)
  | csr (n : BitVec 12) (op : CsrOp) (v : Word)
  | depth (d : Int)
  | pop (chan : Nat)
  | dvault (c : Cmd)
  | bind (c : Cmd) (dst : Option RegRef)
  | bcinv (line : Option Word)
  | trig (groups : Word)
  deriving DecidableEq, Repr, Inhabited

/-- A fault of a block (R227, R231): TIDX, cause, TVAL, whether TVAL carried poison. -/
structure OwnFault where
  idx : Nat
  cause : Cause
  tval : Word
  poi : Bool := false
  deriving DecidableEq, Repr, Inhabited

/-- A slot: value, poison, handle, lifetime code, the commit index it was written under (none: expired), freed. -/
structure Slot where
  v : Word := 0
  poi : Bool := false
  hnd : Option Nat := none
  life : BitVec 3 := 0
  wrote : Option Word := none
  freed : Bool := false
  deriving DecidableEq, Repr, Inhabited

/-- A header read entry (Table 10-2): whether its value has been taken, whether R155 makes the read a fault, and the slot
as it stood when a pending one was read, by which the read is judged (R155). -/
structure Read where
  slot : BitVec 6
  last : Bool
  tgt : BitVec 11
  served : Bool := false
  bad : Bool := false
  prior : Option Slot := none
  deriving DecidableEq, Repr, Inhabited

/-- A block in flight (R196, R220 to R227); `fmode` is the atomicity mode it entered under (R54); `leads`, of loads that straddle the
spill boundary, the bytes that lie before it (R56). -/
structure Block where
  id : Nat := 0
  addr : Word
  h0 : Word := 0
  sup : Bool := false
  fmode : Bool := false
  wmask : Word := 0
  reads : List Read := []
  insts : List InstSt := []
  swr : List (BitVec 6 × BitVec 3 × Tok) := []
  acts : List (Nat × Act) := []
  faults : List OwnFault := []
  excd : Bool := false
  second : Option (BitVec 8) := none
  exits : List (Nat × Exit) := []
  entryFault : Option OwnFault := none
  loads : List Cmd := []
  leads : List (Nat × Nat) := []
  acqs : List (Nat × Cmd × Bool) := []
  deriving DecidableEq, Repr, Inhabited

/-- A result on its way to a slot (R154): its command, the value once it has come, and the core cycle of the field (R156) or the
vault clock (R380, R381) by which it lands; whether it is a TBIND's (R430). -/
structure Land where
  id : Nat
  slot : BitVec 6
  life : BitVec 3
  pp : Bool := false
  val : Option Tok := none
  due : Option Nat := none
  vdue : Option Nat := none
  bind : Bool := false
  deriving DecidableEq, Repr, Inhabited

/-- What the context does after its youngest block in flight (R189, R196, R253, R389). -/
inductive Nxt
  | idle
  | at_ (addr : Word)
  | wfm (resume : Word)
  deriving DecidableEq, Repr, Inhabited

/-- A report that stops a context (R415): cause, DETAIL, SRC, TVAL. -/
structure Report where
  cause : Cause
  detail : BitVec 8 := 0
  src : BitVec 4 := 0
  tval : Word := 0
  deriving DecidableEq, Repr, Inhabited

/-- A context (R15, chapters 2, 9, 12, 14, 16, 18); `told`: the field manager has the report of its stop (R419). -/
structure Ctx where
  slots : Tab Slot := []
  lands : List Land := []
  ccount : Word := 0
  mq : List Msg := []
  agelim : BitVec 32 := 0
  pfault : Word := 0
  gidx0 : Word := 0
  gidx1 : Word := 0
  cdepth : BitVec 16 := 0
  frm : BitVec 3 := 0
  fflags : BitVec 5 := 0
  srseed : Word := 1
  vxstat : Word := 0
  mxstat : Word := 0
  txstat : Word := 0
  sterr : Word := 0
  sterra : Word := 0
  drops : List (Nat × Cause × Word × Scope) := []
  lateDrop : Bool := false
  spillb : Word := 0
  spills : Word := 0
  ovfptr : Word := 0
  ovfsz : Word := 0
  mytag : BitVec 24 := 0
  rvc : BitVec 3 := 0
  sup : Bool := false
  svret : Word := 0
  tcause : Word := 0
  tblk : Word := 0
  tidx : Word := 0
  tval : Word := 0
  stopped : Bool := false
  told : Bool := false
  reports : List Report := []
  vreg : Tab (BitVec 512) := []
  vpoi : Tab (BitVec 8) := []
  kreg : Tab Word := []
  flight : List Block := []
  next : Nxt := .idle
  nextSup : Bool := false
  yieldTo : List Nat := []
  handler : Bool := false
  hno : Nat := 0
  sq : List Cmd := []
  outs : List (Nat × Scope) := []
  cfence : List Nat := []
  deriving DecidableEq, Repr, Inhabited

/-! ### Engines -/

/-- A piece of a TXE command on its way (R369): the access that carries it now, whether that is the write, where and how
much it writes, its sync word, its poison; `entry` marks the read of a list entry, `loc` that of a local source; `elem` the element or row it belongs to. -/
structure TxFly where
  id : Nat
  elem : Nat := 0
  wr : Bool := false
  entry : Bool := false
  loc : Bool := false
  daddr : Word := 0
  len : Nat := 0
  sw : Option Word := none
  poi : Bool := false
  deriving DecidableEq, Repr, Inhabited

/-- A running TXE command (R369 to R373): the element or row and the offset that issue next, the list entry read for it,
accumulator bytes as they stood at its start (R146), pieces in flight, pieces dropped, and why it stopped. -/
structure TxRun where
  cmd : Cmd
  elem : Nat := 0
  off : Nat := 0
  entry : Option Word := none
  issuing : Bool := true
  acm : List (Byte × Bool) := []
  flying : List TxFly := []
  dropped : Nat := 0
  code : Nat := 0
  cause : Cause := 0
  tval : Option Word := none
  arrive : Bool := false
  deriving DecidableEq, Repr, Inhabited

/-- An access of a running VXE or MXE command: its identity, the place of its bytes in the register or result, the
distance of its home, whether it writes, whether it goes to a ring. -/
structure Fly where
  id : Nat
  off : Nat := 0
  len : Nat := 0
  dist : Scope := .cel
  wr : Bool := false
  ring : Bool := false
  deriving DecidableEq, Repr, Inhabited

/-- A running VXE command (R313, R315, R316): accesses in flight, bytes they have brought, the elements a VCST stores
once its reservation returns, flags and result to come, the error of its token. -/
structure VxRun where
  cmd : Cmd
  flying : List Fly := []
  got : List (Nat × Byte × Bool) := []
  elems : List (List (Byte × Bool)) := []
  flags : BitVec 5 := 0
  res : Option Tok := none
  terr : Option (Cause × Word) := none
  deriving DecidableEq, Repr, Inhabited

/-- A running MXE command (R344, R359, R360): accesses in flight, whether it drains, the flags of MXSTAT [6:0] to come. -/
structure MxRun where
  cmd : Cmd
  flying : List Fly := []
  drain : Bool := false
  flags : BitVec 7 := 0
  deriving DecidableEq, Repr, Inhabited

/-- A tile's state (Table 7-2); of lines that are partly written, the TXE command and the element of it that writes one, the line,
a mask of the bytes that have come (R144). -/
structure OtSt where
  st : BitVec 2 := 0
  owner : BitVec 2 := 0
  exp : BitVec 8 := 0
  fill : BitVec 8 := 0
  parts : List (Nat × Nat × Nat × Nat) := []
  deriving DecidableEq, Repr, Inhabited

/-- A ring descriptor (Table 3-4); `turned`: it has rotated in the present core cycle (R71); `seenAt`: the vault clocks from which
DCHK sees its last rotations (R73). -/
structure Ring where
  cfg : Word := 0
  part : BitVec 48 := 0
  arr : BitVec 48 := 0
  pend : BitVec 48 := 0
  gen : BitVec 32 := 0
  sp : BitVec 4 := 0
  turned : Bool := false
  seenAt : List Nat := []
  deriving DecidableEq, Repr, Inhabited

/-! ### Accesses in flight -/

/-- Who makes an access (R157). -/
inductive Who
  | ctx (cell x : Nat)
  | vxe (cell x : Nat)
  | mxe (cell x : Nat)
  | txe (cell : Nat)
  | seq (cell : Nat)
  | fetch (cell x : Nat)
  | host
  | link (g : Nat)
  | mgr (field : Nat)
  | gate (g : Nat)
  deriving DecidableEq, Repr, Inhabited

/-- What an access does at its home; `record`: a host write to the launch area, whose bytes G0 filters (R463). -/
inductive Op
  | read
  | write (data : List (Byte × Bool))
  | engWrite (data : List (Byte × Bool)) (mask : List Bool)
  | stf (data : List (Byte × Bool))
  | ldf
  | ldfe
  | syncw (gen : BitVec 32)
  | atomic (c : Cmd)
  | count (n : Nat) (poi : Bool)
  | arrive (ring : RingRef) (bit : Nat)
  | message (m : Msg)
  | record (off : Nat) (data : List Byte) (poi : Bool)
  deriving DecidableEq, Repr, Inhabited

/-- Where the answer of an access goes; `slice`: the turn of a cache slice at the untimed path (R86, R101); to another wafer, with the number, the tag and the generation of its request (R409). -/
inductive Back
  | none
  | inst (cell x blk idx : Nat)
  | slot (cell x id : Nat) (sgn : Bool)
  | store (cell x id : Nat)
  | vxe (cell piece : Nat)
  | mxe (cell piece : Nat)
  | txRead (cell piece : Nat)
  | txWrite (cell piece : Nat)
  | code (cell x : Nat) (line : Word)
  | host
  | far (wafer req tag gen : Nat)
  | slice (field slice : Nat)
  | gate (g inst part : Nat)
  deriving DecidableEq, Repr, Inhabited

/-- An access or message in flight (R163): source cell, virtual channel, address as named and where it leads, the
binding generation it was stamped with (R42), its token; `lead`, of an atomic that straddles the spill boundary, its bytes before it
(R56); of a message, the check bits that the injecting router computed (R309). -/
structure Acc where
  id : Nat
  who : Who
  cell : Nat
  vc : Nat
  addr : Word
  place : Option Place := none
  ring : Option (RingRef × Int × Nat) := none
  len : Nat := 0
  op : Op
  back : Back := .none
  tok : Option (Nat × Scope) := none
  sup : Bool := false
  fmode : Bool := false
  gen : BitVec 2 := 0
  at_ : Bool := false
  hno : Nat := 0
  done : Nat := 0
  got : List (Byte × Bool) := []
  due : Nat := 0
  lead : Option (Place × Nat) := none
  check : BitVec 16 := 0
  deriving DecidableEq, Repr, Inhabited

/-- A response on VC6 (R163): the answer of an access, or the error of R41; `due` the vault clock before which the data of a
vault read is not there (R101); the home it comes from. -/
structure Resp where
  id : Nat
  back : Back
  data : List (Byte × Bool) := []
  err : Option Cause := none
  addr : Word := 0
  tok : Option (Nat × Scope) := none
  due : Nat := 0
  src : Option (Nat × Nat) := none
  deriving DecidableEq, Repr, Inhabited

/-- A done token (R168, R170): waiting, emitted, or emitted with an error. -/
inductive TokSt
  | waiting
  | emitted
  | error (cause : Cause) (addr : Word)
  deriving DecidableEq, Repr, Inhabited

/-! ### The vault and its sequencer -/

/-- The states of VSQSTAT.STATE (Table 6-8). -/
inductive SeqState | idle | armed | running | suspended | done | stopped
  deriving DecidableEq, Repr, Inhabited

/-- A column on its way through the elastic buffer (R115, R127): its DRD and pass, the vault clock from which it may be
performed, its bytes, the run of the program it belongs to, the atomicity mode it issued under (R53), the bytes written so far
(R62). -/
structure Deliv where
  entry : Instr
  iter : Nat
  due : Nat
  data : List (Byte × Bool)
  prog : Nat := 0
  fmode : Bool := false
  done : Nat := 0
  deriving DecidableEq, Repr, Inhabited

/-- An entry fetched and not yet issued (R108): its index, pass and word; for a DWR whether staging has begun and under which
atomicity mode (R53), the bytes read so far (R62), and the column once it is staged (R116). -/
structure Fetched where
  index : Nat
  iter : Nat
  entry : Instr
  began : Bool := false
  fmode : Bool := false
  got : List (Byte × Bool) := []
  staged : Option (List (Byte × Bool)) := none
  deriving DecidableEq, Repr, Inhabited

/-- The vault sequencer (chapter 6): the registers of Table 6-8; the image and header of the program; the reference time
of the next entry with and without a DWAIT's COUNT (R111, R133); the start time while armed, whether it resumes, the
banks its preamble still reopens (R134); whether its DEND has issued; what it fetches next and has fetched (R108); the
elastic buffer; DSIGs issued and not recorded, with the deliveries they
wait for and their run (R121); commands of blocks on their way
(R379), DSTOPs to come with their forms (R132); the context that started it; the run of the program; the vault clock of
a fault whose precharge is to come (R128), and of the last fault (R129). -/
structure Seq where
  st : SeqState := .idle
  cause : Cause := 0
  detail : BitVec 8 := 0
  index : BitVec 12 := 0
  iter : BitVec 32 := 0
  elap : Word := 0
  t0 : Word := 0
  rowl : Word := 0
  rowh : Word := 0
  debt : BitVec 40 := 0
  image : Nat := 0
  header : Word := 0
  ref : Int := 0
  refb : Int := 0
  startAt : Nat := 0
  resume : Bool := false
  pre : List Nat := []
  ended : Bool := false
  fetchNext : Option (Nat × Nat) := none
  fetched : List Fetched := []
  elastic : List Deliv := []
  writes : List Nat := []
  dsigs : List (Instr × Nat × Nat) := []
  cmds : List Cmd := []
  stops : List (Nat × Bool) := []
  owner : Nat := 0
  prog : Nat := 0
  precharge : Option Nat := none
  faultAt : Option Nat := none
  deriving DecidableEq, Repr, Inhabited

/-- A bank: its open row, the last times of its commands (R94, Table 6-5), its refresh debt (R97) and target (R99). -/
structure BankSt where
  row : Option Nat := none
  act : Option Nat := none
  pre : Option Nat := none
  rd : Option Nat := none
  wr : Option Nat := none
  ref : Option Nat := none
  debt : Int := 0
  target : Int := 0
  deriving DecidableEq, Repr, Inhabited

/-- A vault: its banks, its last four activates, its last all-bank refresh and last bank command, the last tick that was
applied, the owning program's class, its queue of untimed accesses (R102), its row remap table (R104), the columns (bank, row,
column) in which a correctable error was found and not yet written back (R103). -/
structure Vault where
  banks : Tab BankSt := []
  acts : List Nat := []
  lastRefA : Option Nat := none
  last : Option Nat := none
  ticked : Option Nat := none
  owned : Bool := false
  dcls : BitVec 2 := 0
  queue : List Acc := []
  vrmap : Tab (BitVec 16) := []
  flawed : List (Nat × Nat × Nat) := []
  deriving DecidableEq, Repr, Inhabited

/-! ### Cells, clusters, fields -/

/-- Ages of waiting items (R218): QUEUE of Table 9-9, the context that takes the fault, an item's identity, VC, tag. -/
structure Age where
  q : Nat
  x : Nat
  key : Nat
  age : BitVec 32
  vc : BitVec 3 := 0
  tag : BitVec 24 := 0
  deriving DecidableEq, Repr, Inhabited

/-- A line of the block cache (R88). -/
structure CodeLine where
  line : Word
  data : List (Byte × Bool)
  deriving DecidableEq, Repr, Inhabited

/-- A waiting acquire (R149). -/
structure Acquire where
  x : Nat
  blk : Nat
  idx : Nat
  n : Nat
  q : Nat
  deriving DecidableEq, Repr, Inhabited

/-- What a context takes from the node whose message it dispatches (R205): its tag, its group's indices, its VC. -/
structure NodeInfo where
  tag : BitVec 24 := 0
  gidx0 : Word := 0
  gidx1 : Word := 0
  rvc : BitVec 3 := 0
  deriving DecidableEq, Repr, Inhabited

/-- A cell.  `avoided`: the mesh routes go around its failed router (R418).  `ovfNow`, `acqNow`, `missNow` and `hdropNow` are the
bits of SEMOVF set, the semaphores taken from, a set of TREESTAT.MISS and the messages counted by HDROP in the present core cycle;
`semLate` the releases that count in the next one (R8, R150).  `failed`: a hardware-fatal fault has stopped it
(R418).  `lastIss` is the context that issued last, `issAt` the block and index
after which the present cycle issues (R197). -/
structure Cell where
  tcmLive : BitVec 16 := 0xFFFF
  vltLive : BitVec 8 := 0xFF
  dead : Bool := false
  vifDead : Bool := false
  routerDown : Bool := false
  avoided : Bool := false
  schk : Bool := true
  atom : Bool := false
  codeBase : BitVec 8 := 0
  codeLim : BitVec 8 := 0
  hgrp : Word := 0
  svbase : Word := 0
  hdrop : BitVec 32 := 0
  hdropNow : BitVec 32 := 0
  htab : Tab Word := []
  ahtab : Tab Word := []
  nodes : Tab NodeInfo := []
  anodes : Tab NodeInfo := []
  inj : List (Nat × Tok) := []
  ext : List (Nat × Tok) := []
  injRes : Nat := 0
  extRes : Nat := 0
  treeMiss : Bool := false
  missNow : Bool := false
  treech : Tab Word := []
  injN : Tab Nat := []
  sem : Tab (BitVec 32) := []
  semovf : Word := 0
  ovfNow : Word := 0
  semWait : List Acquire := []
  acqNow : List Nat := []
  semLate : List (Nat × Nat) := []
  ot : Tab OtSt := []
  atfmt : Tab (BitVec 2) := []
  busy : List (Nat × Nat) := []
  mxChain : Option (Nat × Nat) := none
  laneParts : List (Nat × Nat × Nat × Bool) := []
  txq : List Cmd := []
  vxq : List Cmd := []
  mxq : List Cmd := []
  txRes : Nat := 0
  vxRes : Nat := 0
  mxRes : Nat := 0
  txRun : List TxRun := []
  vxRun : List VxRun := []
  mxRun : List MxRun := []
  td : Tab Ring := []
  vsw : Tab Word := []
  cpcfg : Tab Word := []
  cpstat : Tab Word := []
  seq : Seq := {}
  vault : Vault := {}
  bcache : List CodeLine := []
  misses : List (Nat × Word) := []
  issCtx : Option Nat := none
  issN : Nat := 0
  lastIss : Nat := 3
  issAt : Nat := 0
  entered : Bool := false
  lastIn : Nat := 3
  passed : List (Nat × Nat × Nat × Nat) := []
  commits : List Nat := []
  slewV : Nat := 0
  slewVp : Nat := 0
  slewM : Nat := 0
  slewMp : Nat := 0
  ages : List Age := []
  halted : BitVec 16 := 0
  failed : Bool := false
  lcur : Word := 0
  deriving DecidableEq, Repr, Inhabited

/-- A cluster barrier (Table 13-4). -/
structure Barrier where
  mask : Word := 0
  arr : Word := 0
  gen : Word := 0
  deriving DecidableEq, Repr, Inhabited

/-- A cluster: scratchpad banks, ring descriptors, barriers. -/
structure Cluster where
  cspLive : BitVec 32 := 0xFFFFFFFF
  rd : Tab Ring := []
  cb : Tab Barrier := []
  deriving DecidableEq, Repr, Inhabited

/-- A line of a cache slice (R86). -/
structure CLine where
  set : Nat
  way : Nat
  line : Nat
  dirty : Bool
  data : List (Byte × Bool)
  deriving DecidableEq, Repr, Inhabited

/-- A slice in cache mode: its lines, least recently used first, and the accesses waiting behind a miss. -/
structure Slice where
  mode : BitVec 2 := 0
  live : BitVec 20 := 0xFFFFF
  lines : List CLine := []
  waiting : List Acc := []
  flushing : Bool := false
  deriving DecidableEq, Repr, Inhabited

/-- A diode's record (R455, R456); `seen` counts the sampling periods in which it has been sampled. -/
structure Sensor where
  last : Int := 0
  seen : Nat := 0
  hist : List (Nat × Int) := []
  suspect : Bool := false
  deriving DecidableEq, Repr, Inhabited

/-- A field: power control (Table 19-1), telemetry (Table 19-3), SRAM slices, cache bindings with the writes of them that wait for
a flush (R87); the dropped messages
reported to its manager, VC and tag (R187, R215); for each bank its events, newest first
(vault clock, byte in the bank, correctable), and the bytes of its events once they are lasting (R421), and of vault rows that have
been remapped (R104) cell, bank, row, and the vault clock.  `cycle` counts core cycles
from the write of the duty pattern (R198), `tick` all of them; `phase` is the time since the present one began, in thousandths of a
core cycle at the set frequency, `stretched` the cycle that droop stretched last (R20).  `freqGoal` is the frequency that Saffron has
set; `voltGoal` the supply that a lowering ends with, `settled` whether the supply stands still, `changeAt` the vault clock on which the
last change began (R446); `ecap` the engine power cap in mW (R450); `overAt` is the vault
clock from which the logic estimate has stood at 118 °C (R458). -/
structure Field where
  cycle : Nat := 0
  tick : Nat := 0
  phase : Int := 0
  stretched : Option Nat := none
  floor : BitVec 16 := 600
  trip : Bool := false
  boost : Bool := false
  volt : Option (BitVec 12) := none
  freq : BitVec 16 := 600
  freqGoal : BitVec 16 := 600
  voltGoal : Option (BitVec 12) := none
  settled : Bool := true
  changeAt : Nat := 0
  ecap : Nat := 0
  overAt : Option Nat := none
  mstep : BitVec 8 := 2
  vstep : BitVec 8 := 16
  ebfill : BitVec 24 := 0
  ebcap : BitVec 32 := 65536
  ebbal : Nat := 0
  duty : Word := 0xFFFFFFFFFFFFFFFF
  tlog : BitVec 16 := 0
  tdram : BitVec 16 := 0
  scls : BitVec 2 := 0
  sflt : BitVec 8 := 0
  dflt : BitVec 8 := 0
  susp : BitVec 8 := 0
  leak : BitVec 22 := 0
  energy : Word := 0
  sensors : Tab Sensor := []
  estD : Int := 0
  sclsSince : Nat := 0
  below : Option Nat := none
  slices : Tab Slice := []
  fcb : Tab Word := []
  fcbNext : List (Nat × Word) := []
  ctab : Tab (BitVec 16) := []
  msgDrops : List (Nat × BitVec 24) := []
  banklog : List (BankRef × List (Nat × Nat × Bool)) := []
  lasting : List (BankRef × List Nat) := []
  remapped : List (Nat × Nat × Nat × Nat) := []
  gated : Bool := false
  gatedAt : Nat := 0
  retired : Bool := false
  deriving DecidableEq, Repr, Inhabited

/-! ### Tree, collectives, links -/

/-- An operand at a tree node: which node, from which child by virtual index, on which channel and round (R393, R395),
with the channel's operation and the level of its groups. -/
structure TreeOp where
  level : Nat
  node : Nat
  chan : Nat
  child : Nat
  round : Nat
  v : Word
  poi : Bool
  op : Nat
  top : Nat
  deriving DecidableEq, Repr, Inhabited

/-- A result on its way to a leaf, valid from a tree clock on (R398). -/
structure TreeDown where
  cell : Nat
  chan : Nat
  round : Nat
  v : Word
  poi : Bool
  due : Nat
  deriving DecidableEq, Repr, Inhabited

/-- A collective post that its gateway has accepted (R376); bad: an access to one of its buffers has failed. -/
structure Post where
  cell : Nat
  x : Nat
  cp : Nat
  src : Word
  dst : Word
  bad : Bool := false
  deriving DecidableEq, Repr, Inhabited

/-- A remote access of a gateway to a buffer of a post (R376): its number, the post's port, its bytes once it is answered. -/
structure BufPart where
  id : Nat
  cell : Nat
  cp : Nat
  got : Option (List (Byte × Bool)) := none
  deriving DecidableEq, Repr, Inhabited

/-- A collective instance at a gateway (R401 to R406): operation, format and element count of its node; its ports, in the
order of the wafer phase; the dimensions it uses with their sizes and this wafer's positions; the posts of the round,
the elements folded so far with their poison, the stage and step of the torus phase; whether it is aborted, and the
rounds whose marker it has seen; whether the gateway reads or writes the buffers now, and those accesses. -/
structure Inst where
  op : Nat := 0
  fmt : Nat := 0
  count : Nat := 0
  members : List (Nat × Nat) := []
  dims : List (Nat × Nat × Nat) := []
  posts : List Post := []
  round : Nat := 0
  running : Bool := false
  acc : List (Nat × Bool) := []
  stage : Nat := 0
  step : Nat := 0
  aborted : Bool := false
  seen : List Nat := []
  moving : Bool := false
  parts : List BufPart := []
  deriving DecidableEq, Repr, Inhabited

/-- A gateway and its Suthar link (R401, R407 to R412): SLKCFG and SLKPARK; frames queued to send, beats of the first one
sent, the half slots that the beat under way has had and those it takes in all (R412); gateway clocks idle; a wake in progress, the vault
clock it began on, the wavelengths that are ready. -/
structure Gate where
  slkcfg : Word := 0
  pmask : BitVec 6 := 0
  amask : BitVec 8 := 0xFF
  fail : BitVec 8 := 0
  waketh : BitVec 16 := 64
  idlewin : BitVec 16 := 256
  txFrames : List Frame := []
  txSent : Nat := 0
  slots : Nat := 0
  cost : Nat := 2
  idle : Nat := 0
  waking : Bool := false
  wakeAt : Nat := 0
  insts : Tab Inst := []
  deriving DecidableEq, Repr, Inhabited

/-! ### Launches, host, supervisor -/

/-- A node of a launch, bound: its cell and context, its local number, its group's linear number, its tag (R205). -/
structure NodeBind where
  cell : Nat
  ctx : Nat
  lnode : Nat
  group : Nat
  tag : Nat
  deriving DecidableEq, Repr, Inhabited

/-- The run-time side of a launch record (R206 to R211): the vault clocks on which it was posted, queued and its CTRL last written
(R464), its PASID, its
rounded FMIN, what it holds: nodes, cells, contexts, clusters, fields, tree channels, collective instances, cache slices, and the power
reserved for it in mW (R453) with the engine power declared for each field, whether it is granted boost (R19); whether steps 1 to 4 of its binding are done and step 5 waits for its other wafers (R482); whether it is pre-empted, and whether
its restore waits for interrupted loads (R426); the STATUS of a kill that waits for its slices to flush (R209). -/
structure Launch where
  posted : Nat := 0
  queuedAt : Nat := 0
  ctrlAt : Option Nat := none
  pasid : Nat := 0
  fmin : Nat := 0
  nodes : List NodeBind := []
  cells : List Nat := []
  ctxs : List (Nat × Nat) := []
  clusters : List Nat := []
  fields : List Nat := []
  chans : List Nat := []
  insts : List (Nat × Nat) := []
  slices : List (Nat × Nat) := []
  reserve : Nat := 0
  engine : List (Nat × Nat) := []
  boost : Bool := false
  loaded : Bool := false
  snap : Bool := false
  loading : Bool := false
  dying : Option Nat := none
  deriving DecidableEq, Repr, Inhabited

/-- The snapshot of one cell (R424, R425): its launch, the cell and its contexts as they stood, the cluster's rings and
barriers with cell index 0, the bytes not at rest, full words and poisoned units of its memories by place, the vault clock
of the gate and the core cycle of the field when saved (R156), the stepping, the sizes when saved; the length of header and body; the loads that had not returned, which are issued
again (R182). -/
structure Snap where
  launch : Nat
  cell : Nat
  state : Cell
  ctxs : List Ctx
  cluster : Option Cluster := none
  bytes : List (Place × Byte) := []
  full : List Place := []
  poison : List Place := []
  gvtime : Nat := 0
  tick : Nat := 0
  stepping : BitVec 16 := 0
  tcmsz : Nat := 0
  cspsz : Nat := 0
  vltsz : Nat := 0
  len : Nat := 256
  loads : List Acc := []
  deriving DecidableEq, Repr, Inhabited

/-- The field's own part of a snapshot (R81): its launch, the field, MODE and LIVE of its slices, its cache bindings, its duty pattern,
the field manager's state (its drop reports, bank logs and judgements), the partial folds of the launch's channels in the field's
nodes (R400). -/
structure FieldSnap where
  launch : Nat
  field : Nat
  slices : List (Nat × BitVec 2 × BitVec 20) := []
  fcb : Tab Word := []
  duty : Word := 0
  msgDrops : List (Nat × BitVec 24) := []
  banklog : List (BankRef × List (Nat × Nat × Bool)) := []
  lasting : List (BankRef × List Nat) := []
  remapped : List (Nat × Nat × Nat × Nat) := []
  folds : List TreeOp := []
  deriving DecidableEq, Repr, Inhabited

/-- A translation that the gateway's cache holds (R465): PASID, page and host page in pages of 4 KiB × 512^order. -/
structure Atc where
  pasid : Nat
  page : Nat
  host : Nat
  order : Nat := 0
  deriving DecidableEq, Repr, Inhabited

/-- Firmware and mailbox state (R462, R466 to R471). -/
structure Fw where
  image : List Byte := []
  ver : Nat := 0
  svn : Nat := 0
  minSvn : Nat := 0
  leaf : Nat := 0
  digest : List Byte := []
  dump : List Byte := []
  resume : Bool := false
  deriving DecidableEq, Repr, Inhabited

/-- A move to come: an event, one instruction of a block, or the entry a vault sequencer has due (log 3). -/
inductive Move
  | event (i : Instr)
  | fire (cell x pos idx : Nat)
  | entry (cell : Nat)
  deriving DecidableEq, Repr, Inhabited

/-- Where the instruction being run stands: a block position and index, or a cell's sequencer. -/
structure Cur where
  cell : Nat := 0
  x : Nat := 0
  pos : Nat := 0
  idx : Nat := 0
  deriving DecidableEq, Repr, Inhabited

/-- The machine.  `regions` are the V/F regions by the corners of their sites (R447), one over the whole wafer at first;
`dispAt` is the last vault clock on which the dispatcher has decided (R206); `linkFails` the wakes of wavelengths that failed, of which
Saffron has been told (R412); `period` counts the control periods done (R443);
`misq` holds misrouted flits with the field whose manager queues them (R438), `rebindVs` the virtual fields that the rebinding in progress
holds and `reinj` the flits it has re-injected (R437); `dumpDue` the launches a dump is due for (R441), `gating` the fields of the
pre-emption in progress (R430); `herrNow` the drops that HERR counts on the present vault clock (R8). -/
structure State where
  mem : Mem := {}
  vtime : Word := 0
  cells : Tab Cell := []
  ctxs : Tab Ctx := []
  clusters : Tab Cluster := []
  fields : Tab Field := []
  gates : Tab Gate := []
  ftab : Tab (BitVec 16) := []
  ltab : Tab (BitVec 16) := []
  atab : Tab (BitVec 24) := []
  wroteGen : Tab (BitVec 32) := []
  gen : BitVec 32 := 0
  holds : List Nat := []
  waferId : BitVec 8 := 0
  dims : List Nat := []
  torus : List (Nat × List Nat) := [(0, [])]
  net : List Acc := []
  resps : List Resp := []
  held : List Acc := []
  waits : List Acc := []
  tokens : Tab TokSt := []
  treeUp : List TreeOp := []
  treeDown : List TreeDown := []
  treeRound : Tab Nat := []
  anmask : Tab (BitVec 16) := []
  anpadMax : BitVec 16 := 0
  anpadPad : BitVec 16 := 192
  leafLat : Tab Nat := []
  launches : Tab Launch := []
  pgrant : Tab Word := []
  mbctl : Word := 0
  mbstat : Word := 0
  mbox : Tab (BitVec 8) := []
  bootst : Word := 0
  herr : Word := 0
  herrNow : Word := 0
  hwin : Tab Word := []
  fw : Fw := {}
  atc : List Atc := []
  modtel : Word := 0x8CA00000
  snaps : List Snap := []
  fsnaps : List FieldSnap := []
  haltGroups : BitVec 16 := 0
  regions : List (Nat × Nat × Nat × Nat) := [(0, 0, 9, 9)]
  dispAt : Option Nat := none
  reports : List (Nat × Nat × Report) := []
  supLog : List (Nat × Word) := []
  dumps : List (Nat × List Byte) := []
  dumpDue : List Nat := []
  gating : List Nat := []
  misq : List (Nat × Acc) := []
  rebindStep : Nat := 0
  rebindVs : List Nat := []
  reinj : List Nat := []
  linkOut : List Acc := []
  linkFails : List (Nat × BitVec 8) := []
  period : Nat := 0
  gateIn : List Cmd := []
  agenda : List Move := []
  cur : Cur := {}
  fresh : Nat := 0
  freeCtr : Nat := 0
  deriving DecidableEq, Repr, Inhabited

/-- The machine right after power-on reset (R6): every field at the value of INVENTORY.md. -/
def State.reset : State := {}

/-- Why the machine stops. -/
inductive Fault
  /-- A move names a cell, cluster, field or gateway that the part does not have (R14, R15): raised by `step`; safe,
  no hardware unit acts there. -/
  | noSuchUnit
  deriving DecidableEq, Repr, Inhabited

/-- Why the model declines to step. -/
inductive Refusal
  /-- An instruction of the table without a meaning in the model: raised by `exec`; safe. -/
  | notModelled (mnemonic : String)
  /-- A `fire` or `entry` move names no instruction in flight: raised by `step`; safe, the hardware has no such step. -/
  | noInstruction
  deriving DecidableEq, Repr, Inhabited

end Sys2Proof.Machine
end

