-- ==== Sys2Proof/Machine/Ops.lean ====
section
/-! DEFINITION. Machine/Ops.lean: the named operations over units, memory, addresses, tokens and traps that the
meanings share: homes and placement (R40, R43 to R46, R80, R91, R104), reads and writes with poison and full/empty
bits (R64, R77, R296), address routes (R27 to R36, R56, R69), done tokens (R168, R170), and the one operation that
stops a context (R183, R184, R413 to R415) with the actions that release it (R420). -/
namespace Sys2Proof.Machine
open Sys2Proof

/-! ### A step under way -/

/-- A step under way: the state so far, and the memory writes made, oldest first.  `s.mem` shows them already. -/
structure M where
  s : State
  ops : List MemOp := []
  deriving DecidableEq, Repr, Inhabited

/-- Change the state apart from its memory. -/
def M.on (m : M) (f : State → State) : M := { m with s := f m.s }

/-- Write memory. -/
def M.write (m : M) (l : List MemOp) : M := { s := { m.s with mem := m.s.mem.applyAll l }, ops := m.ops ++ l }

/-- One step: what `f` does, with memory changed by its writes alone and the vault clock unchanged. -/
def run (s : State) (f : M → M) : Host.Outcome State Fault Refusal :=
  let m := f { s := s }
  .next { m.s with mem := s.mem.applyAll m.ops, vtime := s.vtime }

/-! ### Units -/

def State.cellAt (s : State) (k : Nat) : Cell := s.cells.get {} k
def State.setCell (s : State) (k : Nat) (c : Cell) : State := { s with cells := s.cells.set k c }
def State.onCell (s : State) (k : Nat) (f : Cell → Cell) : State := s.setCell k (f (s.cellAt k))
def State.ctxAt (s : State) (cell x : Nat) : Ctx := s.ctxs.get {} (4 * cell + x)
def State.setCtx (s : State) (cell x : Nat) (c : Ctx) : State := { s with ctxs := s.ctxs.set (4 * cell + x) c }
def State.onCtx (s : State) (cell x : Nat) (f : Ctx → Ctx) : State := s.setCtx cell x (f (s.ctxAt cell x))
def State.clusterAt (s : State) (k : Nat) : Cluster := s.clusters.get {} k
def State.setCluster (s : State) (k : Nat) (c : Cluster) : State := { s with clusters := s.clusters.set k c }
def State.onCluster (s : State) (k : Nat) (f : Cluster → Cluster) : State := s.setCluster k (f (s.clusterAt k))
def State.fieldAt (s : State) (k : Nat) : Field := s.fields.get {} k
def State.setField (s : State) (k : Nat) (c : Field) : State := { s with fields := s.fields.set k c }
def State.onField (s : State) (k : Nat) (f : Field → Field) : State := s.setField k (f (s.fieldAt k))
def State.gateAt (s : State) (k : Nat) : Gate := s.gates.get {} k
def State.setGate (s : State) (k : Nat) (c : Gate) : State := { s with gates := s.gates.set k c }
def State.onGate (s : State) (k : Nat) (f : Gate → Gate) : State := s.setGate k (f (s.gateAt k))

/-- The duty pattern in force: held at its safe value while the field is tripped or lacks sensors (R457, R458). -/
def Field.dutyNow (f : Field) : Word := if f.trip || f.sflt != 0 then 0x0101010101010101 else f.duty

/-- The cluster of a cell and the field of a cell or cluster (R15). -/
def clusterOf (cell : Nat) : Nat := cell / 16
def fieldOf (cell : Nat) : Nat := cell / 192
def fieldOfCluster (cl : Nat) : Nat := cl / 12

/-- Bits [lo + n - 1 : lo] of a vector as a number. -/
def fld {k : Nat} (x : BitVec k) (lo n : Nat) : Nat := x.toNat / 2 ^ lo % 2 ^ n

/-- Replace bits [lo + n - 1 : lo] of a 64-bit word. -/
def putFld (x : Word) (lo n v : Nat) : Word :=
  BitVec.ofNat 64 (x.toNat - fld x lo n * 2 ^ lo + v % 2 ^ n * 2 ^ lo)

/-- A signed field of n bits. -/
def sfld {k : Nat} (x : BitVec k) (lo n : Nat) : Int := sextN (fld x lo n) n

/-- Number of set bits of a mask, and the place of its i-th set bit in ascending order. -/
def countBits : Nat → Nat → Nat := popCount
def nthBit : Nat → Nat → Nat → Nat → Option Nat
  | 0, _, _, _ => none
  | w + 1, x, i, n =>
      if x % 2 = 1 then (if i = 0 then some n else nthBit w (x / 2) (i - 1) (n + 1)) else nthBit w (x / 2) i (n + 1)

/-- A fresh identity number. -/
def State.takeId (s : State) : Nat × State := (s.fresh, { s with fresh := s.fresh + 1 })
/-- A value the spec leaves open (log 3). -/
def State.takeFree (s : State) : Word × State := (Config.freeWord s.freeCtr, { s with freeCtr := s.freeCtr + 1 })

/-! ### Sizes (R45, R46, R79, R91, R92) -/

def State.tcmBytes (s : State) (cell : Nat) : Nat := 16384 * countBits 16 (s.cellAt cell).tcmLive.toNat
def State.cspBytes (s : State) (cl : Nat) : Nat := 65536 * countBits 32 (s.clusterAt cl).cspLive.toNat
def Field.slice (f : Field) (i : Nat) : Slice := f.slices.get {} i
/-- The interleaved slices of a field in ascending order. -/
def Field.inter (f : Field) : List Nat :=
  (List.range 80).filter fun i => (f.slice i).mode == 0 && (f.slice i).live != 0
/-- FSSZ.MINBANK.  DESIGN CHOICE (log 77): 20 where no slice is interleaved, of which R79 takes no smallest. -/
def Field.minBank (f : Field) : Nat :=
  f.inter.foldl (fun n i => min n (countBits 20 (f.slice i).live.toNat)) 20
def Field.fsBytes (f : Field) : Nat := f.inter.length * f.minBank * 131072
/-- Live vault banks in interleave order. -/
def Cell.vbanks (c : Cell) : List Nat := [0, 2, 4, 6, 1, 3, 5, 7].filter fun b => c.vltLive.getLsbD b
/-- Program rows of a bank. -/
def Cell.progRows (c : Cell) : Nat := 5184 - (512 + c.vbanks.length - 1) / c.vbanks.length
def Cell.vltBytes (c : Cell) : Nat := if c.vbanks = [] then 0 else c.vbanks.length * c.progRows * 2048

/-! ### Placement: the key of a byte -/

/-- One key space: region, unit, offset. -/
def keyOf (region unit off : Nat) : Nat := region * 2 ^ 96 + unit * 2 ^ 64 + off

/-- The physical row that a row of a bank reaches (R104).  DESIGN CHOICE (log 49): of two valid entries of a bank with one ROW, which
the spec does not order, the first serves the row. -/
def Vault.physRow (v : Vault) (bank row : Nat) : Nat :=
  match (v.vrmap.filter fun e => e.1 / 128 == bank && e.2.getLsbD 15 && fld e.2 0 13 == row) with
  | (k, _) :: _ => 5184 + k % 128
  | [] => row

/-- The key of a byte of a bank's row. -/
def State.rowKey (s : State) (cell bank row byte : Nat) : Nat :=
  keyOf 4 cell ((bank * 5312 + (s.cellAt cell).vault.physRow bank row) * 2048 + byte)

/-- Bank, column, row and byte of a vault offset (R91). -/
def Cell.vplace (c : Cell) (o : Nat) : Option (Nat × Nat × Nat × Nat) :=
  let l := c.vbanks.length
  (c.vbanks[(o / 128) % l]?).map fun b => (b, o / 128 / l % 16, o / 128 / (16 * l), o % 128)

/-- The key of a carve-out byte (R80). -/
def State.carveKey (s : State) (f sl b : Nat) : Option Nat :=
  (nthBit 20 ((s.fieldAt f).slice sl).live.toNat (b / 131072) 0).map fun bank =>
    keyOf 3 (f * 80 + sl) (bank * 131072 + b % 131072)

/-- A translation covers a page of 4 KiB, and the host page that it gives (R37, R465). -/
def Atc.covers (e : Atc) (pasid pg : Nat) : Bool := e.pasid == pasid && pg / 512 ^ e.order == e.page
def State.atsPage (s : State) (pasid pg : Nat) : Option Nat :=
  (s.atc.find? fun e => e.covers pasid pg).map fun e => e.host * 512 ^ e.order + pg % 512 ^ e.order

/-- The key of a byte at a logical offset of a region; none where no memory is.  Host memory is reached through the
translation of its PASID (R37). -/
def State.key (s : State) (r : Region) (o : Nat) : Option Nat :=
  match r with
  | .tcm cell => (nthBit 16 (s.cellAt cell).tcmLive.toNat (o / 16384) 0).map fun b => keyOf 1 cell (b * 16384 + o % 16384)
  | .csp cl =>
      let m := (s.clusterAt cl).cspLive.toNat
      let l := countBits 32 m
      (nthBit 32 m (o / 8 % l) 0).map fun b => keyOf 2 cl (b * 65536 + 8 * (o / 8 / l) + o % 8)
  | .fsram f =>
      let fl := s.fieldAt f
      let g := o / 256
      (fl.inter[g % fl.inter.length]?).bind fun sl => s.carveKey f sl (256 * (g / fl.inter.length) + o % 256)
  | .carve f sl => s.carveKey f sl o
  | .vault cell => ((s.cellAt cell).vplace o).map fun (b, col, row, byte) => s.rowKey cell b row (col * 128 + byte)
  | .opm cell => if o < 262144 then some (keyOf 5 cell o) else none
  | .acm cell => if o < 122880 then some (keyOf 6 cell o) else none
  | .host pasid => (s.atsPage pasid (o / 4096)).map fun h => keyOf 7 0 (h * 4096 + o % 4096)
  | .far _ => none

/-- The key of a byte's poison unit: 8 bytes, or one lane of accumulator memory (R336). -/
def poiKey (r : Region) (k : Nat) : Nat :=
  match r with
  | .acm _ => keyOf 9 (k / 2 ^ 64 % 2 ^ 32) (k % 2 ^ 64 / 5)
  | _ => k / 8

def Region.unitBytes : Region → Nat
  | .acm _ => 5
  | _ => 8

/-- Bytes a region holds. -/
def State.sizeOf (s : State) : Region → Nat
  | .tcm c => s.tcmBytes c
  | .csp c => s.cspBytes c
  | .fsram f => (s.fieldAt f).fsBytes
  | .carve f sl => 131072 * countBits 20 ((s.fieldAt f).slice sl).live.toNat
  | .vault c => (s.cellAt c).vltBytes
  | .opm _ => 262144
  | .acm _ => 122880
  | .host _ => 2 ^ 57
  | .far _ => 2 ^ 27

/-! ### Reads and writes -/

/-- One byte at a place, with its unit's poison. -/
def State.byteAt (s : State) (r : Region) (o : Nat) : Byte × Bool :=
  match s.key r o with
  | some k => (s.mem.read k, s.mem.isPoison (poiKey r k))
  | none => (0, false)

/-- Some bytes at a place. -/
def State.bytesAt (s : State) (p : Place) (n : Nat) : List (Byte × Bool) :=
  (List.range n).map fun i => s.byteAt p.r (p.off + i)

/-- The writes of some bytes at a place: the bytes, and each touched unit's poison bit, set to that of the data when
the whole unit is covered and ORed into it otherwise (R296). -/
def State.writeOps (s : State) (p : Place) (data : List (Byte × Bool)) : List MemOp :=
  let ks := (List.range data.length).filterMap fun i =>
    match s.key p.r (p.off + i), data[i]? with
    | some k, some d => some (k, d)
    | _, _ => none
  let units := (ks.map fun e => poiKey p.r e.1).eraseDups
  (ks.map fun e => MemOp.byte e.1 e.2.1) ++
  units.map fun u =>
    let mine := ks.filter fun e => poiKey p.r e.1 == u
    let poi := mine.any fun e => e.2.2
    MemOp.poison u (poi || (mine.length < p.r.unitBytes && s.mem.isPoison u))

/-- A region with full/empty bits (R63). -/
def Region.hasFull : Region → Bool
  | .tcm _ => true
  | .csp _ => true
  | _ => false

/-- The 8-byte words that some bytes touch. -/
def State.wordsOf (s : State) (p : Place) (n : Nat) : List Nat :=
  ((List.range n).filterMap fun i => (s.key p.r (p.off + i)).map (· / 8)).eraseDups

/-- Set the full/empty bits of the words some bytes touch (R64). -/
def State.fullOps (s : State) (p : Place) (n : Nat) (b : Bool) : List MemOp :=
  if p.r.hasFull then (s.wordsOf p n).map fun k => MemOp.full k b else []

def State.allFull (s : State) (p : Place) (n : Nat) : Bool := (s.wordsOf p n).all fun k => s.mem.isFull k

/-- Bytes, little-endian, of a number, all with one poison bit; and the number of some bytes (R2). -/
def bytesOf (n v : Nat) (poi : Bool := false) : List (Byte × Bool) :=
  (List.range n).map fun i => (BitVec.ofNat 8 (v / 256 ^ i), poi)
def numOf : List (Byte × Bool) → Nat
  | [] => 0
  | (b, _) :: t => b.toNat + 256 * numOf t
def anyPoi (d : List (Byte × Bool)) : Bool := d.any fun e => e.2

/-- A token of loaded bytes: zero- or sign-extended to 64 bits (R296). -/
def tokOfBytes (sgn : Bool) (d : List (Byte × Bool)) : Tok :=
  let v := numOf d
  { v := if sgn then BitVec.ofInt 64 (sextN v (8 * d.length)) else BitVec.ofNat 64 v, poi := anyPoi d }

/-- A number written at a place (by the device itself). -/
def M.putNum (m : M) (p : Place) (n v : Nat) : M := m.write (m.s.writeOps p (bytesOf n v))
def State.numAt (s : State) (p : Place) (n : Nat) : Nat := numOf (s.bytesAt p n)

/-! ### Causes (Table 18-1) -/

def cIllegal : Cause := 0x01
def cFormat : Cause := 0x02
def cPrivilege : Cause := 0x03
def cSchedule : Cause := 0x04
def cAlign : Cause := 0x05
def cSpace : Cause := 0x06
def cTrans : Cause := 0x07
def cRingWin : Cause := 0x08
def cPoison : Cause := 0x09
def cProgress : Cause := 0x0A
def cUserTrap : Cause := 0x0B
def cBreak : Cause := 0x0C
def cAborted : Cause := 0x0D
def cMisroute : Cause := 0x0E
def cVFormat : Cause := 0x10
def cVTiming : Cause := 0x11
def cVDep : Cause := 0x12
def cOverrun : Cause := 0x13
def cDebt : Cause := 0x14
def cThermal : Cause := 0x15
def cHwFatal : Cause := 0x1F

/-! ### Rings (R66 to R72) -/

/-- The ring that RING [4:0] names for a cell. -/
def ringRef (cell n : Nat) : RingRef := if n < 16 then .cluster (clusterOf cell) n else .tcm cell (n - 16)

def State.ringAt (s : State) : RingRef → Ring
  | .cluster k n => (s.clusterAt k).rd.get {} n
  | .tcm c n => (s.cellAt c).td.get {} n

def State.setRing (s : State) (r : RingRef) (v : Ring) : State :=
  match r with
  | .cluster k n => s.onCluster k fun c => { c with rd := c.rd.set n v }
  | .tcm k n => s.onCell k fun c => { c with td := c.td.set n v }

def Ring.valid (r : Ring) : Bool := r.cfg.getLsbD 63
def Ring.slotSize (r : Ring) : Nat := 2 ^ (fld r.cfg 57 4 + 6)
def Ring.slots (r : Ring) : Nat := fld r.cfg 53 4 + 1
def Ring.fec (r : Ring) : Bool := r.cfg.getLsbD 36
def Ring.base (r : Ring) : Nat := fld r.cfg 0 21
def Ring.phi (r : Ring) : Int := sfld r.cfg 45 4
/-- The union of the three masks. -/
def Ring.mask (r : Ring) : BitVec 48 := r.part
/-- The role's window (R69). -/
def Ring.window (r : Ring) (consumer : Bool) : Int × Int :=
  if consumer then (sfld r.cfg 41 4, sfld r.cfg 37 4) else (sfld r.cfg 49 4, sfld r.cfg 45 4)
def Ring.inWindow (r : Ring) (consumer : Bool) (k : Int) : Bool :=
  (r.window consumer).1 ≤ k && k ≤ (r.window consumer).2
/-- The slot of a relative index (R69). -/
def Ring.slotOf (r : Ring) (k : Int) : Nat := (((r.sp.toNat : Int) + k) % (r.slots : Int)).toNat

def ringRegion : RingRef → Region
  | .cluster k _ => .csp k
  | .tcm c _ => .tcm c

/-- Where a ring access lands now (R69). -/
def State.ringPlace (s : State) (r : RingRef) (k : Int) (off : Nat) : Place :=
  let d := s.ringAt r
  { r := ringRegion r, off := d.base + d.slotOf k * d.slotSize + off }

/-- The bit that stands for an agent in ARR (R67, Table 3-4): blocks [15:0], sequencers [31:16], TXEs [47:32]. -/
def ringBitCtx (r : RingRef) (cell x : Nat) : Nat :=
  match r with
  | .cluster _ _ => cell % 16
  | .tcm _ _ => x
def ringBitSeq (r : RingRef) (cell : Nat) : Nat :=
  match r with
  | .cluster _ _ => 16 + cell % 16
  | .tcm _ _ => 16
def ringBitTxe (r : RingRef) (cell : Nat) : Nat :=
  match r with
  | .cluster _ _ => 32 + cell % 16
  | .tcm _ _ => 32

/-- Whether an agent's accesses are held: its bit in ARR is set (R72), or the ring has rotated in this core cycle, whose
accesses use the old SP (R71). -/
def State.ringHeld (s : State) (r : RingRef) (bit : Nat) : Bool := (s.ringAt r).arr.getLsbD bit || (s.ringAt r).turned

/-- Record an arrival (R70); none when it cannot be recorded. -/
def Ring.arrive (r : Ring) (bit : Nat) : Option Ring :=
  if !r.mask.getLsbD bit then some r
  else if !r.arr.getLsbD bit then some { r with arr := r.arr ||| (1#48 <<< bit) }
  else if !r.pend.getLsbD bit then some { r with pend := r.pend ||| (1#48 <<< bit) }
  else none

/-! ### Address routes -/

/-- Dimension and direction (1: minus) of the next step from coordinates c to e on a torus of some sizes, dimensions
ascending (R487). -/
def torusStep : Nat → List Nat → List Nat → List Nat → Option (Nat × Nat)
  | d, n :: ns, c :: cs, e :: es =>
      if c = e then torusStep (d + 1) ns cs es
      else some (d, if 2 * (((e : Int) - c) % n) ≤ n then 0 else 1)
  | _, _, _, _ => none

/-- A wafer's coordinates in the torus list (R408). -/
def State.coords (s : State) (w : Nat) : Option (List Nat) := (s.torus.find? fun e => e.1 == w).map fun e => e.2
/-- The lowest link in service in a dimension and direction (R407, R487). -/
def State.linkIn (s : State) (dim dir : Nat) : Option Nat :=
  (List.range 8).find? fun g =>
    let v := (s.gateAt g).slkcfg
    v.getLsbD 63 && fld v 61 2 == dim && fld v 60 1 == dir
/-- The link by which traffic for a wafer leaves this one (R487); none when no route is bound. -/
def State.linkTo (s : State) (w : Nat) : Option Nat :=
  match s.coords s.waferId.toNat, s.coords w with
  | some c, some e => (torusStep 0 s.dims c e).bind fun d => s.linkIn d.1 d.2
  | _, _ => none

/-- The tag address by which an access leaves its cell, whole or its last part. -/
def Route.tagged : Route → Option Word
  | .tag a => some a
  | .split _ _ a => some a
  | _ => none

/-- A SYS address of this wafer as the GLB address it stands for (R32). -/
def glbForm (a : Word) : Word := BitVec.ofNat 64 (fld a 29 24 * 2 ^ 37 + fld a 27 2 * 2 ^ 35 + fld a 0 27)
/-- The checks a tag address takes at issue (R40, R32): the address as a GLB address when it stays on this wafer. -/
def State.tagRoute (s : State) (addr : Word) : Route :=
  if fld addr 61 3 = 7 ∧ fld addr 53 8 ≠ s.waferId.toNat then
    (if fld addr 29 4 ≠ 0 then .bad cSpace
     else if fld addr 27 2 = 3 then .bad cSpace
     else if (s.linkTo (fld addr 53 8)).isSome then .tag addr
     else .bad cTrans)
  else
    let a : Word := if fld addr 61 3 = 7 then glbForm addr else addr
    if fld a 37 4 ≠ 0 then .bad cSpace
    else if ((s.ftab.get 0 (fld a 54 7)).getLsbD 15) then .tag a
    else .bad cTrans

/-- A ring address (R34, R69). -/
def State.ringRoute (s : State) (cell : Nat) (addr : Word) (len : Nat) : Route :=
  let n := fld addr 21 5
  let r := ringRef cell n
  let d := s.ringAt r
  if fld addr 26 35 ≠ 0 ∨ 20 ≤ n ∨ d.valid = false then .bad cSpace
  else if d.slotSize < fld addr 0 16 + len then .bad cSpace
  else if d.inWindow (addr.getLsbD 16) (sfld addr 17 4) = false then .bad cRingWin
  else .ring r (sfld addr 17 4) (fld addr 0 16)

/-- A spill access (R56): one that straddles carve-out and overflow area has its first bytes here and the rest behind a tag. -/
def State.spillRoute (s : State) (cell x o len : Nat) : Route :=
  let c := s.ctxAt cell x
  let size := fld c.spills 0 18
  if o < size then
    let t := fld c.spillb 0 18 + o
    let n := min len (size - o)
    if s.tcmBytes cell < t + n then .bad cSpace
    else if n = len then .here { r := .tcm cell, off := t }
    else if c.ovfptr = 0 ∨ fld c.ovfsz 0 32 = 0 then .bad cSpace
    else match s.tagRoute c.ovfptr with
      | .tag a => .split { r := .tcm cell, off := t } n a
      | r => r
  else if c.ovfptr ≠ 0 ∧ o - size < fld c.ovfsz 0 32 then s.tagRoute (c.ovfptr + BitVec.ofNat 64 (o - size))
  else .bad cSpace

/-- The route of an address named by an agent of a cell (R27 to R34, R391); `x` is the context whose spill window and tree
channels count. -/
def State.route (s : State) (cell x : Nat) (addr : Word) (len : Nat) : Route :=
  match fld addr 61 3 with
  | 0 => s.tagRoute addr
  | 1 =>
      let o := fld addr 0 32
      if fld addr 32 29 ≠ 0 then .bad cSpace
      else if o + len ≤ s.tcmBytes cell then .here { r := .tcm cell, off := o }
      else if 0x40000000 ≤ o ∧ o < 0x40010000 then
        let m := o - 0x40000000
        let ch := (s.cellAt cell).treech.get 0 (m % 0x100 / 8)
        if m < 0x200 ∧ m % 8 = 0 ∧ len = 8 ∧ ¬(ch.getLsbD 63 ∧ fld ch 61 2 = x) then .bad cSpace else .mmio m
      else if 0x80000000 ≤ o ∧ o < 0x81000000 then s.spillRoute cell x (o - 0x80000000) len
      else .bad cSpace
  | 2 =>
      if fld addr 35 26 ≠ 0 ∨ s.cspBytes (clusterOf cell) < fld addr 0 35 + len then .bad cSpace
      else .here { r := .csp (clusterOf cell), off := fld addr 0 35 }
  | 3 => s.ringRoute cell addr len
  | 4 =>
      if fld addr 18 43 ≠ 0 ∨ 24 ≤ fld addr 13 5 ∨ 5120 < fld addr 0 13 + len then .bad cSpace
      else .engine { r := .acm cell, off := fld addr 13 5 * 5120 + fld addr 0 13 }
  | 5 =>
      if fld addr 18 43 ≠ 0 ∨ 8192 < fld addr 0 13 + len then .bad cSpace
      else .engine { r := .opm cell, off := fld addr 13 5 * 8192 + fld addr 0 13 }
  | 6 => if fld addr 57 4 ≠ 0 then .bad cSpace else .hst (fld addr 0 57)
  | _ => s.tagRoute addr

/-- A block's route: ACM, OPM and HST are closed to it (R28). -/
def State.blockRoute (s : State) (cell x : Nat) (addr : Word) (len : Nat) : Route :=
  match s.route cell x addr len with
  | .engine _ => .bad cSpace
  | .hst _ => .bad cSpace
  | r => r

/-- Bytes that cross a 64-byte boundary (R30). -/
def crosses (addr : Word) (len : Nat) : Bool := addr.toNat % 64 + len > 64

/-- A cell whose state has been scanned out and not yet restored: nothing reaches it (R423, R428). -/
def State.asleep (s : State) (cell : Nat) : Bool := s.snaps.any fun p => p.cell == cell
/-- The cell that an answer goes to. -/
def Back.cell : Back → Option Nat
  | .inst c _ _ _ => some c
  | .slot c _ _ _ => some c
  | .store c _ _ => some c
  | .vxe c _ => some c
  | .mxe c _ => some c
  | .txRead c _ => some c
  | .txWrite c _ => some c
  | .code c _ _ => some c
  | _ => Option.none
/-- A load of a context or an engine, which may be made again (R182, R335). -/
def Acc.isLoad (a : Acc) : Bool :=
  match a.op, a.back with
  | .read, .vxe .. => true
  | .read, .txRead .. => true
  | _, .inst .. => true
  | _, .code .. => true
  | _, _ => false

/-- The cell that a tag leads to (R40), and for a message the adoption redirect (R215): cell, and whether adopted. -/
def State.tagCell (s : State) (tag : Nat) : Except Cause (Nat × Option Nat) :=
  let f := s.ftab.get 0 (tag / 2 ^ 17 % 128)
  if f.getLsbD 15 = false then .error cTrans
  else
    let fi := fld f 0 7
    let c := (s.fieldAt fi).ctab.get 0 (tag / 2 ^ 13 % 16)
    if c.getLsbD 15 = false then .error cTrans
    else
      let cl := fi * 12 + fld c 0 4
      let l := s.ltab.get 0 (cl * 16 + tag / 2 ^ 9 % 16)
      if l.getLsbD 15 = false then .error cTrans
      else if l.getLsbD 14 = false then .ok (cl * 16 + fld l 0 4, none)
      else .ok (cl * 16 + fld l 0 4, some ((cl * 2 + fld l 13 1) * 32 + tag / 2 ^ 4 % 32))

/-- The home of a GLB address on this wafer (R40); limits are checked by `homePlace`. -/
def State.locate (s : State) (addr : Word) : Except Cause Place :=
  let t := fld addr 37 24
  let off := fld addr 0 35
  let f := s.ftab.get 0 (t / 2 ^ 17 % 128)
  if f.getLsbD 15 = false then .error cTrans
  else
    let fi := fld f 0 7
    let c := (s.fieldAt fi).ctab.get 0 (t / 2 ^ 13 % 16)
    if c.getLsbD 15 = false then .error cTrans
    else
      match fld addr 35 2 with
      | 3 =>
          if 0x400000000 ≤ off then
            .ok { r := .carve fi ((off - 0x400000000) / 0x400000), off := off % 0x400000 }
          else .ok { r := .fsram fi, off := off }
      | 2 => .ok { r := .csp (fi * 12 + fld c 0 4), off := off }
      | 1 => (s.tagCell t).map fun e => { r := .vault e.1, off := off }
      | _ =>
          match s.tagCell t with
          | .error e => .error e
          | .ok (cell, none) => .ok { r := .tcm cell, off := off }
          | .ok (_, some k) =>
              let m := s.atab.get 0 k
              if m.getLsbD 23 then .ok { r := .tcm (fi * 192 + fld m 13 8), off := fld m 7 6 * 4096 + off }
              else .error cTrans

/-- Whether a slice may be reached as a carve-out (R80). -/
def State.carveOk (s : State) (f sl : Nat) (sup : Bool) : Bool :=
  sup && sl ≤ 79 && (((s.fieldAt f).slice sl).mode.toNat ≥ 2)

/-- The home of a tag address with the checks made there (R31, R80). -/
def State.homePlace (s : State) (sup : Bool) (addr : Word) (len : Nat) : Except Cause Place :=
  if fld addr 61 3 = 7 then .ok { r := .far (fld addr 53 8), off := fld addr 0 53 }
  else
    match s.locate addr with
    | .error e => .error e
    | .ok p =>
        let ok := match p.r with
          | .carve f sl => s.carveOk f sl sup
          | _ => true
        if ok && decide (p.off + len ≤ s.sizeOf p.r) then .ok p else .error cSpace

/-- The code region of a cell, as offsets (R59). -/
def Cell.inCode (c : Cell) (off len : Nat) : Bool :=
  c.codeBase.toNat < c.codeLim.toNat && off < c.codeLim.toNat * 4096 && c.codeBase.toNat * 4096 < off + len
def Cell.whollyCode (c : Cell) (off len : Nat) : Bool :=
  c.codeBase.toNat * 4096 ≤ off && off + len ≤ c.codeLim.toNat * 4096

/-- A write at a place that the code region forbids in user mode (R60). -/
def State.codeWrite (s : State) (p : Place) (len : Nat) (sup : Bool) : Bool :=
  match p.r with
  | .tcm c => !sup && (s.cellAt c).inCode p.off len
  | _ => false

/-- The cache-binding entry of a vault offset (R83, R85): its slice; one without a live bank takes no part (R78). -/
def State.boundSlice (s : State) (cell off : Nat) : Option (Nat × Nat) :=
  let f := fieldOf cell
  match (List.range 8).filter fun i =>
      let e := (s.fieldAt f).fcb.get 0 i
      e.getLsbD 63 && fld e 48 8 == cell % 192 && fld e 16 11 * 65536 ≤ off &&
        decide (off < (fld e 16 11 + fld e 32 11) * 65536) && ((s.fieldAt f).slice (fld e 56 7)).live != 0 with
  | i :: _ => some (i, fld ((s.fieldAt f).fcb.get 0 i) 56 7)
  | [] => none

/-- The home of Table 2-7 that a place lies in, as two numbers: the unit between which R163 keeps order. -/
def State.homeOf (s : State) (p : Place) : Nat × Nat :=
  match p.r with
  | .tcm c => (1, c)
  | .csp c => (2, c)
  | .fsram f =>
      let fl := s.fieldAt f
      (3, f * 80 + (fl.inter[p.off / 256 % fl.inter.length]?).getD 80)
  | .carve f sl => (3, f * 80 + sl)
  | .vault c =>
      match s.boundSlice c p.off with
      | some (_, sl) => (3, fieldOf c * 80 + sl)
      | none => (4, c)
  | .opm c => (5, c)
  | .acm c => (6, c)
  | .host _ => (7, 0)
  | .far w => (8, w)

/-- The distance of a home from a cell (Table 8-2). -/
def State.distance (s : State) (cell : Nat) (p : Place) : Scope :=
  let ofCell (c : Nat) : Scope :=
    if c = cell then .cel else if clusterOf c = clusterOf cell then .clu
    else if fieldOf c = fieldOf cell then .fld else .waf
  match p.r with
  | .tcm c => ofCell c
  | .csp cl => if cl = clusterOf cell then .clu else if fieldOfCluster cl = fieldOf cell then .fld else .waf
  | .fsram f => if f = fieldOf cell then .fld else .waf
  | .carve f _ => if f = fieldOf cell then .fld else .waf
  | .vault c =>
      match s.boundSlice c p.off with
      | some _ => if fieldOf c = fieldOf cell then .fld else .waf
      | none => ofCell c
  | .opm c => ofCell c
  | .acm c => ofCell c
  | .host _ => .sys
  | .far _ => .sys

def Scope.rank : Scope → Nat
  | .none => 0
  | .cel => 1
  | .clu => 2
  | .fld => 3
  | .waf => 4
  | .sys => 5
/-- A scope covers a distance (R159). -/
def covers (sc d : Scope) : Bool := Scope.rank d ≤ Scope.rank sc

/-! ### Writing the translation tables (R39, R387, R436, R437) -/

/-- The key under which the generation of a table entry's last write is kept. -/
def bindKey : RegRef → Nat
  | .ftab i => i
  | .ctab f i => 2 ^ 8 + f * 16 + i
  | .ltab k i => 2 ^ 16 + k * 16 + i
  | .atab k am i => 2 ^ 20 + (k * 2 + am) * 32 + i
  | _ => 2 ^ 30

/-- Write a table entry into every router copy; it counts as written in the generation that follows (R436). -/
def State.setBind (s : State) (r : RegRef) (v : Word) : State :=
  let s := { s with wroteGen := s.wroteGen.set (bindKey r) (s.gen + 1) }
  match r with
  | .ftab i => { s with ftab := s.ftab.set i (v.setWidth 16 &&& 0x807F) }
  | .ctab f i => s.onField f fun k => { k with ctab := k.ctab.set i (v.setWidth 16 &&& 0x800F) }
  | .ltab k i => { s with ltab := s.ltab.set (k * 16 + i) (v.setWidth 16 &&& 0xE00F) }
  | .atab k am i => { s with atab := s.atab.set ((k * 2 + am) * 32 + i) (v.setWidth 24 &&& 0xFFFF80) }
  | _ => s

/-! ### Done tokens (R168, R170) -/

def State.tokAt (s : State) (n : Nat) : TokSt := s.tokens.get .emitted n
def State.setTok (s : State) (n : Nat) (t : TokSt) : State := { s with tokens := s.tokens.set n t }
/-- A new token, waiting. -/
def State.newTok (s : State) : Nat × State :=
  (s.fresh, { s with fresh := s.fresh + 1, tokens := s.tokens.set s.fresh .waiting })
/-- Emit a token that waits. -/
def State.emit (s : State) (n : Nat) : State := if s.tokAt n = .waiting then s.setTok n .emitted else s
def State.emitErr (s : State) (n : Nat) (c : Cause) (a : Word) : State :=
  if s.tokAt n = .waiting then s.setTok n (.error c a) else s
/-- Emit an operation's own token. -/
def State.emitOf (s : State) (t : Option (Nat × Scope)) : State :=
  match t with
  | some (n, _) => s.emit n
  | none => s
def State.emitErrOf (s : State) (t : Option (Nat × Scope)) (c : Cause) (a : Word) : State :=
  match t with
  | some (n, _) => s.emitErr n c a
  | none => s
/-- Emit it when the operation leaves its cell, if its scope does not cover the home (R160). -/
def State.emitLeft (s : State) (cell : Nat) (t : Option (Nat × Scope)) (p : Place) : State :=
  match t with
  | some (n, sc) => if covers sc (s.distance cell p) then s else s.emit n
  | none => s
/-- What a waiting operation finds at its order port. -/
def State.waitOf (s : State) (w : Option Nat) : TokSt :=
  match w with
  | some n => s.tokAt n
  | none => .emitted

/-! ### Store errors (R41, Table 2-6) -/

/-- Count a dropped store-type or commit-time operation. -/
def Ctx.drop (c : Ctx) (id : Nat) (cause : Cause) (addr : Word) (d : Scope) : Ctx :=
  let n := min (fld c.sterr 32 16 + 1) 0xFFFF
  let first := fld c.sterr 32 16 == 0
  { c with
    sterr := putFld (if first then putFld c.sterr 56 8 cause.toNat else c.sterr) 32 16 n
    sterra := if first then addr else c.sterra
    drops := c.drops ++ [(id, cause, addr, d)] }

/-! ### Results that land in slots (R154) -/

/-- A slot pends while a result for it is under way. -/
def Ctx.pending (c : Ctx) (s : BitVec 6) : Bool := c.lands.any fun l => l.slot == s
/-- SLOTPEND. -/
def Ctx.slotpend (c : Ctx) : Word :=
  c.lands.foldl (fun w l => w ||| (1#64 <<< l.slot.toNat)) 0
/-- Make a command's slots pend. -/
def Ctx.pend (c : Ctx) (k : Cmd) : Ctx :=
  { c with lands := c.lands ++ k.slots.map fun e => { id := k.id, slot := e.1, life := e.2, pp := k.pp } }
/-- A command has left its queue: its results land within some core cycles (R156). -/
def Ctx.dueBy (c : Ctx) (id cycle : Nat) : Ctx :=
  { c with lands := c.lands.map fun l => if l.id = id then { l with due := some cycle } else l }
/-- A result that the sequencer gives lands by a vault clock (R380, R381). -/
def Ctx.dueByClock (c : Ctx) (id clock : Nat) : Ctx :=
  { c with lands := c.lands.map fun l => if l.id = id then { l with vdue := some clock } else l }
/-- A result has come: it lands at RESULT_LANDING. -/
def Ctx.result (c : Ctx) (id : Nat) (t : Tok) : Ctx :=
  { c with lands := c.lands.map fun l => if l.id = id ∧ l.val = none then { l with val := some { t with poi := t.poi || l.pp } } else l }

/-- Write a slot under a commit index (R192). -/
def Ctx.slotWrite (c : Ctx) (s : BitVec 6) (life : BitVec 3) (t : Tok) (w : Word) : Ctx :=
  { c with slots := c.slots.set s.toNat { v := t.v, poi := t.poi, hnd := t.hnd, life := life, wrote := some w } }
def Ctx.slotAt (c : Ctx) (s : BitVec 6) : Slot := c.slots.get {} s.toNat
def Ctx.slotExpire (c : Ctx) (s : BitVec 6) : Ctx :=
  { c with slots := c.slots.set s.toNat { c.slotAt s with wrote := none } }

/-- The lives of Table 9-2. -/
def lifeOf (code : BitVec 3) : Nat :=
  match code.toNat with
  | 1 => 1
  | 2 => 2
  | 3 => 3
  | 4 => 4
  | 5 => 8
  | 6 => 16
  | 7 => 64
  | _ => 0

/-- Whether a read by the block of commit index j is legal (R193). -/
def Slot.legal (s : Slot) (j : Word) : Bool :=
  match s.wrote with
  | none => false
  | some w => if s.life = 0 then !s.freed else (j - w).toNat ≥ 1 && (j - w).toNat ≤ lifeOf s.life

/-! ### Reports (R130, R415) -/

/-- A context enters a block, or its next block is no longer known: no yielding context of its cell waits for it any more (R253). -/
def State.unyield (s : State) (cell x : Nat) : State :=
  (List.range 4).foldl (fun s y =>
    if (s.ctxAt cell y).yieldTo.contains x then s.onCtx cell y fun c => { c with yieldTo := c.yieldTo.filter fun z => z != x } else s) s

/-- An engine or the sequencer reports a stop to its context. -/
def State.report (s : State) (cell x : Nat) (r : Report) : State :=
  (s.unyield cell x).onCtx cell x fun c => { c with reports := c.reports ++ [r] }

/-! ### Engines' queues (R137) -/

/-- Commands and reservations an engine's queue holds. -/
def Cell.engUsed (c : Cell) : Engine → Nat
  | .txe => c.txq.length + c.txRes
  | .vxe => c.vxq.length + c.vxRes
  | .mxe => c.mxq.length + c.mxRes

/-- Change the reservations of an engine. -/
def Cell.addRes (c : Cell) (e : Engine) (d : Int) : Cell :=
  match e with
  | .txe => { c with txRes := ((c.txRes : Int) + d).toNat }
  | .vxe => { c with vxRes := ((c.vxRes : Int) + d).toNat }
  | .mxe => { c with mxRes := ((c.mxRes : Int) + d).toNat }

def Cell.pushEng (c : Cell) (e : Engine) (k : Cmd) : Cell :=
  match e with
  | .txe => { c with txq := c.txq ++ [k] }
  | .vxe => { c with vxq := c.vxq ++ [k] }
  | .mxe => { c with mxq := c.mxq ++ [k] }

/-! ### Stopping a context and releasing it -/

/-- The instructions of a block, in index order; a word that is none is left out. -/
def Block.instrs (b : Block) : List Instr := b.insts.filterMap fun n => (decodeRaw n.word).toOption

/-- Commands to an engine among some instructions (R137, R138). -/
def engineCount (e : Engine) (is : List Instr) : Nat :=
  (is.filter fun i => match infoOf i with
    | some f => f.eng == some e
    | none => false).length

/-- The engine-queue entries a block in flight has reserved (R137): none when it entered with a fault. -/
def Block.reserved (b : Block) (e : Engine) : Nat :=
  if b.entryFault.isSome then 0 else engineCount e b.instrs

/-- Release what a block has reserved. -/
def Cell.release (k : Cell) (b : Block) : Cell :=
  ((k.addRes .txe (-(b.reserved .txe : Int))).addRes .vxe (-(b.reserved .vxe : Int))).addRes .mxe
    (-(b.reserved .mxe : Int))

/-- An access of an instruction of one of some blocks of a context. -/
def Acc.ofBlocks (a : Acc) (cell x : Nat) (ids : List Nat) : Bool :=
  match a.back with
  | .inst c y b _ => c == cell && y == x && ids.contains b
  | _ => false
def Resp.ofBlocks (r : Resp) (cell x : Nat) (ids : List Nat) : Bool :=
  match r.back with
  | .inst c y b _ => c == cell && y == x && ids.contains b
  | _ => false

/-- The cluster barrier on which a block has arrived and still waits (R306). -/
def Block.barrier (b : Block) : Option Nat :=
  (b.acqs.find? fun e => match e.2.1.i with
    | .cbar .. => e.2.2
    | _ => false).map fun e => match e.2.1.i with
    | .cbar _ _ n => n.toNat
    | _ => 0

/-- Clear a context's arrival at a cluster barrier. -/
def State.leaveBarrier (s : State) (cell x n : Nat) : State :=
  s.onCluster (clusterOf cell) fun k =>
    let b := k.cb.get {} n
    { k with cb := k.cb.set n { b with arr := b.arr &&& ~~~(1#64 <<< (4 * (cell % 16) + x)) } }

/-- Withdraw accesses from their homes and from the way there. -/
def State.withdrawn (s : State) (gone : Acc → Bool) : State :=
  let keep (l : List Acc) : List Acc := l.filter fun a => !gone a
  { s with net := keep s.net, held := keep s.held, waits := keep s.waits, linkOut := keep s.linkOut,
           cells := s.cells.map (fun e => (e.1, { e.2 with vault := { e.2.vault with queue := keep e.2.vault.queue } })),
           fields := s.fields.map fun f => (f.1, { f.2 with slices := f.2.slices.map fun e => (e.1, { e.2 with waiting := keep e.2.waiting }) }) }

/-- Discard every block of a context in flight (R184, R493): reservations are released, and the waits of the blocks
are withdrawn from their homes. -/
def State.discard (s : State) (cell x : Nat) : State :=
  let c := s.ctxAt cell x
  let ids := c.flight.map fun b => b.id
  let s := c.flight.foldl (fun s b => match b.barrier with
    | some n => s.leaveBarrier cell x n
    | none => s) s
  let s := s.onCell cell fun k =>
    let k := c.flight.foldl (fun k b => k.release b) k
    { k with semWait := k.semWait.filter fun w => !(w.x == x && ids.contains w.blk), passed := k.passed.filter fun o => o.1 != x }
  let s := s.withdrawn fun a => a.ofBlocks cell x ids
  { s.setCtx cell x { c with
      flight := []
      next := (match c.flight with
        | b :: _ => .at_ b.addr
        | [] => c.next)
      nextSup := (match c.flight with
        | b :: _ => b.sup
        | [] => c.nextSup) } with
    resps := s.resps.filter fun r => !r.ofBlocks cell x ids }

/-- What a stop records (Table 18-2). -/
structure Trap where
  cause : Cause
  src : BitVec 3 := 0
  detail : BitVec 8 := 0
  tpois : Bool := false
  blk : Word
  idx : BitVec 8 := 0xFF
  tval : Word
  deriving DecidableEq, Repr, Inhabited

/-- TCAUSE of a stop. -/
def Trap.tcause (t : Trap) : Word :=
  (1#1 ++ t.src ++ (if t.tpois then 1#1 else 0#1) ++ 0#43 ++ t.detail ++ t.cause : BitVec 64)

/-- The trap registers of a stop (Table 18-2). -/
def Ctx.trapRegs (c : Ctx) (t : Trap) : Ctx :=
  { c with stopped := true, told := false, tcause := t.tcause, tblk := t.blk, tidx := t.idx.setWidth 64, tval := t.tval }

/-- TAKING AN EXCEPTION (R183, R184, R415): the context's blocks in flight are discarded, and it stops at the block
boundary with the trap registers naming the cause.  Nothing of a discarded block takes effect. -/
def State.takeTrap (s : State) (cell x : Nat) (t : Trap) : State :=
  ((s.discard cell x).unyield cell x).onCtx cell x fun c => c.trapRegs t

/-- The address a stop between blocks records (R415): the block that would enter next, 0 when idle. -/
def Ctx.nextAddr (c : Ctx) : Word :=
  match c.flight with
  | b :: _ => b.addr
  | [] =>
    match c.next with
    | .at_ a => a
    | .wfm a => a
    | _ => 0

/-- Whether a stopped context accepts the field manager's actions: not after HW_FATAL (R420). -/
def Ctx.accepts (c : Ctx) : Bool := c.stopped && (c.tcause.setWidth 8 != cHwFatal)
/-- Also one of a halted cell, once its blocks in flight are through, by which a debugger changes halted state (R434, R435).  DEDUCED (log
95): Table 18-4 is written for a stopped context. -/
def State.accepts (s : State) (cell x : Nat) : Bool :=
  let c := s.ctxAt cell x
  c.accepts || (!c.stopped && (s.cellAt cell).halted != 0 && c.flight.isEmpty)

/-- TCAUSE.V cleared. -/
def Ctx.clearV (c : Ctx) : Ctx := { c with stopped := false, tcause := putFld c.tcause 63 1 0 }

/-- RETURNING FROM AN EXCEPTION: RESUME (R420); a context that is only halted keeps its next block.  The next block is TBLK, entered with the next message when the context
stands in a WFM wait; with TBLK 0 the context is idle. -/
def Ctx.resume (c : Ctx) : Ctx :=
  if !c.stopped then c else
  let c' := c.clearV
  match c.next with
  | .wfm _ => { c' with next := .wfm c.tblk }
  | _ => { c' with next := if c.tblk = 0 then .idle else .at_ c.tblk }
/-- REDIRECT (R420): as RESUME at another address; a WFM wait is cancelled. -/
def Ctx.redirect (c : Ctx) (addr : Word) : Ctx := { c.clearV with next := .at_ addr }
/-- ENDH (R420): the handler ends as though a DONE block had committed. -/
def Ctx.endh (c : Ctx) : Ctx := { c.clearV with next := .idle, cdepth := 0, handler := false, drops := [], yieldTo := [] }
/-- MODE (R420): the mode of the next block. -/
def Ctx.setMode (c : Ctx) (m : Bool) : Ctx := { c with sup := m, nextSup := m }

end Sys2Proof.Machine
end

