-- ==== Sys2Proof/Machine/Operands.lean ====
section
/-! DEFINITION. Machine/Operands.lean: blocks in flight: the ports, producers and targets of their instructions
(R222, R224, R225), when an instruction fires, nulls or faults, and what its firing does to the block (R183, R226,
R227, R237).  A meaning gives only the effect of its own instruction; everything around it is here. -/
namespace Sys2Proof.Machine
open Sys2Proof

/-- What a producer sends: a null, an exception, or a token. -/
inductive Sent
  | null
  | exc
  | tok (t : Tok)
  deriving DecidableEq, Repr, Inhabited

/-- The ports and data ports of an instruction (R224, R225). -/
inductive PortId | a | b | p | c | hi | w1 | w2 | w3
  deriving DecidableEq, Repr, Inhabited

def InstSt.port (n : InstSt) : PortId → PortSt
  | .a => n.a
  | .b => n.b
  | .p => n.p
  | .c => n.c
  | .hi => n.hi
  | .w1 => n.w1
  | .w2 => n.w2
  | .w3 => n.w3

def InstSt.setPort (n : InstSt) (q : PortId) (v : PortSt) : InstSt :=
  match q with
  | .a => { n with a := v }
  | .b => { n with b := v }
  | .p => { n with p := v }
  | .c => { n with c := v }
  | .hi => { n with hi := v }
  | .w1 => { n with w1 := v }
  | .w2 => { n with w2 := v }
  | .w3 => { n with w3 := v }

def portId : Port → PortId
  | .a => .a
  | .b => .b
  | .p => .p
  | .c => .c

/-- The instruction at an index of a block. -/
def Block.instr (b : Block) (i : Nat) : Option Instr :=
  (b.insts[i]?).bind fun n => (decodeRaw n.word).toOption

def seqOfInstr (i : Instr) : Option (BitVec 5) := (infoOf i).bind fun f => f.seq
def isMsg (i : Instr) : Bool :=
  match infoOf i with
  | some f => f.cnt == .nsend
  | none => false

/-- The index of the sequenced instruction SEQ, and of the n-th SEND or WAKE (Table 10-5). -/
def Block.findSeq (b : Block) (q : BitVec 5) : Option Nat :=
  (List.range b.insts.length).find? fun i => ((b.instr i).bind seqOfInstr) == some q
def Block.findSend (b : Block) (n : Nat) : Option Nat :=
  ((List.range b.insts.length).filter fun i => match b.instr i with
    | some k => isMsg k
    | none => false)[n]?

/-- The instruction port or data port that a target names. -/
def Block.portOfTarget (b : Block) : Target → Option (Nat × PortId)
  | .port j q => some (j.toNat, portId q)
  | .storeData h q => (b.findSeq q).map fun j => (j, if h then PortId.hi else PortId.b)
  | .sendData n k => (b.findSend n.toNat).map fun j => (j, match k.toNat with
      | 0 => PortId.b
      | 1 => PortId.w1
      | 2 => PortId.w2
      | _ => PortId.w3)
  | _ => none

/-- A port is null when every producer that names it has sent a null. -/
def PortSt.isNull (q : PortSt) : Bool := decide (0 < q.prod) && decide (q.nulls = q.prod)
def PortSt.arrived (q : PortSt) : Bool := q.tok.isSome
/-- A port as it stands on a core cycle: a token whose latency is not over is not there (R249, R290). -/
def PortSt.by (q : PortSt) (now : Nat) : PortSt := if q.due ≤ now then q else { q with tok := none }
/-- The ports of an instruction as they stand on a core cycle. -/
def InstSt.by (n : InstSt) (now : Nat) : InstSt :=
  { n with a := n.a.by now, b := n.b.by now, p := n.p.by now, c := n.c.by now, hi := n.hi.by now, w1 := n.w1.by now,
           w2 := n.w2.by now, w3 := n.w3.by now }

/-- The ports besides p that an instruction uses: port c is an operand, or an order port when something names it. -/
def usedPorts (f : Info) (n : InstSt) : List PortId :=
  (if f.pa then [PortId.a] else []) ++ (if f.pb then [PortId.b] else []) ++
  (match f.pc with
   | .no => []
   | .operand => [PortId.c]
   | .order => if n.c.prod = 0 then [] else [PortId.c]) ++
  (if f.hi then [PortId.hi] else []) ++
  ([PortId.w1, PortId.w2, PortId.w3].take f.words)

/-- The predicate's verdict: none while it is awaited. -/
def predTest (pr : Pr) (q : PortSt) : Option Bool :=
  match pr with
  | .always => some true
  | _ =>
    match q.tok with
    | some t =>
        some (match pr with
          | .onTrue => t.v.getLsbD 0
          | .onFalse => !t.v.getLsbD 0
          | _ => true)
    | none => if q.isNull then some false else none

/-- A handle has come where a predicate is wanted (R168). -/
def Info.predHandle (f : Info) (n : InstSt) : Bool := f.hdr.pr != .always && n.p.tok.any fun t => t.hnd.isSome

/-- An instruction that the tokens received so far make null (R225), although its own move is still to come; DESIGN CHOICE (log 70): it
discards what reaches it later, also when a null at a port besides p makes it null (R225 says so of the predicate alone). -/
def InstSt.doomed (n : InstSt) : Bool :=
  match (decodeRaw n.word).toOption.bind infoOf with
  | none => false
  | some f =>
      n.st == .waiting && !f.predHandle n && !(f.hdr.pr != .always && n.p.exc) && !(usedPorts f n).any (fun q => (n.port q).exc) &&
      (predTest f.hdr.pr n.p == some false || (predTest f.hdr.pr n.p == some true && (usedPorts f n).any fun q => (n.port q).isNull))

/-- A token arrives at a port on a core cycle (R225): a second non-null token marks the block; an instruction that nulls by then
discards it. -/
def Block.sendPort (b : Block) (sender : BitVec 8) (j : Nat) (q : PortId) (due : Nat) (v : Sent) : Block :=
  match b.insts[j]? with
  | none => b
  | some n =>
      let pt := n.port q
      if n.st = .nulled ∨ (n.by due).doomed = true then b
      else
        match v with
        | .null => { b with insts := b.insts.set j (n.setPort q { pt with nulls := pt.nulls + 1 }) }
        | .exc => { b with insts := b.insts.set j (n.setPort q { pt with exc := true }) }
        | .tok t =>
            if pt.tok.isSome then { b with second := some (b.second.getD sender) }
            else { b with insts := b.insts.set j (n.setPort q { pt with tok := some t, due := due }) }

def Exit.tok : Exit → Option Tok
  | .addr t => some t
  | .yield t => some t
  | .sret t => some t
  | .wfm t => some t
  | _ => none

/-- The poison and alignment checks of a taken exit (R226): a fault of the instruction's own (R227 step 1). -/
def exitFault (idx : Nat) (e : Exit) : Option OwnFault :=
  match e.tok with
  | none => none
  | some t =>
      if t.poi then some { idx := idx, cause := cPoison, tval := t.v, poi := true }
      else if t.v.toNat % 64 ≠ 0 then some { idx := idx, cause := cAlign, tval := t.v }
      else none

/-- A taken exit joins its block, with the fault that its address gives. -/
def Block.takeExit (b : Block) (idx : Nat) (x : Exit) : Block :=
  { b with
    exits := b.exits ++ [(idx, x)]
    faults := b.faults ++ (exitFault idx x).toList
    excd := b.excd || (exitFault idx x).isSome }

/-- A producer sends to one target (R225, R226), where the token arrives on a core cycle. -/
def Block.send (b : Block) (sender : BitVec 8) (t : Target) (due : Nat) (v : Sent) : Block :=
  match t with
  | .none => b
  | .malformed _ => b
  | .slot s l =>
      match v with
      | .null => b
      | .exc => { b with excd := true }
      | .tok k =>
          if b.swr.any fun e => e.1 == s then { b with second := some (b.second.getD sender) }
          else { b with swr := b.swr ++ [(s, l, k)] }
  | .exit =>
      match v with
      | .null => b
      | .exc => { b with excd := true }
      | .tok k => b.takeExit sender.toNat (.addr k)
  | _ =>
      match b.portOfTarget t with
      | some (j, q) => b.sendPort sender j q due v
      | none => b

/-! ### Readiness (R225) -/

/-- What an instruction can do now. -/
inductive Ready | hold | null | exc | go
  deriving DecidableEq, Repr, Inhabited

/-- Whether an instruction waits, nulls, faults or may fire; one whose predicate is a handle goes on to its fault (R168). -/
def readiness (f : Info) (n : InstSt) : Ready :=
  let us := usedPorts f n
  if (f.hdr.pr != .always && n.p.exc) || us.any (fun q => (n.port q).exc) then .exc
  else if f.predHandle n then .go
  else
    match predTest f.hdr.pr n.p with
    | none => .hold
    | some false => .null
    | some true =>
        if us.any fun q => (n.port q).isNull then .null
        else if us.all fun q => (n.port q).arrived then .go
        else .hold

/-! ### Firing -/

/-- What an instruction sees when it fires. -/
structure Env where
  s : State
  cell : Nat
  x : Nat
  pos : Nat
  idx : Nat
  c : Ctx
  blk : Block
  n : InstSt
  f : Info
  deriving Repr, Inhabited

def Env.tok (e : Env) (q : PortId) : Tok := ((e.n.port q).tok).getD {}
/-- The core cycle of the field. -/
def Env.now (e : Env) : Nat := (e.s.fieldAt (fieldOf e.cell)).tick
def Env.a (e : Env) : Nat := (e.tok .a).v.toNat
def Env.b (e : Env) : Nat := (e.tok .b).v.toNat
def Env.cv (e : Env) : Nat := (e.tok .c).v.toNat
/-- Poison of the predicate when there is one (R225, R237). -/
def Env.pp (e : Env) : Bool := e.f.hdr.pr != .always && (e.tok .p).poi
def Env.pa (e : Env) : Bool := (e.tok .a).poi
def Env.pb (e : Env) : Bool := (e.tok .b).poi
def Env.pcv (e : Env) : Bool := (e.tok .c).poi
/-- The done token at the order port, if one came. -/
def Env.wait (e : Env) : Option Nat := (e.tok .c).hnd

/-- What a firing does: what goes to TA and TB, actions at commit, a fault of its own, an exit taken, the phase; `sentA` when
TA has had its done token already (R292). -/
structure Eff where
  outA : Sent := .null
  outB : Sent := .null
  acts : List Act := []
  fault : Option (Cause × Word) := none
  exit : Option Exit := none
  st : InstPhase := .fired
  sentA : Bool := false
  deriving DecidableEq, Repr, Inhabited

def Sent.isTok : Sent → Bool
  | .tok _ => true
  | _ => false
/-- A firing sends a token. -/
def Eff.sends (e : Eff) : Bool := e.outA.isTok || e.outB.isTok
/-- A result to both targets. -/
def effTok (t : Tok) : Eff := { outA := .tok t, outB := .tok t }
/-- A result with the poison of the operands read (R232). -/
def Env.res (e : Env) (v : Nat) (poi : Bool) : Eff := effTok { v := BitVec.ofNat 64 v, poi := poi || e.pp }
/-- A fault of the instruction's own. -/
def effFault (c : Cause) (tval : Word) : Eff := { fault := some (c, tval), outA := .exc, outB := .exc, st := .faulted }
/-- No result. -/
def effNone : Eff := {}

/-- Send what a firing gives (a wait sends its done token alone, R168), to arrive on a core cycle, and record its actions, fault and
exit in the block (R183, R225 to R227, R238). -/
def Block.finish (b : Block) (idx : Nat) (h : Hdr) (due : Nat) (e : Eff) : Block :=
  let sender := BitVec.ofNat 8 idx
  let b := match b.insts[idx]? with
    | some n => { b with insts := b.insts.set idx { n with st := e.st, due := if e.sends || e.exit.isSome then due else 0 } }
    | none => b
  let tokenOnly := match e.outA with
    | .tok t => t.hnd.isSome
    | _ => false
  let b :=
    if e.st = .issued ∨ e.st = .acquiring ∨ e.st = .held then (if tokenOnly then b.send sender h.ta due e.outA else b)
    else (if e.sentA then b else b.send sender h.ta due e.outA).send sender h.tb due e.outB
  let b := match e.exit with
    | some x => b.takeExit idx x
    | none => b
  { b with
    acts := b.acts ++ e.acts.map fun a => (idx, a)
    faults := b.faults ++ (match e.fault with
      | some (c, v) => [{ idx := idx, cause := c, tval := v }]
      | none => [])
    excd := b.excd || e.fault.isSome }

/-- An instruction that nulls sends a null to every target (R225). -/
def effNull : Eff := { st := .nulled }
/-- An instruction that receives an exception passes it on and records no fault of its own (R183, R227). -/
def effExc : Eff := { outA := .exc, outB := .exc, st := .faulted }

/-- The block at a position of a context. -/
def Ctx.block (c : Ctx) (pos : Nat) : Option Block := c.flight[pos]?
def Ctx.setBlock (c : Ctx) (pos : Nat) (b : Block) : Ctx := { c with flight := c.flight.set pos b }

/-- The environment of the instruction being run, when it is still waiting. -/
def State.envOf (s : State) (i : Instr) : Option Env :=
  let c := s.ctxAt s.cur.cell s.cur.x
  match infoOf i, c.block s.cur.pos with
  | some f, some b =>
      match b.insts[s.cur.idx]? with
      | some n =>
          if n.st = .waiting ∧ b.entryFault = none then
            some { s := s, cell := s.cur.cell, x := s.cur.x, pos := s.cur.pos, idx := s.cur.idx, c := c, blk := b,
                   n := n, f := f }
          else none
      | none => none
  | _, _ => none

/-- Whether the cell's issue slot of this core cycle still takes an instruction of the context (R197, R198, R417, R423); the blocks
in flight of a halted cell run on (R434). -/
def State.canIssue (s : State) (cell x : Nat) : Bool :=
  let k := s.cellAt cell
  let f := s.fieldAt (fieldOf cell)
  f.dutyNow.getLsbD (f.cycle % 64) && !f.gated && !(s.ctxAt cell x).stopped &&
  (k.issCtx == none || k.issCtx == some x) && decide (k.issN < 4)

/-- The number of an instruction in flight: older blocks have lower numbers. -/
def Env.num (e : Env) : Nat := e.blk.id * 128 + e.idx
/-- Count an issue. -/
def Cell.issued (k : Cell) (x num : Nat) : Cell := { k with issCtx := some x, issN := k.issN + 1, lastIss := x, issAt := num + 1 }

/-- Core cycles from issue to result (Tables 11-5, 12-14); none for an instruction to which no table gives a latency. -/
def latencyOf : Instr → Option Nat
  | .mul .. | .mulh .. | .mulhu .. | .mulhsu .. | .madd .. => some 3
  | .div _ w | .divu _ w | .rem _ w | .remu _ w => some (6 + w.bits / 4)
  | .fadd .. | .fsub .. | .fmul .. | .fma .. | .fcvt .. | .ftoi .. | .itof .. => some 4
  | .fdiv _ f _ | .fsqrt _ f _ => some (match f with
      | .fp64 => 24
      | .fp32 => 12
      | _ => 8)
  | .br .. | .jmp .. | .call .. | .callr .. | .ret .. | .done .. | .yield .. | .trap .. | .null .. | .mov .. | .movi .. | .movhi ..
  | .sel .. | .baddr .. | .teq .. | .tne .. | .tlt .. | .tle .. | .tltu .. | .tleu .. | .teqi .. | .tnei .. | .tlti .. | .tlei ..
  | .tltui .. | .tleui .. | .tbit .. | .tnz .. | .add .. | .sub .. | .addi .. | .adds .. | .addsu .. | .subs .. | .subsu ..
  | .neg .. | .abs .. | .min .. | .max .. | .minu .. | .maxu .. | .and .. | .or .. | .xor .. | .andn .. | .andi .. | .ori ..
  | .xori .. | .shl .. | .shr .. | .sar .. | .rol .. | .ror .. | .clz .. | .ctz .. | .popc .. | .bfx .. | .bfxu .. | .bfi ..
  | .fmin .. | .fmax .. | .fsgn .. | .fcmp .. | .fclass .. => some 1
  | _ => none

/-- The core cycle of its field in which a cell is. -/
def State.tickOf (s : State) (cell : Nat) : Nat := (s.fieldAt (fieldOf cell)).tick
/-- The core cycle on which the results of a firing are there: after the latency of the tables, or, where none is stated, after one
that is free (log 69). -/
def Env.due (e : Env) (i : Option Instr) : Nat :=
  e.now + (i.bind latencyOf).getD (Config.resultDelay e.num)
/-- Write the outcome of a firing into the block being run. -/
def State.put (s : State) (e : Env) (r : Eff) : State :=
  s.onCtx e.cell e.x fun c =>
    match c.block e.pos with
    | some b => c.setBlock e.pos (b.finish e.idx e.f.hdr (e.due (decodeRaw e.n.word).toOption) r)
    | none => c

/-- The slot whose read entry delivers to a port; TVAL of a schedule fault at that port (Table 18-1). -/
def Env.slotFor (e : Env) (q : PortId) : Option Word :=
  (e.blk.reads.find? fun r => e.blk.portOfTarget (targetOf r.tgt) == some (e.idx, q)).map fun r =>
    BitVec.ofNat 64 r.slot.toNat

/-- The port at which a handle or a plain value arrived where it may not (R168, R293). -/
def Env.badPort (e : Env) : Option PortId :=
  let us := (if e.f.hdr.pr == .always then [] else [PortId.p]) ++ usedPorts e.f e.n
  us.find? fun q =>
    if q = .c ∧ e.f.pc = .order then (e.tok q).hnd.isNone else (e.tok q).hnd.isSome

/-- Run one instruction of a block: it waits, nulls, passes an exception on, or, when nothing holds it (`ok`) and the issue slot
takes it, issues with what issue itself does (`pre`) and faults on a misplaced handle or fires with the effect `g`. -/
def fireM (i : Instr) (ok : Env → Bool) (pre : Env → State → State) (g : Env → M → M × Eff) (m : M) : M :=
  match m.s.envOf i with
  | none => m
  | some e =>
      match readiness e.f (e.n.by e.now) with
      | .hold => m
      | .null => m.on fun s => s.put e effNull
      | .exc => m.on fun s => s.put e effExc
      | .go =>
          if m.s.canIssue e.cell e.x = false ∨ ok e = false then m
          else
            let m := m.on fun s => pre e (s.onCell e.cell fun k => k.issued e.x e.num)
            match e.badPort with
            | some q =>
                match e.slotFor q with
                | some v => m.on fun s => s.put e (effFault cSchedule v)
                | none =>
                    let (v, s) := m.s.takeFree
                    { m with s := s.put e (effFault cSchedule v) }
            | none =>
                let (m, r) := g e m
                m.on fun s => s.put e r

/-- Run an instruction whose effect is only a result, an action, a fault or an exit. -/
def fire (i : Instr) (g : Env → Eff) (s : State) : Host.Outcome State Fault Refusal :=
  run s (fireM i (fun _ => true) (fun _ s => s) fun e m => (m, g e))

/-- Run an instruction whose effect reaches beyond its block. -/
def fireS (i : Instr) (g : Env → M → M × Eff) (s : State) : Host.Outcome State Fault Refusal :=
  run s (fireM i (fun _ => true) (fun _ s => s) g)

/-- Run an instruction that something may hold back. -/
def fireH (i : Instr) (ok : Env → Bool) (g : Env → M → M × Eff) (s : State) : Host.Outcome State Fault Refusal :=
  run s (fireM i ok (fun _ s => s) g)

/-! ### Stochastic rounding (R278) -/

/-- Whether an instruction is a consumer under a value of FRM. -/
def isConsumer (frm : BitVec 3) (i : Instr) : Bool :=
  match infoOf i with
  | some f => (match f.draw with
    | .no => false
    | .yes => true
    | .dyn => frm == 4)
  | none => false

/-- Consumers of a block among its first n instructions. -/
def Block.consumers (b : Block) (frm : BitVec 3) (n : Nat) : Nat :=
  ((b.insts.take n).filter fun k => match (decodeRaw k.word).toOption with
    | some i => isConsumer frm i
    | none => false).length

/-- The generator state a consumer draws from: its own step included, after the consumers of older blocks in flight
and of lower index. -/
def Env.seed (e : Env) : Word :=
  let older := (e.c.flight.take e.pos).foldl (fun n b => n + b.consumers e.c.frm b.insts.length) 0
  srSteps (older + e.blk.consumers e.c.frm e.idx + 1) e.c.srseed
/-- Its draw. -/
def Env.draw (e : Env) : Nat := srDraw e.seed

/-! ### Commands made by a firing -/

/-- The command a firing makes, with the operands of its ports. -/
def Env.cmd (e : Env) (i : Instr) : Cmd :=
  { i := i, cell := e.cell, x := e.x, blk := e.blk.addr, idx := e.idx, a := e.tok .a, b := e.tok .b, c := e.tok .c,
    hi := e.tok .hi, ws := ([e.tok .w1, e.tok .w2, e.tok .w3].take e.f.words), wait := e.wait, sup := e.blk.sup,
    fmode := e.blk.fmode, frm := e.c.frm, seed := e.seed, rvc := if e.blk.sup then 7 else e.c.rvc.toNat,
    tag := e.c.mytag, hno := e.c.hno, pp := e.pp }

/-- The slot targets that take a result landing later: both targets, or TB alone when TA takes the done token
(R154, R166, R292). -/
def Info.slotTargets (f : Info) : List (BitVec 6 × BitVec 3) :=
  (if f.tsc == .none then [f.hdr.ta, f.hdr.tb] else [f.hdr.tb]).filterMap fun t =>
    match t with
    | .slot s l => some (s, l)
    | _ => none

/-- Give an operation its done token, if its TSC names a scope (R168): the token goes to TA at once as a handle. -/
def M.withTok (m : M) (f : Info) : M × Option (Nat × Scope) × Sent :=
  if f.tsc == .none then (m, none, .null)
  else
    let (n, s) := m.s.newTok
    ({ m with s := s }, some (n, f.tsc), .tok { v := 0, hnd := some n })

end Sys2Proof.Machine
end

