-- ==== Sys2Proof/Machine/Flags.lean ====
section
/-! DEFINITION. Machine/Flags.lean: the status and control registers that the CSR instructions reach (R382 to R384,
Table 16-5), field by field under Table 0-1, the flags of FCSR, VXSTAT and MXSTAT, and the generator's advance (R278
to R280). -/
namespace Sys2Proof.Machine
open Sys2Proof

/-- A register value from its fields: value and low bit of each. -/
def packFields (l : List (Nat × Nat)) : Nat := l.foldl (fun n e => n + e.1 * 2 ^ e.2) 0

/-- FCSR of a context (Table 12-7). -/
def Ctx.fcsr (c : Ctx) : Nat := c.frm.toNat * 32 + c.fflags.toNat

/-- The fused timing of Table 5-1: TRCD, TRP, TRAS, TRC, TCCDS, TCCDL, TRRDS, TRRDL, TFAW, RL, WL, TWR, TRTP, TWTRS,
TWTRL, TRTW, TRFCAB, TRFCPB of class A or class B. -/
structure Timing where
  trcd : Nat
  trp : Nat
  tras : Nat
  trc : Nat
  tccds : Nat
  tccdl : Nat
  trrds : Nat
  trrdl : Nat
  tfaw : Nat
  rl : Nat
  wl : Nat
  twr : Nat
  trtp : Nat
  twtrs : Nat
  twtrl : Nat
  trtw : Nat
  trfcab : Nat
  trfcpb : Nat
  deriving DecidableEq, Repr, Inhabited

def timingOf (classB : Bool) : Timing :=
  if classB then
    { trcd := 16, trp := 16, tras := 34, trc := 50, tccds := 2, tccdl := 4, trrds := 3, trrdl := 5, tfaw := 20,
      rl := 18, wl := 7, twr := 16, trtp := 6, twtrs := 4, twtrl := 8, trtw := 7, trfcab := 130, trfcpb := 55 }
  else
    { trcd := 14, trp := 14, tras := 30, trc := 44, tccds := 2, tccdl := 4, trrds := 2, trrdl := 4, tfaw := 16,
      rl := 16, wl := 6, twr := 14, trtp := 5, twtrs := 3, twtrl := 7, trtw := 6, trfcab := 110, trfcpb := 45 }

def vtim (n : Nat) : Nat :=
  let t := timingOf Config.fusedClassB
  match n with
  | 0 => packFields [(t.trcd, 56), (t.trp, 48), (t.tras, 40), (t.trc, 32), (t.tccds, 24), (t.tccdl, 16), (t.trrds, 8),
      (t.trrdl, 0)]
  | 1 => packFields [(t.tfaw, 56), (t.rl, 48), (t.wl, 40), (t.twr, 32), (t.trtp, 24), (t.twtrs, 16), (t.twtrl, 8),
      (t.trtw, 0)]
  | _ => packFields [(t.trfcab, 56), (t.trfcpb, 48), (ofBool Config.fusedClassB, 0)]

/-- A bank of a vault. -/
def Vault.bank (v : Vault) (b : Nat) : BankSt := v.banks.get {} b
/-- The debts of the eight banks in 5-bit fields (Table 5-3). -/
def Vault.debtBits (v : Vault) : Nat := packFields ((List.range 8).map fun i => (zextI (v.bank i).debt 5, 5 * i))
/-- VSTAT (Table 5-3). -/
def Vault.vstat (v : Vault) (scls : BitVec 2) : Nat :=
  packFields [(v.debtBits, 0), (scls.toNat, 40), (if v.owned then v.dcls.toNat else 0, 44), (ofBool v.owned, 48)]

def seqCode : SeqState → Nat
  | .idle => 0
  | .armed => 1
  | .running => 2
  | .suspended => 3
  | .done => 4
  | .stopped => 5

/-- Columns of the elastic buffer that are reserved at a vault clock (R127): deliveries, staged sources, writes whose end of
data is to come. -/
def Seq.ebuf (q : Seq) (t : Nat) : Nat :=
  q.elastic.length + (q.fetched.filter fun f => f.began).length + (q.writes.filter fun w => decide (t < w)).length
def Seq.stat (q : Seq) (t : Nat) : Nat :=
  packFields [(q.cause.toNat, 56), (q.detail.toNat, 48), (seqCode q.st, 16), (q.ebuf t, 0)]
def Seq.posn (q : Seq) : Nat := packFields [(q.index.toNat, 32), (q.iter.toNat, 0)]

def Ring.reg (r : Ring) (j : Nat) : Nat :=
  match j with
  | 0 => r.cfg.toNat
  | 1 => r.part.toNat
  | 2 => r.arr.toNat
  | 3 => r.pend.toNat
  | _ => packFields [(r.gen.toNat, 32), (r.sp.toNat, 0)]

/-- The size registers (Table 2-8). -/
def State.tcmsz (s : State) (cell : Nat) : Nat := packFields [((s.cellAt cell).tcmLive.toNat, 32), (s.tcmBytes cell, 0)]
def State.cspsz (s : State) (cl : Nat) : Nat := packFields [((s.clusterAt cl).cspLive.toNat, 32), (s.cspBytes cl, 0)]
def State.fssz (s : State) (f : Nat) : Nat :=
  packFields [((s.fieldAt f).inter.length, 56), ((s.fieldAt f).minBank, 48), ((s.fieldAt f).fsBytes, 0)]
def State.vltsz (s : State) (cell : Nat) : Nat :=
  packFields [((s.cellAt cell).vltLive.toNat, 32), ((s.cellAt cell).vltBytes, 0)]
/-- NETCAP (Table 2-11). -/
def netcap : Nat := 0x20080820
def Cell.cfg (k : Cell) : Nat := packFields [(ofBool k.schk, 1), (ofBool k.atom, 0)]
def Cell.codergn (k : Cell) : Nat := packFields [(k.codeLim.toNat, 16), (k.codeBase.toNat, 0)]
def Cell.treestat (k : Cell) : Nat :=
  packFields [(k.ext.length, 16), (k.inj.length, 8), (ofBool k.treeMiss, 0)]
def Cell.atfmtReg (k : Cell) : Nat := packFields ((List.range 24).map fun t => ((k.atfmt.get 0 t).toNat, 2 * t))
def OtSt.reg (o : OtSt) : Nat := packFields [(o.st.toNat, 24), (o.owner.toNat, 20), (o.exp.toNat, 8), (o.fill.toNat, 0)]

/-- A context register (Table 16-5). -/
def Ctx.csr (c : Ctx) (n : Nat) : Nat :=
  match n with
  | 0x000 => c.ccount.toNat
  | 0x001 => c.mq.length
  | 0x002 => c.agelim.toNat
  | 0x003 => c.pfault.toNat
  | 0x004 => c.gidx0.toNat
  | 0x005 => c.gidx1.toNat
  | 0x006 => c.cdepth.toNat
  | 0x007 => c.fcsr
  | 0x008 => c.srseed.toNat
  | 0x009 => c.vxstat.toNat
  | 0x00A => c.mxstat.toNat
  | 0x00B => c.slotpend.toNat
  | 0x00C => c.sterr.toNat
  | 0x00D => c.sterra.toNat
  | 0x00E => c.spillb.toNat
  | 0x00F => c.spills.toNat
  | 0x010 => c.ovfptr.toNat
  | 0x011 => c.ovfsz.toNat
  | 0x012 => c.mytag.toNat
  | 0x013 => c.txstat.toNat
  | 0x014 => ofBool c.sup
  | 0x015 => c.svret.toNat
  | 0x018 => c.tcause.toNat
  | 0x019 => c.tblk.toNat
  | 0x01A => c.tidx.toNat
  | 0x01B => c.tval.toNat
  | _ => 0

/-- A register of the cell, its cluster or the wafer (Table 16-5).  DESIGN CHOICE (log 54): of the vault clock edges whose VTIME a
read may return (R22), the present one. -/
def State.cellCsr (s : State) (cell n : Nat) : Nat :=
  let k := s.cellAt cell
  if n < 0x120 then
    match n with
    | 0x100 => s.vtime.toNat
    | 0x101 => s.tcmsz cell
    | 0x102 => s.cspsz (clusterOf cell)
    | 0x103 => s.fssz (fieldOf cell)
    | 0x104 => s.vltsz cell
    | 0x105 => netcap
    | 0x106 => k.cfg
    | 0x107 => k.codergn
    | 0x108 => k.hdrop.toNat
    | 0x109 => k.treestat
    | 0x10A => k.semovf.toNat
    | 0x10B => k.atfmtReg
    | 0x10C => cell
    | 0x10D => k.hgrp.toNat
    | 0x10E => k.svbase.toNat
    | 0x10F => s.waferId.toNat
    | 0x110 => vtim 0
    | 0x111 => vtim 1
    | 0x112 => vtim 2
    | 0x113 => k.vault.vstat (s.fieldAt (fieldOf cell)).scls
    | 0x114 => k.seq.stat s.vtime.toNat
    | 0x115 => k.seq.posn
    | 0x116 => k.seq.elap.toNat
    | 0x117 => k.seq.t0.toNat
    | 0x118 => k.seq.rowl.toNat
    | 0x119 => k.seq.rowh.toNat
    | 0x11A => k.seq.debt.toNat
    | _ => 0
  else if n < 0x128 then (k.vsw.get 0 (n - 0x120)).toNat
  else if 0x140 ≤ n ∧ n < 0x148 then (k.cpcfg.get 0 (n - 0x140)).toNat
  else if 0x148 ≤ n ∧ n < 0x150 then (k.cpstat.get 0 (n - 0x148)).toNat
  else if 0x160 ≤ n ∧ n < 0x180 then (k.ot.get {} (n - 0x160)).reg
  else if 0x180 ≤ n ∧ n < 0x1C0 then (k.sem.get 0 (n - 0x180)).toNat
  else if 0x1C0 ≤ n ∧ n < 0x1E0 then (k.td.get {} ((n - 0x1C0) / 8)).reg (n % 8)
  else if 0x200 ≤ n ∧ n < 0x280 then ((s.clusterAt (clusterOf cell)).rd.get {} ((n - 0x200) / 8)).reg (n % 8)
  else if 0x280 ≤ n ∧ n < 0x2A0 then
    let b := (s.clusterAt (clusterOf cell)).cb.get {} ((n - 0x280) / 4)
    (match n % 4 with
     | 0 => b.mask.toNat
     | 1 => b.arr.toNat
     | _ => b.gen.toNat)
  else 0

/-- The value a CSR read returns (R383). -/
def State.csrRead (s : State) (cell x n : Nat) : Nat :=
  if n < 0x100 then (s.ctxAt cell x).csr n else s.cellCsr cell n

/-- A read clears the RC fields of HDROP and TREESTAT (R8, R383); what has been set in the present core cycle stays, and is read from
the next one on. -/
def Cell.readSide (k : Cell) (n : Nat) : Cell :=
  if n = 0x108 then { k with hdrop := 0 } else if n = 0x109 then { k with treeMiss := false } else k
def State.csrSide (s : State) (cell n : Nat) : State :=
  if n = 0x108 ∨ n = 0x109 then s.onCell cell fun k => k.readSide n else s

/-- A register a user-mode CSRR may not read (Table 16-5). -/
def csrUser (n : Nat) : Bool := !(n == 0x015 || (0x018 ≤ n && n ≤ 0x01B) || (0x10C ≤ n && n ≤ 0x10E))

/-- Clear VXSTAT.CAUSE, LANE and COUNT; MXSTAT's record; TXSTAT's; STERR and STERRA (their CLR fields). -/
def clrVx (v : Word) : Word := putFld (putFld (putFld v 56 8 0) 48 6 0) 32 16 0
def clrMx (v : Word) : Word := putFld (putFld (putFld (putFld v 56 8 0) 52 4 0) 47 5 0) 16 16 0
def clrTx (v : Word) : Word := putFld (putFld (putFld v 56 8 0) 48 8 0) 32 16 0
def Ctx.clrSterr (c : Ctx) : Ctx := { c with sterr := putFld (putFld c.sterr 56 8 0) 32 16 0, sterra := 0 }

/-- A CSR write of a context register (R384): `wo` whether WO fields act (CSRW). -/
def Ctx.csrPut (c : Ctx) (n : Nat) (wo : Bool) (v : Word) : Ctx :=
  match n with
  | 0x002 => { c with agelim := v.setWidth 32 }
  | 0x007 => { c with fflags := v.setWidth 5, frm := if fld v 5 3 ≤ 4 then v.extractLsb' 5 3 else c.frm }
  | 0x008 => { c with srseed := if v = 0 then 1 else v }
  | 0x009 =>
      let w := putFld c.vxstat 0 5 (fld v 0 5)
      { c with vxstat := if wo && v.getLsbD 5 then clrVx w else w }
  | 0x00A =>
      let w := putFld (putFld c.mxstat 4 3 (fld v 4 3)) 0 3 (fld v 0 3)
      { c with mxstat := if wo && v.getLsbD 7 then clrMx w else w }
  | 0x00C => if wo && v.getLsbD 0 then c.clrSterr else c
  | 0x00E => { c with spillb := putFld 0 0 18 (fld v 0 18) }
  | 0x00F => { c with spills := putFld 0 0 18 (fld v 0 18) }
  | 0x010 => { c with ovfptr := v }
  | 0x011 => { c with ovfsz := putFld 0 0 32 (fld v 0 32) }
  | 0x013 => if wo && v.getLsbD 0 then { c with txstat := clrTx c.txstat } else c
  | 0x015 => { c with svret := v }
  | _ => c

/-- The writable fields of RDCFG (Table 3-4). -/
def rdcfgOf (v : Word) : Word := putFld (putFld v 61 2 0) 21 15 0
def Ring.put (r : Ring) (j : Nat) (v : Word) : Ring :=
  match j with
  | 0 => { r with cfg := rdcfgOf v }
  | 1 => { r with part := v.setWidth 48 }
  | _ => r

/-- A write to SEMOVF clears the chosen bits that were set before the present core cycle (R8). -/
def Cell.clearOvf (k : Cell) (v : Word) : Cell := { k with semovf := k.semovf &&& ~~~(v &&& ~~~k.ovfNow) }

/-- A CSR write of a register of the cell or its cluster. -/
def State.cellCsrPut (s : State) (cell n : Nat) (wo : Bool) (v : Word) : State :=
  if n = 0x106 then s.onCell cell fun k => { k with schk := v.getLsbD 1, atom := v.getLsbD 0 }
  else if n = 0x107 then s.onCell cell fun k => { k with codeLim := v.extractLsb' 16 8, codeBase := v.extractLsb' 0 8 }
  else if n = 0x10A then (if wo then s.onCell cell fun k => k.clearOvf v else s)
  else if n = 0x10D then s.onCell cell fun k => { k with hgrp := putFld 0 0 33 (fld v 0 33) }
  else if n = 0x10E then s.onCell cell fun k => { k with svbase := putFld v 0 7 0 }
  else if 0x120 ≤ n ∧ n < 0x128 then
    s.onCell cell fun k => { k with vsw := k.vsw.set (n - 0x120) (putFld (putFld 0 61 3 (fld v 61 3)) 0 21 (fld v 0 21)) }
  else if 0x140 ≤ n ∧ n < 0x148 then
    s.onCell cell fun k => { k with cpcfg := k.cpcfg.set (n - 0x140) (putFld (putFld v 48 10 0) 32 8 0) }
  else if 0x1C0 ≤ n ∧ n < 0x1E0 then
    s.onCell cell fun k => { k with td := k.td.set ((n - 0x1C0) / 8) ((k.td.get {} ((n - 0x1C0) / 8)).put (n % 8) v) }
  else if 0x200 ≤ n ∧ n < 0x280 then
    s.onCluster (clusterOf cell) fun k =>
      { k with rd := k.rd.set ((n - 0x200) / 8) ((k.rd.get {} ((n - 0x200) / 8)).put (n % 8) v) }
  else if 0x280 ≤ n ∧ n < 0x2A0 ∧ n % 4 = 0 then
    s.onCluster (clusterOf cell) fun k =>
      { k with cb := k.cb.set ((n - 0x280) / 4) { (k.cb.get {} ((n - 0x280) / 4)) with mask := v } }
  else s

/-- A CSR write at commit (R384). -/
def State.csrPut (s : State) (cell x n : Nat) (wo : Bool) (v : Word) : State :=
  if n < 0x100 then s.onCtx cell x fun c => c.csrPut n wo v else s.cellCsrPut cell n wo v

/-- The new value that a CSR write gives, from the old value that the instruction has read and a (R383, R384). -/
def csrNew (op : CsrOp) (old a : Word) : Word :=
  match op with
  | .w => a
  | .s => old ||| a
  | .c => old &&& ~~~a
  | .x => a
/-- The new value of a CSR write applied at commit; WO and W1C fields act under CSRW alone. -/
def State.csrApply (s : State) (cell x n : Nat) (op : CsrOp) (v : Word) : State := s.csrPut cell x n (op == .w) v

/-! ### Flags -/

/-- OR flags into FCSR (R280). -/
def Ctx.raise (c : Ctx) (f : BitVec 5) : Ctx := { c with fflags := c.fflags ||| f }
/-- OR lane flags into VXSTAT [4:0] (R315) and into MXSTAT [2:0], [4], [5], [6] (R337). -/
def Ctx.raiseVx (c : Ctx) (f : BitVec 5) : Ctx := { c with vxstat := c.vxstat ||| f.setWidth 64 }
def Ctx.raiseMx (c : Ctx) (f : BitVec 7) : Ctx := { c with mxstat := c.mxstat ||| f.setWidth 64 }

/-- The first failure recorded in a status register's CAUSE field, with its other fields. -/
def firstCause (v : Word) (cause : Cause) (others : Word → Word) : Word :=
  if fld v 56 8 = 0 then others (putFld v 56 8 cause.toNat) else v

end Sys2Proof.Machine
end

