-- ==== Sys2Proof/Machine/Forward.lean ====
section
/-! DEFINITION. Machine/Forward.lean: what a context's local loads see of its own earlier stores (R57, R164, Table 8-3). -/
namespace Sys2Proof.Machine
open Sys2Proof

/-- The bytes a store command writes. -/
def Cmd.data (c : Cmd) : List (Byte × Bool) :=
  let lo := bytesOf (min c.len 8) c.b.v.toNat c.b.poi
  if c.len = 16 then lo ++ bytesOf 8 c.hi.v.toNat c.hi.poi else lo

/-- A plain store or STF. -/
def isStore : Instr → Bool
  | .st .. => true
  | .stf .. => true
  | _ => false

/-- An instruction that reads and writes in one step at its home (R299). -/
def isAtomic (i : Instr) : Bool :=
  match infoOf i with
  | some f => f.kind == .commit && f.cnt == .nst && !(match i with
    | .ldfe .. => true
    | _ => false)
  | none => false

/-- The place that the bytes of a command in local memory lead to now: all of them, or the first of a split access (R56). -/
def State.routePlace (s : State) (r : Route) : Option Place :=
  match r with
  | .here p => some p
  | .ring q k off => some (s.ringPlace q k off)
  | .engine p => some p
  | .split p _ _ => some p
  | _ => none
/-- How many bytes of an access of some length lie in local memory. -/
def Route.localLen (r : Route) (len : Nat) : Nat :=
  match r with
  | .split _ n _ => n
  | .tag _ => 0
  | _ => len

/-- The commands that the first n instructions of a block have for the store queue, in program order (R228). -/
def Block.queueUp (b : Block) (n : Nat) : List Cmd :=
  (List.range n).flatMap fun i => b.acts.filterMap fun a => match a.2 with
    | .queue c => if a.1 = i then some c else none
    | _ => none

/-- The stores of a context that come before an instruction, oldest first: queued, then uncommitted. -/
def Env.priorStores (e : Env) : List Cmd :=
  (e.c.sq ++ ((e.c.flight.take e.pos).flatMap fun b => b.queueUp 128) ++ e.blk.queueUp e.idx).filter fun c => isStore c.i

/-- Overlay a store's bytes on bytes read. -/
def overlay (keys : List (Option Nat)) (data : List (Byte × Bool)) (sk : List (Option Nat)) (sd : List (Byte × Bool)) :
    List (Byte × Bool) :=
  (List.range data.length).map fun i =>
    let d := data.getD i (0, false)
    match keys.getD i none with
    | none => d
    | some k => match sk.findIdx? fun q => q == some k with
        | some j => sd.getD j d
        | none => d

/-- The keys of some bytes of a place. -/
def State.keysOf (s : State) (p : Place) (n : Nat) : List (Option Nat) :=
  (List.range n).map fun i => s.key p.r (p.off + i)

/-- Bytes read at a local home, with those of the context's earlier local stores on top (R164). -/
def Env.forward (e : Env) (p : Place) (d : List (Byte × Bool)) : List (Byte × Bool) :=
  e.priorStores.foldl (fun d c => match e.s.routePlace c.route with
    | some q => overlay (e.s.keysOf p d.length) d (e.s.keysOf q (c.route.localLen c.len)) c.data
    | none => d) d

/-- Whether an atomic of the context that is queued, or of an older block, and that writes some of the bytes of a local access
is still to be performed: its bytes are not known yet (log 20). -/
def Env.atomicAhead (e : Env) (rt : Route) (n : Nat) : Bool :=
  match e.s.routePlace rt with
  | none => false
  | some p =>
      (e.c.sq ++ (e.c.flight.take e.pos).flatMap fun b => b.queueUp 128).any fun c =>
        isAtomic c.i && (match e.s.routePlace c.route with
          | some q => (e.s.keysOf q (c.route.localLen c.len)).any fun k => k.isSome && (e.s.keysOf p n).contains k
          | none => false)

/-- The position of a block in flight by its identity. -/
def Ctx.posOf (c : Ctx) (id : Nat) : Option Nat := c.flight.findIdx? fun b => b.id == id

/-- The environment of an instruction that has fired and waits. -/
def State.envAt (s : State) (cell x pos idx : Nat) : Option Env :=
  let c := s.ctxAt cell x
  match c.block pos with
  | none => none
  | some b => match b.insts[idx]?, (b.instr idx).bind infoOf with
      | some n, some f => some { s := s, cell := cell, x := x, pos := pos, idx := idx, c := c, blk := b, n := n, f := f }
      | _, _ => none

/-- An access to a local home by a local address, or to the MMIO window (R158). -/
def Acc.isLocal (a : Acc) : Bool :=
  match a.who, a.op with
  | .host, _ => false
  | .gate _, _ => false
  | _, .message _ => false
  | _, _ => a.place.isSome || a.ring.isSome || fld a.addr 61 3 == 1

/-- Bytes that an access has read: for a local load of a block, with the context's own earlier stores on top (R164). -/
def State.forwarded (s : State) (a : Acc) (p : Place) (d : List (Byte × Bool)) : List (Byte × Bool) :=
  match a.back with
  | .inst cell x blk idx =>
      if fld a.addr 61 3 = 0 ∨ fld a.addr 61 3 = 7 then d
      else match ((s.ctxAt cell x).posOf blk).bind fun pos => s.envAt cell x pos idx with
        | some e => e.forward p d
        | none => d
  | _ => d

end Sys2Proof.Machine
end

