-- ==== Sys2Proof/Machine/Home.lean ====
section
/-! DEFINITION. Machine/Home.lean: what an access does when its home performs it (R43, R53, R64, R65, R77, R86, R144,
R152, R161, R162, R178, R299, R300, R303), what becomes of one that fails there (R41), and how its answer and its done
token come back (R160, R168). -/
namespace Sys2Proof.Machine
open Sys2Proof

/-! ### Cached vault ranges (R85, R86) -/

/-- The slice line that holds a vault offset, if the offset is bound and the line is present. -/
def State.lineAt (s : State) (p : Place) : Option (Nat × Nat × CLine) :=
  match p.r with
  | .vault c =>
      match s.boundSlice c p.off with
      | some (_, sl) =>
          match ((s.fieldAt (fieldOf c)).slice sl).lines.find? fun l => l.line == p.off / 128 with
          | some l => some (fieldOf c, sl, l)
          | none => none
      | none => none
  | _ => none

def State.onSlice (s : State) (f sl : Nat) (g : Slice → Slice) : State :=
  s.onField f fun fl => { fl with slices := fl.slices.set sl (g (fl.slice sl)) }
/-- A use of a line makes it the most recent (R86). -/
def State.useLine (s : State) (f sl line : Nat) : State :=
  s.onSlice f sl fun v => { v with lines := (v.lines.filter fun l => l.line != line) ++ v.lines.filter fun l => l.line == line }

/-- The parts of some bytes that lie in different 128-byte lines: offset and length of each. -/
def linePieces (off n : Nat) : List (Nat × Nat) :=
  (List.range ((off + n + 127) / 128 - off / 128)).map fun i =>
    let lo := max off ((off / 128 + i) * 128)
    (lo, min (off + n) ((off / 128 + i + 1) * 128) - lo)
/-- Bytes of one line as their home holds them: the slice's line, or the memory. -/
def State.lineBytes (s : State) (p : Place) (n : Nat) : List (Byte × Bool) :=
  match s.lineAt p with
  | some (_, _, l) => (l.data.drop (p.off % 128)).take n
  | none => s.bytesAt p n
/-- Bytes of a place as its home holds them, line by line (R85). -/
def State.fetchBytes (s : State) (p : Place) (n : Nat) : List (Byte × Bool) :=
  if p.off % 128 + n ≤ 128 then s.lineBytes p n
  else (linePieces p.off n).flatMap fun e => s.lineBytes { p with off := e.1 } e.2

/-- Replace bytes of a line; a unit of 8 takes poison as R296 gives. -/
def patchLine (old : List (Byte × Bool)) (off : Nat) (data : List (Byte × Bool)) : List (Byte × Bool) :=
  let n := data.length
  let unitPoi (u : Nat) : Bool :=
    let ds := (List.range 8).filterMap fun j => if off ≤ 8 * u + j then data[8 * u + j - off]? else none
    let whole := decide (off ≤ 8 * u ∧ 8 * u + 8 ≤ off + n)
    anyPoi ds || (!whole && anyPoi ((old.drop (8 * u)).take 8))
  (List.range old.length).map fun i =>
    let b := if off ≤ i then (match data[i - off]? with
      | some d => d.1
      | none => (old.getD i (0, false)).1) else (old.getD i (0, false)).1
    let touched := decide (off / 8 ≤ i / 8 ∧ i / 8 ≤ (off + n - 1) / 8)
    (b, if touched then unitPoi (i / 8) else (old.getD i (0, false)).2)

/-- Write bytes of one line where their home holds them; a cached line becomes dirty and most recently used. -/
def M.storeLine (m : M) (p : Place) (data : List (Byte × Bool)) : M :=
  match m.s.lineAt p with
  | some (f, sl, l) =>
      m.on fun s => s.onField f fun fl =>
        let v := fl.slice sl
        let l' := { l with data := patchLine l.data (p.off % 128) data, dirty := true }
        { fl with slices := fl.slices.set sl { v with lines := (v.lines.filter fun k => k.line != l.line) ++ [l'] } }
  | none => m.write (m.s.writeOps p data)
/-- Write bytes where their home holds them, line by line (R85). -/
def M.storeBytes (m : M) (p : Place) (data : List (Byte × Bool)) : M :=
  if p.off % 128 + data.length ≤ 128 then m.storeLine p data
  else (linePieces p.off data.length).foldl (fun m e => m.storeLine { p with off := e.1 } ((data.drop (e.1 - p.off)).take e.2)) m

/-- Set the poison bit of the unit of 8 bytes at a place. -/
def M.setUnit (m : M) (p : Place) (b : Bool) : M :=
  match m.s.lineAt p with
  | some (f, sl, l) =>
      let mark (i : Nat) (e : Byte × Bool) : Byte × Bool := if i / 8 = p.off % 128 / 8 then (e.1, b) else e
      m.on fun s => s.onField f fun fl =>
        let v := fl.slice sl
        { fl with slices := fl.slices.set sl { v with lines := v.lines.map fun k => if k.line = l.line then { k with data := k.data.mapIdx mark } else k } }
  | none => match m.s.key p.r p.off with
      | some k => m.write [.poison (poiKey p.r k) b]
      | none => m

/-- Of an access performed in several parts (R53), a unit that the whole access covers takes its poison when the last of the
unit's bytes, at indices lo to hi, are there (R296). -/
def M.closeUnits (m : M) (p : Place) (data : List (Byte × Bool)) (mask : List Bool) (lo hi : Nat) : M :=
  let due := (List.range data.length).filter fun i =>
    (p.off + i) % 8 == 0 && decide (i + 8 ≤ data.length ∧ i < lo ∧ lo < i + 8 ∧ i + 8 ≤ hi) && ((mask.drop i).take 8).all fun b => b
  due.foldl (fun m i => m.setUnit { p with off := p.off + i } (anyPoi ((data.drop i).take 8))) m

/-- An access of a TXE, to which a code region is closed in both modes (R60). -/
def Acc.byTxe (a : Acc) : Bool :=
  match a.who with
  | .txe _ => true
  | _ => false

/-! ### Answers, tokens, failures -/

/-- What a host reads of range 0: beyond the end of the live map, zeros marked poisoned (R470). -/
def Acc.overMap (a : Acc) (d : List (Byte × Bool)) : List (Byte × Bool) :=
  match a.who, a.place with
  | .host, some p => if p.r = .carve 7 78 then d.mapIdx fun i e => if 0x7C58 ≤ p.off + i then (0, true) else e else d
  | _, _ => d
/-- An answer on its way back. -/
def M.respond (m : M) (a : Acc) (data : List (Byte × Bool)) (err : Option Cause) : M :=
  let data := a.overMap data
  if a.back = .none then m
  else
    let r : Resp := { id := a.id, back := a.back, data := data, err := err, addr := a.addr, tok := a.tok, due := a.due,
                      src := a.place.map m.s.homeOf }
    m.on fun s => { s with resps := s.resps ++ [r] }

/-- An operation of a context is no longer outstanding. -/
def State.settled (s : State) (a : Acc) : State :=
  match a.back with
  | .store c x id => s.onCtx c x fun k => { k with outs := k.outs.filter fun o => o.1 != id }
  | .slot c x id _ => s.onCtx c x fun k => { k with outs := k.outs.filter fun o => o.1 != id }
  | _ => s

/-- An access has been performed: its token is emitted (R160) and it is no longer outstanding. -/
def M.performed (m : M) (a : Acc) : M :=
  m.on fun s => (s.emitOf (match a.back with
    | .inst .. => none
    | _ => a.tok)).settled a

/-- Record a dropped operation in its context (R41): on the handler that issued it, or for a stop if that has ended. -/
def State.recordDrop (s : State) (cell x id hno : Nat) (cause : Cause) (addr : Word) (d : Scope) : State :=
  let here := (s.ctxAt cell x).handler && (s.ctxAt cell x).hno == hno
  (if here then s else s.unyield cell x).onCtx cell x fun c =>
    let c' := c.drop id cause addr d
    if c.handler ∧ c.hno = hno then c' else { c' with drops := c.drops, lateDrop := true }

/-- A host write is dropped: HERR counts it, saturating (R462), from the next vault clock on (R8). -/
def State.hostDrop (s : State) : State :=
  { s with herrNow := if s.herr.toNat + s.herrNow.toNat < 2 ^ 32 - 1 then s.herrNow + 1 else s.herrNow }

/-- An access fails at its home (R41): a load's answer carries the error; a store-type or commit-time operation is
dropped and recorded, its token carries the error, and a result lands as poisoned zero; a host read brings poisoned zeros (R462). -/
def M.dropAcc (m : M) (a : Acc) (cause : Cause) (d : Scope) : M :=
  match a.back with
  | .store c x id =>
      m.on fun s => ((s.recordDrop c x id a.hno cause a.addr d).emitErrOf a.tok cause a.addr).settled a
  | .slot c x id _ =>
      m.on fun s =>
        (((s.recordDrop c x id a.hno cause a.addr d).emitErrOf a.tok cause a.addr).settled a).onCtx c x fun k =>
          k.result id { v := 0, poi := true }
  | .host =>
      (match a.op with
       | .read => m.respond a (List.replicate a.len (0, true)) (some cause)
       | _ => (m.on State.hostDrop).respond a [] (some cause))
  | _ => m.respond a [] (some cause)

/-! ### Waiters at words (R65, R303) -/

/-- The generation test of R73. -/
def reached (gen g : Nat) : Bool := decide (zextI ((gen : Int) - g) 32 < 2 ^ 31)

/-- The GEN field of a sync word (Table 7-4). -/
def State.syncGen (s : State) (p : Place) : Nat := s.numAt { p with off := p.off + 8 } 4

/-- Serve one waiter if its condition holds; the flag says it was served. -/
def M.serveOne (m : M) (a : Acc) : M × Bool :=
  match a.place with
  | none => (m, false)
  | some p =>
      match a.op with
      | .ldf =>
          if m.s.allFull p a.len then ((m.respond a (m.s.forwarded a p (m.s.bytesAt p a.len)) none).performed a, true)
          else (m, false)
      | .ldfe =>
          if m.s.allFull p a.len then
            let d := m.s.bytesAt p a.len
            (((m.respond a d none).performed a).write (m.s.fullOps p a.len false), true)
          else (m, false)
      | .syncw g =>
          if reached (m.s.syncGen p) g.toNat then
            let d := m.s.bytesAt { p with off := p.off + 8 } 4
            ((m.respond a d none).performed a, true)
          else (m, false)
      | _ => (m, false)

/-- Serve every waiter that can be, in arrival order.  DESIGN CHOICE (log 56): a waiter for one word is served although an earlier
one, for that word and another that is still empty, goes on waiting; R65 orders the waiters of one word. -/
def M.serveList : M → List Acc → M × List Acc
  | m, [] => (m, [])
  | m, a :: t =>
      let (m, ok) := m.serveOne a
      let (m, rest) := M.serveList m t
      (m, if ok then rest else a :: rest)

def M.serveWaits (m : M) : M :=
  let (m, rest) := m.serveList m.s.waits
  m.on fun s => { s with waits := rest }
/-- After an ordinary store or an atomic at a place, whose bytes may bring a sync word to a generation: its waiters are released in the
same step (R153, R303). -/
def M.wake (m : M) (p : Place) : M := if p.r.hasFull then m.serveWaits else m

/-- Every word that an engine has written becomes full, then its waiters are served (R64, R65, R176). -/
def M.fillWords (m : M) (p : Place) (n : Nat) : M :=
  if p.r.hasFull then (m.write (m.s.fullOps p n true)).serveWaits else m
/-- Write as an engine writes. -/
def M.engStore (m : M) (p : Place) (data : List (Byte × Bool)) : M := (m.storeBytes p data).fillWords p data.length

/-- An arriving LDF, LDFE or SYNCW is served at once, or waits behind the earlier ones (R65, R303). -/
def M.arriveWait (m : M) (a : Acc) : M :=
  let blocked := match a.op, a.place with
    | .syncw _, _ => false
    | _, some p => m.s.waits.any fun w => match w.place, w.op with
        | _, .syncw _ => false
        | some q, _ => (m.s.wordsOf q w.len).any fun k => (m.s.wordsOf p a.len).contains k
        | none, _ => false
    | _, none => false
  let (m', ok) := if blocked then (m, false) else m.serveOne a
  if ok then m' else m.on fun s => { s with waits := s.waits ++ [a] }

/-! ### Sync words (R151 to R153) -/

/-- An arrival of n bytes at a sync word (R152). -/
def M.syncArrive (m : M) (p : Place) (n : Nat) (poi : Bool) : M :=
  let total := m.s.numAt p 4
  let count := m.s.numAt { p with off := p.off + 4 } 4 + n
  let gen := m.s.syncGen p
  let flags := m.s.numAt { p with off := p.off + 12 } 4
  let flags := if poi then flags ||| 1 else flags
  let put (m : M) (count gen flags : Nat) : M :=
    ((m.putNum { p with off := p.off + 4 } 4 count).putNum { p with off := p.off + 8 } 4 gen).putNum
      { p with off := p.off + 12 } 4 flags
  if total = 0 then put m (min count (2 ^ 32 - 1)) gen flags
  else
    let adv := count / total
    let flags := if adv > 1 then flags ||| 2 else flags
    let m := put m (count % total) ((gen + adv) % 2 ^ 32) flags
    if adv = 0 then m else (m.write (m.s.fullOps { p with off := p.off + 8 } 8 true)).serveWaits

/-! ### Operand tiles (R143, R144) -/

def Cell.otAt (k : Cell) (t : Nat) : OtSt := k.ot.get {} t
def Cell.setOt (k : Cell) (t : Nat) (o : OtSt) : Cell := { k with ot := k.ot.set t o }

/-- A whole line has been written into a FILLING tile (Table 7-3). -/
def OtSt.lineIn (o : OtSt) : OtSt := { o with fill := o.fill + 1, st := if o.fill + 1 == o.exp then 2 else o.st }
/-- Count n bytes from byte b on that a writer (an element of a TXE command) has put into a line; a line counts once for each writer,
when the last of its 128 bytes is there (R144). -/
def OtSt.count (o : OtSt) (writer : Nat × Nat) (line b n : Nat) : OtSt :=
  let mine (e : Nat × Nat × Nat × Nat) : Bool := e.1 == writer.1 && e.2.1 == writer.2 && e.2.2.1 == line
  if 128 ≤ n then o.lineIn
  else
    let got := ((o.parts.find? mine).elim 0 fun e => e.2.2.2) ||| (2 ^ n - 1) * 2 ^ b
    let rest := o.parts.filter fun e => !mine e
    if got != 2 ^ 128 - 1 then { o with parts := (writer.1, writer.2, line, got) :: rest } else ({ o with parts := rest } : OtSt).lineIn

/-- The TXE command whose piece an access writes, and the element of it that has whole lines of its own: elements of a gather join in
lines, those of every other form do not. -/
def State.writerOf (s : State) (a : Acc) : Nat × Nat :=
  match a.back with
  | .txWrite cell id =>
      ((s.cellAt cell).txRun.findSome? fun r => (r.flying.find? fun f => f.id == id).map fun f =>
        (r.cmd.id, match r.cmd.i with
          | .xgath .. => 0
          | _ => f.elem + 1)).getD (0, 0)
  | _ => (0, 0)

/-- A write of part or all of a line of a tile: performed only while the tile is FILLING. -/
def M.tileWrite (m : M) (cell off : Nat) (writer : Nat × Nat) (data : List (Byte × Bool)) : Option M :=
  let t := off / 8192
  if ((m.s.cellAt cell).otAt t).st = 1 then
    let m := m.write (m.s.writeOps { r := .opm cell, off := off } data)
    some (m.on fun s => s.onCell cell fun k => k.setOt t ((k.otAt t).count writer (off % 8192 / 128) (off % 128) data.length))
  else none

/-! ### Accumulator lanes (R36, R336) -/

/-- A lane of accumulator memory as it stands: its 40 bits and its poison. -/
def State.accLane (s : State) (cell lane : Nat) : Nat × Bool :=
  let d := s.bytesAt { r := .acm cell, off := 5 * lane } 5
  (numOf d, anyPoi d)

/-- A write of a TXE command into accumulator memory: a lane takes its poison when the last of the bytes that the command writes have
come, from them alone. -/
def M.accWrite (m : M) (cell off : Nat) (writer : Nat × Nat) (data : List (Byte × Bool)) : M :=
  let key (i : Nat) : Nat := keyOf 6 cell (off + i)
  let m := m.write ((List.range data.length).map fun i => MemOp.byte (key i) (data.getD i (0, false)).1)
  let lanes := ((List.range data.length).map fun i => (off + i) / 5).eraseDups
  lanes.foldl (fun m l =>
    let mine := (List.range data.length).filter fun i => (off + i) / 5 == l
    let poi := mine.any fun i => (data.getD i (0, false)).2
    let k := m.s.cellAt cell
    let at_ := writer.2 * 2 ^ 20 + l
    let old := (k.laneParts.find? fun e => e.1 == writer.1 && e.2.1 == at_).map fun e => e.2.2
    let n := mine.length + (old.map fun e => e.1).getD 0
    let poi := poi || (old.map fun e => e.2).getD false
    let rest := k.laneParts.filter fun e => !(e.1 == writer.1 && e.2.1 == at_)
    if n < 5 then m.on fun s => s.setCell cell { k with laneParts := (writer.1, at_, n, poi) :: rest }
    else (m.on fun s => s.setCell cell { k with laneParts := rest }).write [MemOp.poison (keyOf 9 cell l) poi]) m

/-! ### Atomics (R299, R300, Table 13-3) -/

/-- The width in bits of a float format. -/
def ffBits : FFmt → Nat
  | .fp64 => 64
  | .fp32 => 32
  | _ => 16

/-- The width of an atomic. -/
def atomicBits : Instr → Nat
  | .aadd _ w _ => w.bits
  | .aand _ w _ => w.bits
  | .aor _ w _ => w.bits
  | .axor _ w _ => w.bits
  | .amin _ w _ => w.bits
  | .amax _ w _ => w.bits
  | .aminu _ w _ => w.bits
  | .amaxu _ w _ => w.bits
  | .aswap _ w _ => w.bits
  | .acas _ w _ => w.bits
  | .aadds _ w _ _ => w.bits
  | .aaddb _ w _ => w.bits
  | .afadd _ f _ _ => ffBits f
  | .afmin _ f _ _ => ffBits f
  | .afmax _ f _ _ => ffBits f
  | _ => 64

/-- Whether an atomic reads its upper half. -/
def atomicHi : Instr → Bool
  | .acas .. => true
  | .aaddb .. => true
  | _ => false

/-- The value an atomic writes, if it writes: x the old value, y operand b, z the upper half, all at the width.  DESIGN CHOICE (log
71): AFADD with DYN while FRM names stochastic rounding, which consumes no draw (R300), rounds with the draw 0. -/
def atomicNew (frm : BitVec 3) (i : Instr) (x y z : Nat) : Option Nat :=
  match i with
  | .aadd _ w _ => some (aluAdd w.bits x y)
  | .aand _ _ _ => some (x &&& y)
  | .aor _ _ _ => some (x ||| y)
  | .axor _ _ _ => some (x ^^^ y)
  | .amin _ w _ => some (aluMin w.bits x y)
  | .amax _ w _ => some (aluMax w.bits x y)
  | .aminu _ _ _ => some (min x y)
  | .amaxu _ _ _ => some (max x y)
  | .aswap _ _ _ => some y
  | .aadds _ w u _ => some (if u then aluAddsu w.bits x y else aluAdds w.bits x y)
  | .acas _ _ _ => if x = y then some z else none
  | .aaddb _ _ _ => if x + y ≤ z then some (x + y) else none
  | .afadd _ f m _ => some (fadd (fmtOf f) (rmMode frm m) 0 x y).1
  | .afmin _ f p _ => some (fminmax (fmtOf f) false p x y).1
  | .afmax _ f p _ => some (fminmax (fmtOf f) true p x y).1
  | _ => none

/-- Perform an atomic at its home, its first bytes elsewhere when it straddles the spill boundary (R56): the old value's bytes, and
the write. -/
def M.atomic (m : M) (c : Cmd) (p : Place) (lead : Option (Place × Nat)) : M × List (Byte × Bool) :=
  let w := atomicBits c.i
  let n := (lead.map fun e => e.2).getD 0
  let old := (lead.elim [] fun e => m.s.fetchBytes e.1 e.2) ++ m.s.fetchBytes p (w / 8 - n)
  let y := zextN c.b.v.toNat w
  let z := zextN c.hi.v.toNat w
  let poi := anyPoi old || c.b.poi || (atomicHi c.i && c.hi.poi) || c.pp
  match atomicNew c.frm c.i (numOf old) y z with
  | some v =>
      let d := bytesOf (w / 8) v poi
      ((lead.elim m fun e => (m.storeBytes e.1 (d.take n)).wake e.1).storeBytes p (d.drop n), old)
  | none => (m, old)

/-! ### Writes of an engine (R140, R319) -/

/-- The runs of consecutive chosen bytes from one index to another. -/
def maskRuns (mask : List Bool) : Nat → Nat → Option Nat → List (Nat × Nat)
  | 0, i, open_ => match open_ with
      | some j => [(j, i)]
      | none => []
  | n + 1, i, open_ =>
      let on := mask.getD i (mask.isEmpty)
      match open_, on with
      | none, true => maskRuns mask n (i + 1) (some i)
      | none, false => maskRuns mask n (i + 1) none
      | some j, true => maskRuns mask n (i + 1) (some j)
      | some j, false => (j, i) :: maskRuns mask n (i + 1) none

/-- Write the chosen bytes among bytes lo to hi of an engine's access (an empty mask chooses all); then every word that holds some of
them becomes full, once, and its waiters are served (R64). -/
def M.maskStore (m : M) (p : Place) (data : List (Byte × Bool)) (mask : List Bool) (lo hi : Nat) : M :=
  let runs := maskRuns mask (hi - lo) lo none
  let m := runs.foldl (fun m r => m.storeBytes { p with off := p.off + r.1 } ((data.drop r.1).take (r.2 - r.1))) m
  if p.r.hasFull && !runs.isEmpty then
    (m.write (runs.flatMap fun r => m.s.fullOps { p with off := p.off + r.1 } (r.2 - r.1) true)).serveWaits
  else m

/-! ### Launch records and the host's writes to them (R201, R463, R470) -/

/-- A place in HDM range 0, which slice 78 of field 7 backs (R462). -/
def hdm0 (off : Nat) : Place := { r := .carve 7 78, off := off }
/-- A number in launch record i. -/
def State.recNum (s : State) (i off n : Nat) : Nat := s.numAt (hdm0 (256 * i + off)) n
def State.recState (s : State) (i : Nat) : Nat := s.recNum i 0 2
/-- The device changes STATE or STATUS, or clears CTRL. -/
def M.setRec (m : M) (i off v : Nat) : M := m.putNum (hdm0 (256 * i + off)) 2 v
def M.setState (m : M) (i st status : Nat) : M := (m.setRec i 2 status).setRec i 0 st

/-- A final state (R201). -/
def finalState (st : Nat) : Bool := decide (5 ≤ st ∧ st ≤ 9)

/-- The STATE a host write of some bytes at HDM offset off would leave in record i. -/
def State.newState (s : State) (d : List Byte) (off i : Nat) : Nat :=
  let at_ (b : Nat) : Nat :=
    let o := 256 * i + b
    if off ≤ o then (match d[o - off]? with
      | some v => v.toNat
      | none => s.recNum i b 1) else s.recNum i b 1
  at_ 0 + 256 * at_ 1

/-- Whether the filter lets a byte of a host write through (R463). -/
def State.passes (s : State) (d : List Byte) (off : Nat) (poi : Bool) (o : Nat) : Bool :=
  let i := o / 256
  let b := o % 256
  let st := s.recState i
  if 0x4000 ≤ o then false
  else if b < 2 then
    let v := s.newState d off i
    !poi && ((st == 0 && v == 1) || (finalState st && v == 0))
  else if b < 4 then false
  else if b < 6 then st != 0
  else st == 0

/-- A host write to HDM range 0: what passes is stored, what does not counts once; a new STATE or CTRL arms the write watch (R464). -/
def M.recordWrite (m : M) (off : Nat) (d : List Byte) (poi : Bool) : M :=
  let s := m.s
  let mask := (List.range d.length).map fun j => s.passes d off poi (off + j)
  let data := d.map fun b => (b, poi)
  let ids := ((List.range d.length).map fun j => (off + j) / 256).eraseDups.filter fun i => i < 64
  let was := ids.map fun i => (i, s.recState i)
  let m := (maskRuns mask d.length 0 none).foldl (fun (m : M) r =>
    m.write (m.s.writeOps (hdm0 (off + r.1)) ((data.drop r.1).take (r.2 - r.1)))) m
  let m := if mask.all (fun b => b) then m else m.on State.hostDrop
  let m := was.foldl (fun (m : M) e =>
    let st := m.s.recState e.1
    if st = e.2 then m
    else m.on fun s => { s with launches := s.launches.set e.1 { posted := s.vtime.toNat } }) m
  let ctrl := ids.filter fun i => (List.range d.length).any fun j => mask.getD j false && (off + j == 256 * i + 4 || off + j == 256 * i + 5)
  ctrl.foldl (fun (m : M) i => m.on fun s =>
    { s with launches := s.launches.set i { s.launches.get {} i with ctrlAt := some s.vtime.toNat } }) m

/-! ### One position in home order -/

/-- The end of the next single-copy atomic unit of an access (R53): all of it when it is aligned and small enough for
the mode, else to the next 32-byte or 4-byte boundary. -/
def unitEnd (fmode at_ : Bool) (addr len done : Nat) : Nat :=
  if len = 0 ∨ addr % len = 0 ∧ ((at_ ∧ len ≤ 16) ∨ (fmode ∧ len ≤ 32) ∨ len ≤ 4) then len
  else
    let q := if fmode ∧ addr % len = 0 then 32 else 4
    min len (done + (q - (addr + done) % q))

/-- Where full/empty bits are set, an engine's write is performed by whole 8-byte words, and all of it when it covers no more
than two: both bits change in one core cycle (R64). -/
def wordEnd (addr len e : Nat) : Nat :=
  if (addr + len - 1) / 8 - addr / 8 ≤ 1 then len else min len ((addr + e + 7) / 8 * 8 - addr)

/-- Perform the next part of an access at its place.  The access that is left, if it is not finished. -/
def M.performAt (m : M) (a : Acc) (p : Place) : M × Option Acc :=
  let e := unitEnd a.fmode a.at_ p.off a.len a.done
  match a.op with
  | .read =>
      let q := { p with off := p.off + a.done }
      let d := a.got ++ m.s.forwarded a q (m.s.fetchBytes q (e - a.done))
      if e < a.len then (m, some { a with done := e, got := d })
      else ((m.respond a d none).performed a, none)
  | .write data =>
      let m := ((m.storeBytes { p with off := p.off + a.done } ((data.drop a.done).take (e - a.done))).closeUnits p data [] a.done e).wake p
      if e < a.len then (m, some { a with done := e }) else ((m.performed a).respond a [] none, none)
  | .engWrite data mask =>
      (match p.r with
       | .opm cell =>
           (match m.tileWrite cell p.off (m.s.writerOf a) data with
            | some m => ((m.performed a).respond a [] none, none)
            | none => (m, some a))
       | .acm cell => (((m.accWrite cell p.off (m.s.writerOf a) data).performed a).respond a [] none, none)
       | _ =>
           let e := if p.r.hasFull then wordEnd p.off a.len e else e
           let m := (m.maskStore p data mask a.done e).closeUnits p data mask a.done e
           if e < a.len then (m, some { a with done := e }) else ((m.performed a).respond a [] none, none))
  | .stf data =>
      if p.r.hasFull then (((m.engStore p data).performed a).respond a [] none, none)
      else (m.dropAcc a cSpace (m.s.distance a.cell p), none)
  | .ldf =>
      if p.r.hasFull then (m.arriveWait { a with place := some p }, none)
      else (m.dropAcc a cSpace (m.s.distance a.cell p), none)
  | .ldfe =>
      if p.r.hasFull then (m.arriveWait { a with place := some p }, none)
      else (m.dropAcc a cSpace (m.s.distance a.cell p), none)
  | .syncw g =>
      if p.r.hasFull then (m.arriveWait { a with place := some p, op := .syncw g }, none)
      else (m.dropAcc a cSpace (m.s.distance a.cell p), none)
  | .atomic c =>
      let (m, old) := m.atomic c p a.lead
      let m := match a.who with
        | .vxe _ _ => m.fillWords p a.len
        | _ => m.wake p
      ((m.respond a old none).performed a, none)
  | .count n poi => (((m.syncArrive p n poi).performed a).respond a [] none, none)
  | .record off d poi => (((m.recordWrite off d poi).performed a).respond a [] none, none)
  | .arrive _ _ => (m, none)
  | .message _ => (m, none)

end Sys2Proof.Machine
end

