-- ==== Sys2Proof/Machine/Memory.lean ====
section
/-! DEFINITION. Machine/Memory.lean: the firing of loads, stores, atomics, fences, semaphore, barrier and message
instructions (R291 to R308).  Firing checks addresses and, for local loads, reads; everything else takes effect at
commit, in the store queue, or at the home. -/
namespace Sys2Proof.Machine
open Sys2Proof

/-! ### Addresses (R294) -/

/-- Bits of the offset part of a space (R294). -/
def offsetBits (space : Nat) : Nat :=
  match space with
  | 0 => 35
  | 1 => 32
  | 2 => 35
  | 3 => 16
  | _ => 27

/-- The effective address of a base and a displacement, or a fault with its TVAL. -/
def effAddr (a : Tok) (disp : Int) : Except (Cause × Word) Word :=
  let ea := a.v + BitVec.ofInt 64 disp
  let sp := fld ea 61 3
  if a.poi then .error (cPoison, a.v)
  else if sp = 4 ∨ sp = 5 ∨ sp = 6 then .error (cSpace, ea)
  else if ea.toNat / 2 ^ offsetBits sp ≠ a.v.toNat / 2 ^ offsetBits sp then .error (cSpace, ea)
  else .ok ea

/-- The route of an access of n bytes, with alignment checked after the layout (R30, R48, R297). -/
def Env.access (e : Env) (a : Tok) (disp : Int) (n : Nat) (aligned : Bool) : Except (Cause × Word) (Word × Route) :=
  match effAddr a disp with
  | .error f => .error f
  | .ok ea =>
      match e.s.blockRoute e.cell e.x ea n with
      | .bad c => .error (c, ea)
      | .mmio o => if n = 8 ∧ ea.toNat % 8 = 0 then .ok (ea, .mmio o) else .error (cAlign, ea)
      | r => if crosses ea n ∨ (aligned ∧ ea.toNat % n ≠ 0) then .error (cAlign, ea) else .ok (ea, r)

/-- The route of an access that may not name the MMIO window: a space or bound fault there, whatever its width (R298, R299,
R303). -/
def Env.accessMem (e : Env) (a : Tok) (disp : Int) (n : Nat) (aligned : Bool) : Except (Cause × Word) (Word × Route) :=
  match effAddr a disp with
  | .error f => .error f
  | .ok ea =>
      match e.s.blockRoute e.cell e.x ea n with
      | .mmio _ => .error (cSpace, ea)
      | _ => e.access a disp n aligned

/-! ### What holds a load back (R165, R166, R168, R171) -/

def isFence : Instr → Bool
  | .fence .. => true
  | _ => false

/-- An acquire in the sense of R166. -/
def isAcquire : Instr → Bool
  | .sacq .. => true
  | .sacqt .. => true
  | .cbar .. => true
  | .cwait .. => true
  | .cwaitChk .. => true
  | _ => false

/-- Whether the first n instructions of a block hold a fence that has not fired or an acquire not yet served. -/
def Block.holdsLoads (b : Block) (n : Nat) : Bool :=
  (b.insts.take n).any fun k => match (decodeRaw k.word).toOption with
    | some i => (isFence i || isAcquire i) && k.st != .fired && k.st != .nulled
    | none => false

/-- Whether a scalar load among the first n has neither fired nor nulled: the local loads of a context are performed in order. -/
def Block.loadAhead (b : Block) (n : Nat) : Bool :=
  (b.insts.take n).any fun k => k.st == .waiting && (match (decodeRaw k.word).toOption.bind infoOf with
    | some f => f.kind == .load && f.eng.isNone
    | none => false)

/-- Whether some local load among the first n still waits at its home. -/
def Block.heldLoads (b : Block) (n : Nat) : Bool := (b.insts.take n).any fun k => k.st == .held

/-- The address and length that a store which has not fired will use: none while its base or its predicate is awaited. -/
def InstSt.storeTo (n : InstSt) : Option (Tok × Int × Nat) :=
  match (decodeRaw n.word).toOption with
  | some (.st h w _ x2 l) => if predTest h.pr n.p = some true then n.a.tok.map fun t => (t, l.disp.toInt, if x2 then 16 else w.bits / 8) else none
  | some (.stf h w l) => if predTest h.pr n.p = some true then n.a.tok.map fun t => (t, l.disp.toInt, w.bits / 8) else none
  | _ => none
/-- Whether an earlier store of the context that has not fired may write bytes of a local access at a place: its data may still be to
come, and then only its address says (R164, R165). -/
def Env.storeMeets (e : Env) (n : InstSt) (p : Place) (len : Nat) : Bool :=
  n.st == .waiting && (match (decodeRaw n.word).toOption with
    | some i => isStore i && (match n.storeTo with
      | none => true
      | some (t, d, k) =>
          let rt := e.s.blockRoute e.cell e.x (t.v + BitVec.ofInt 64 d) k
          match e.s.routePlace rt with
          | some q => (e.s.keysOf q (rt.localLen k)).any fun key => key.isSome && (e.s.keysOf p len).contains key
          | none => false)
    | none => false)
/-- No earlier store that has not fired may write bytes of a local access. -/
def Env.storesClear (e : Env) (rt : Route) (len : Nat) : Bool :=
  match e.s.routePlace rt with
  | none => true
  | some p => ((e.c.flight.take e.pos).flatMap (fun b => b.insts) ++ e.blk.insts.take e.idx).all fun n => !e.storeMeets n p len

/-- No older fence or acquire, and no earlier load that has not fired, stands before a load. -/
def Env.loadClear (e : Env) : Bool :=
  (e.c.flight.take e.pos).all (fun b => !b.holdsLoads b.insts.length && !b.loadAhead b.insts.length) &&
  !e.blk.holdsLoads e.idx && !e.blk.loadAhead e.idx

/-- Local loads of a context are performed in program order (R165). -/
def Env.localClear (e : Env) : Bool :=
  (e.c.flight.take e.pos).all (fun b => !b.heldLoads b.insts.length) && !e.blk.heldLoads e.idx

/-- Whether the order port still waits for its token. -/
def Env.tokWaits (e : Env) : Bool := e.s.waitOf e.wait == .waiting

/-- No older block in flight holds a read of VTIME, or a load that may be one, still to fire: the values that a context
reads do not decrease in block order (R22). -/
def Env.vtimeClear (e : Env) : Bool :=
  (e.c.flight.take e.pos).all fun b => b.insts.all fun n => n.st != .waiting || (match (decodeRaw n.word).toOption with
    | some (.ld ..) => false
    | some (.csrr _ k) => k != 0x100
    | some (.csrs _ k) => k != 0x100
    | some (.csrc _ k) => k != 0x100
    | some (.csrx _ k) => k != 0x100
    | _ => true)

/-- A local load of n bytes may fire now; a remote one fires at once and waits for REMOTE_LOAD_ISSUE. -/
def Env.loadOk (e : Env) (n : Nat) (r : Except (Cause × Word) (Word × Route)) : Bool :=
  match r with
  | .ok (_, .tag _) => true
  | .ok (_, .split _ _ _) => true
  | .error _ => true
  | .ok (_, .mmio o) => !e.tokWaits && e.loadClear && e.localClear && (o != 0x1000 || e.vtimeClear)
  | .ok (_, rt) => !e.tokWaits && e.loadClear && e.localClear && e.storesClear rt n && !e.atomicAhead rt n

/-! ### Forwarding (R164) -/

/-- Bytes of a local load: the home's, with those of the context's earlier local stores on top. -/
def Env.localBytes (e : Env) (p : Place) (n : Nat) : List (Byte × Bool) := e.forward p (e.s.fetchBytes p n)

/-! ### Loads -/

/-- How a load's bytes become its result: bytes, sign extension, two halves. -/
structure LoadForm where
  n : Nat
  sgn : Bool := false
  two : Bool := false
  deriving DecidableEq, Repr, Inhabited

/-- What a load with its bytes sends: the result, after a done token already sent (R292, R296). -/
def loadEff (f : Info) (k : LoadForm) (pp : Bool) (d : List (Byte × Bool)) : Eff :=
  let add (t : Tok) : Tok := { t with poi := t.poi || pp }
  if k.two then { outA := .tok (add (tokOfBytes false (d.take 8))), outB := .tok (add (tokOfBytes false (d.drop 8))) }
  else
    let t := add (tokOfBytes k.sgn d)
    if f.tsc == .none then effTok t else { outB := .tok t, sentA := true }

/-- The form of a load instruction. -/
def loadForm : Instr → LoadForm
  | .ld _ w sgn _ x2 _ => { n := if x2 then 16 else w.bits / 8, sgn := sgn, two := x2 }
  | .ldf _ w sgn _ => { n := w.bits / 8, sgn := sgn }
  | .ldfe _ w sgn _ => { n := w.bits / 8, sgn := sgn }
  | .syncw _ _ => { n := 4 }
  | _ => { n := 8 }

/-- An access of a block's load. -/
def Env.loadAcc (e : Env) (id : Nat) (ea : Word) (op : Op) (n : Nat) (at_ : Bool) (tok : Option (Nat × Scope)) : Acc :=
  { id := id, who := .ctx e.cell e.x, cell := e.cell, vc := if e.blk.sup then 7 else e.c.rvc.toNat, addr := ea, len := n,
    op := op, back := .inst e.cell e.x e.blk.id e.idx, tok := tok, sup := e.blk.sup,
    fmode := e.blk.fmode, at_ := at_, hno := e.c.hno }

/-- A load of the MMIO window (Table 2-9): the value read. -/
def State.mmioRead (s : State) (cell x o : Nat) : Option Nat :=
  let c := s.ctxAt cell x
  if o < 0x100 then (if o % 8 = 0 then some 0 else none)
  else
    match o with
    | 0x0200 => some (s.cellAt cell).treestat
    | 0x1000 => some s.vtime.toNat
    | 0x1008 => some c.mytag.toNat
    | 0x1010 => some (s.tcmsz cell)
    | 0x1018 => some (s.cspsz (clusterOf cell))
    | 0x1020 => some (s.fssz (fieldOf cell))
    | 0x1028 => some (s.vltsz cell)
    | 0x1030 => some netcap
    | 0x1038 => some (s.cellAt cell).cfg
    | 0x1040 => some c.spillb.toNat
    | 0x1048 => some c.spills.toNat
    | 0x1050 => some c.ovfptr.toNat
    | 0x1058 => some c.ovfsz.toNat
    | 0x1060 => some c.sterr.toNat
    | 0x1068 => some c.sterra.toNat
    | _ => none

/-- The channel of a TREEEXT offset. -/
def treeExt (o : Nat) : Option Nat := if 0x100 ≤ o ∧ o < 0x200 ∧ o % 8 = 0 then some ((o - 0x100) / 8) else none

/-- The extract-queue entries of a channel that a block has not read yet (R51). -/
def Env.treeLeft (e : Env) (ch : Nat) : List Tok :=
  let all := ((e.s.cellAt e.cell).ext.filter fun q => q.1 == ch).map fun q => q.2
  let taken (b : Block) : Nat := (b.acts.filter fun a => a.2 == .pop ch).length
  all.drop (((e.c.flight.take (e.pos + 1)).map taken).foldl (· + ·) 0)

/-- A load's token: created, and emitted at once when the load has been performed. -/
def M.loadTok (m : M) (f : Info) (now : Bool) : M × Option (Nat × Scope) × Sent :=
  let (m, t, h) := m.withTok f
  (if now then m.on fun s => s.emitOf t else m, t, h)

/-- Combine a load's handle with its result. -/
def withHandle (f : Info) (h : Sent) (r : Eff) : Eff := if f.tsc == .none then r else { r with outA := h, sentA := false }

/-- A load that waits for REMOTE_LOAD_ISSUE. -/
def Env.loadRemote (e : Env) (i : Instr) (m : M) (ea : Word) (rt : Route) (n : Nat) : M × Eff :=
  let (id, s) := m.s.takeId
  let (m, tk, h) := ({ m with s := s } : M).withTok e.f
  let c := { e.cmd i with id := id, ea := ea, route := rt, len := n, tok := tk }
  (m.on fun s => s.onCtx e.cell e.x fun q => match q.block e.pos with
      | some b => q.setBlock e.pos { b with loads := b.loads ++ [c] }
      | none => q, { outA := h, st := .issued })

/-- A load at its route: local bytes now when they are one single-copy atomic unit, in pieces of its own at its home otherwise
(R30, R53, R178), a hold at a ring, the MMIO window, or a request for REMOTE_LOAD_ISSUE. -/
def Env.load (e : Env) (i : Instr) (m : M) (r : Except (Cause × Word) (Word × Route)) (op : Op) (at_ : Bool) : M × Eff :=
  let k := loadForm i
  match m.s.waitOf e.wait with
  | .error c a => (m, effFault c a)
  | _ =>
    match r with
    | .error (c, v) => (m, effFault c v)
    | .ok (ea, .mmio o) =>
        (match treeExt o with
         | some ch =>
             (match e.treeLeft ch with
              | t :: _ =>
                  let (m, _, h) := m.loadTok e.f true
                  (m, withHandle e.f h { (effTok { t with poi := t.poi || e.pp }) with acts := [.pop ch] })
              | [] =>
                  if op = .ldf then
                    let (id, s) := m.s.takeId
                    let (m, tk, h) := ({ m with s := s } : M).withTok e.f
                    (m.on fun s => { s with held := s.held ++ [e.loadAcc id ea .ldf 8 false tk] }, { outA := h, st := .held })
                  else
                    let (m, _, h) := m.loadTok e.f true
                    (m.on fun s => s.onCell e.cell fun q => { q with missNow := true },
                      withHandle e.f h (e.res 0 false)))
         | none =>
             if op = .read then
               (match m.s.mmioRead e.cell e.x o with
                | some v =>
                    let (m, _, h) := m.loadTok e.f true
                    let m := if o = 0x0200 then m.on fun s => s.csrSide e.cell 0x109 else m
                    (m, withHandle e.f h (loadEff e.f k e.pp (bytesOf 8 v)))
                | none => (m, effFault cSpace ea))
             else (m, effFault cSpace ea))
    | .ok (ea, .tag t) => e.loadRemote i m ea (.tag t) k.n
    | .ok (ea, .split p n t) => e.loadRemote i m ea (.split p n t) k.n
    | .ok (ea, rt) =>
        let held := match rt with
          | .ring q _ _ => m.s.ringHeld q (ringBitCtx q e.cell e.x)
          | _ => false
        let place := (m.s.routePlace rt).getD { r := .tcm e.cell, off := 0 }
        if held then
          let (id, s) := m.s.takeId
          let (m, tk, h) := ({ m with s := s } : M).withTok e.f
          let a := { e.loadAcc id ea op k.n at_ tk with ring := (match rt with
            | .ring q kk off => some (q, kk, off)
            | _ => none) }
          (m.on fun s => { s with held := s.held ++ [a] }, { outA := h, st := .held })
        else if op = .read ∧ unitEnd e.blk.fmode at_ place.off k.n 0 = k.n then
          let d := e.localBytes place k.n
          let (m, _, h) := m.loadTok e.f true
          (m, withHandle e.f h (loadEff e.f k e.pp d))
        else if op = .read then
          let (id, s) := m.s.takeId
          let (m, tk, h) := ({ m with s := s } : M).withTok e.f
          let a := { e.loadAcc id ea op k.n at_ tk with
            ring := (match rt with
              | .ring q kk off => some (q, kk, off)
              | _ => none)
            place := (match rt with
              | .ring _ _ _ => none
              | _ => some place) }
          (m.on fun s => { s with net := s.net ++ [a] }, { outA := h, st := .held })
        else
          let (id, s) := m.s.takeId
          let (m, tk, h) := ({ m with s := s } : M).withTok e.f
          let a := { e.loadAcc id ea op k.n at_ tk with place := some place }
          (m.arriveWait a, { outA := h, st := .held })

def execLd (h : Hdr) (w : Width) (sgn at_ x2 : Bool) (l : LayA) (s : State) : Host.Outcome State Fault Refusal :=
  let i := Instr.ld h w sgn at_ x2 l
  let r (e : Env) := e.access (e.tok .a) l.disp.toInt (loadForm i).n at_
  fireH i (fun e => e.loadOk (loadForm i).n (r e)) (fun e m => e.load i m (r e) .read at_) s
def execLdf (h : Hdr) (w : Width) (sgn : Bool) (l : LayA) (s : State) : Host.Outcome State Fault Refusal :=
  let i := Instr.ldf h w sgn l
  let r (e : Env) := e.access (e.tok .a) l.disp.toInt (loadForm i).n false
  fireH i (fun e => e.loadOk (loadForm i).n (r e)) (fun e m => e.load i m (r e) .ldf false) s

/-- SYNCW's access: 16-byte aligned, and a home with full/empty bits when the home is known at issue (R303). -/
def Env.syncAccess (e : Env) (l : LayA) : Except (Cause × Word) (Word × Route) :=
  e.accessMem (e.tok .a) l.disp.toInt 16 true
/-- The generation a SYNCW waits for. -/
def Env.syncGen (e : Env) : BitVec 32 := (e.tok .b).v.setWidth 32
def execSyncw (h : Hdr) (l : LayA) (s : State) : Host.Outcome State Fault Refusal :=
  let i := Instr.syncw h l
  fireH i (fun e => e.loadOk 16 (e.syncAccess l)) (fun e m => e.load i m (e.syncAccess l) (.syncw e.syncGen) false) s

/-! ### Stores, atomics and other store-queue operations -/

/-- Queue a command at commit; its done token is made now (R168). -/
def Env.queue (e : Env) (m : M) (c : Cmd) : M × Eff :=
  let (m, tk, h) := m.withTok e.f
  (m, { outA := h, acts := [.queue { c with tok := tk, slots := e.f.slotTargets }] })

/-- Queue an access at its route, after the checks a store makes at issue (R48, R60).  DESIGN CHOICE (log 72): the home of an LDFE or STF
named by a tag is not known at issue, whatever its REGION says; one without full/empty bits refuses it there (R63). -/
def Env.queueAt (e : Env) (i : Instr) (m : M) (n : Nat) (r : Except (Cause × Word) (Word × Route)) (mmioOk : Nat → Bool)
    (writes : Bool) : M × Eff :=
  match r with
  | .error (c, v) => (m, effFault c v)
  | .ok (ea, rt) =>
      let bad := match rt with
        | .mmio o => !mmioOk o
        | .here p => writes && e.s.codeWrite p n e.blk.sup
        | .split p k _ => writes && e.s.codeWrite p k e.blk.sup
        | _ => false
      if bad then (m, effFault cSpace ea)
      else e.queue m { e.cmd i with ea := ea, route := rt, len := n }

/-- A TREEINJ offset. -/
def treeInj (o : Nat) : Bool := o < 0x100 && o % 8 == 0

def execSt (h : Hdr) (w : Width) (at_ x2 : Bool) (l : LayA) (s : State) : Host.Outcome State Fault Refusal :=
  let i := Instr.st h w at_ x2 l
  let n := if x2 then 16 else w.bits / 8
  fireS i (fun e m => e.queueAt i m n (e.access (e.tok .a) l.disp.toInt n at_) treeInj true) s
def execStf (h : Hdr) (w : Width) (l : LayA) (s : State) : Host.Outcome State Fault Refusal :=
  let i := Instr.stf h w l
  let n := w.bits / 8
  fireS i (fun e m => e.queueAt i m n (e.accessMem (e.tok .a) l.disp.toInt n false) (fun _ => false) true) s
/-- LDFE may name TREEEXT, where it waits for an entry (R51, R298). -/
def execLdfe (h : Hdr) (w : Width) (sgn : Bool) (l : LayA) (s : State) : Host.Outcome State Fault Refusal :=
  let i := Instr.ldfe h w sgn l
  let n := w.bits / 8
  fireS i (fun e m => e.queueAt i m n (e.access (e.tok .a) l.disp.toInt n false) (fun o => (treeExt o).isSome) false) s

/-- An atomic: aligned to its width, never in the MMIO window (R299). -/
def Env.atomicAt (e : Env) (i : Instr) (l : LayA) (m : M) : M × Eff :=
  let n := atomicBits i / 8
  e.queueAt i m n (e.accessMem (e.tok .a) l.disp.toInt n true) (fun _ => false) true

def execAadd (h : Hdr) (w : Width) (l : LayA) (s : State) : Host.Outcome State Fault Refusal :=
  fireS (.aadd h w l) (fun e m => e.atomicAt (.aadd h w l) l m) s
def execAand (h : Hdr) (w : Width) (l : LayA) (s : State) : Host.Outcome State Fault Refusal :=
  fireS (.aand h w l) (fun e m => e.atomicAt (.aand h w l) l m) s
def execAor (h : Hdr) (w : Width) (l : LayA) (s : State) : Host.Outcome State Fault Refusal :=
  fireS (.aor h w l) (fun e m => e.atomicAt (.aor h w l) l m) s
def execAxor (h : Hdr) (w : Width) (l : LayA) (s : State) : Host.Outcome State Fault Refusal :=
  fireS (.axor h w l) (fun e m => e.atomicAt (.axor h w l) l m) s
def execAmin (h : Hdr) (w : Width) (l : LayA) (s : State) : Host.Outcome State Fault Refusal :=
  fireS (.amin h w l) (fun e m => e.atomicAt (.amin h w l) l m) s
def execAmax (h : Hdr) (w : Width) (l : LayA) (s : State) : Host.Outcome State Fault Refusal :=
  fireS (.amax h w l) (fun e m => e.atomicAt (.amax h w l) l m) s
def execAminu (h : Hdr) (w : Width) (l : LayA) (s : State) : Host.Outcome State Fault Refusal :=
  fireS (.aminu h w l) (fun e m => e.atomicAt (.aminu h w l) l m) s
def execAmaxu (h : Hdr) (w : Width) (l : LayA) (s : State) : Host.Outcome State Fault Refusal :=
  fireS (.amaxu h w l) (fun e m => e.atomicAt (.amaxu h w l) l m) s
def execAswap (h : Hdr) (w : Width) (l : LayA) (s : State) : Host.Outcome State Fault Refusal :=
  fireS (.aswap h w l) (fun e m => e.atomicAt (.aswap h w l) l m) s
def execAcas (h : Hdr) (w : Width) (l : LayA) (s : State) : Host.Outcome State Fault Refusal :=
  fireS (.acas h w l) (fun e m => e.atomicAt (.acas h w l) l m) s
def execAaddb (h : Hdr) (w : Width) (l : LayA) (s : State) : Host.Outcome State Fault Refusal :=
  fireS (.aaddb h w l) (fun e m => e.atomicAt (.aaddb h w l) l m) s
def execAadds (h : Hdr) (w : Width) (u : Bool) (l : LayA) (s : State) : Host.Outcome State Fault Refusal :=
  fireS (.aadds h w u l) (fun e m => e.atomicAt (.aadds h w u l) l m) s
def execAfadd (h : Hdr) (f : FFmt) (r : Rm) (l : LayA) (s : State) : Host.Outcome State Fault Refusal :=
  fireS (.afadd h f r l) (fun e m => e.atomicAt (.afadd h f r l) l m) s
def execAfmin (h : Hdr) (f : FFmt) (p : Bool) (l : LayA) (s : State) : Host.Outcome State Fault Refusal :=
  fireS (.afmin h f p l) (fun e m => e.atomicAt (.afmin h f p l) l m) s
def execAfmax (h : Hdr) (f : FFmt) (p : Bool) (l : LayA) (s : State) : Host.Outcome State Fault Refusal :=
  fireS (.afmax h f p l) (fun e m => e.atomicAt (.afmax h f p l) l m) s

/-! ### Fences (R171, R172, R301) -/

/-- Whether an outstanding operation of the context is covered by a scope. -/
def Ctx.outCovered (c : Ctx) (sc : Scope) : Bool := c.outs.any fun o => covers sc o.2

/-- An engine command that makes memory accesses. -/
def cmdAccesses (c : Cmd) : Bool :=
  match c.i with
  | .mdrn .. => true
  | .mdrnt .. => true
  | i => match infoOf i with
    | some f => f.eng == some .vxe && f.kind != .engine
    | none => false

/-- Whether an access of a running engine command has not completed its wait at a scope (R160, R171). -/
def Fly.open (f : Fly) (sc : Scope) : Bool := !f.wr || covers sc f.dist

/-- Every access of the VXE and MXE commands the context committed earlier has completed its wait at a scope. -/
def State.enginesClear (s : State) (cell x : Nat) (sc : Scope) : Bool :=
  let k := s.cellAt cell
  (k.vxq ++ k.mxq).all (fun c => c.x != x || !cmdAccesses c) &&
  k.vxRun.all (fun r => r.cmd.x != x || (r.elems.isEmpty && r.flying.all fun f => !f.open sc)) &&
  k.mxRun.all (fun r => r.cmd.x != x || r.flying.all fun f => !f.open sc)

/-- A FENCE fires when every older block has committed, every earlier operation has left the queue and, when covered,
been performed, the engines' accesses are done, and the loads before it in its block have returned.  DESIGN CHOICE (log 57): it
waits for no engine command of its own block, which starts only after the commit that waits for the FENCE (R171). -/
def Env.fenceOk (e : Env) (sc : Scope) : Bool :=
  e.pos == 0 && e.c.sq.isEmpty && !e.c.outCovered sc && e.s.enginesClear e.cell e.x sc &&
  (e.blk.insts.take e.idx).all fun k => match (decodeRaw k.word).toOption with
    | some i => (match infoOf i with
      | some f => f.seq.isNone || f.eng.isSome
      | none => true) || k.st == .fired || k.st == .nulled || k.st == .faulted
    | none => true

/-- FENCE fires, or raises the fault of a covered operation dropped before it (R41, R171). -/
def execFence (h : Hdr) (seq : BitVec 5) (sc : Scope) (s : State) : Host.Outcome State Fault Refusal :=
  fireH (.fence h seq sc) (fun e => e.fenceOk sc) (fun e m =>
    match e.c.drops.find? fun d => covers sc d.2.2.2 with
    | some (_, c, a, _) => (m, effFault c a)
    | none => (m, effNone)) s
def execCfence (h : Hdr) (seq : BitVec 5) (s : State) : Host.Outcome State Fault Refusal :=
  fireS (.cfence h seq) (fun e m => e.queue m (e.cmd (.cfence h seq))) s

/-! ### Semaphores, barriers, messages (R302 to R308) -/

/-- The amount of layout Q. -/
def Env.amount (e : Env) (l : LayQ) : Nat :=
  match l.amt with
  | some n => n.toNat
  | none => e.b % 2 ^ 32
/-- A poisoned amount from port b faults (R302). -/
def Env.amountPoisoned (e : Env) (l : LayQ) : Bool := l.amt.isNone && e.pb

/-- A commit-time instruction that is served with its block's commit (R166): it waits as `acquiring`. -/
def Env.acquire (e : Env) (m : M) (c : Cmd) : M × Eff :=
  let (m, tk, h) := m.withTok e.f
  let c := { c with tok := tk, slots := e.f.slotTargets }
  (m.on fun s => s.onCtx e.cell e.x fun q => match q.block e.pos with
      | some b => q.setBlock e.pos { b with acqs := b.acqs ++ [(e.idx, c, false)] }
      | none => q, { outA := h, st := .acquiring })

def execSacq (h : Hdr) (l : LayQ) (s : State) : Host.Outcome State Fault Refusal :=
  fireS (.sacq h l) (fun e m =>
    if e.amountPoisoned l then (m, effFault cPoison (e.tok .b).v)
    else e.acquire m { e.cmd (.sacq h l) with len := e.amount l }) s
def execSacqt (h : Hdr) (l : LayQ) (s : State) : Host.Outcome State Fault Refusal :=
  fireS (.sacqt h l) (fun e m =>
    if e.amountPoisoned l then (m, effFault cPoison (e.tok .b).v)
    else e.acquire m { e.cmd (.sacqt h l) with len := e.amount l }) s
def execSrel (h : Hdr) (l : LayQ) (s : State) : Host.Outcome State Fault Refusal :=
  fireS (.srel h l) (fun e m =>
    if e.amountPoisoned l then (m, effFault cPoison (e.tok .b).v)
    else e.queue m { e.cmd (.srel h l) with len := e.amount l }) s

/-- A fault whose TVAL the spec does not state. -/
def M.freeFault (m : M) (c : Cause) : M × Eff :=
  let (v, s) := m.s.takeFree
  ({ m with s := s }, effFault c v)

def execSbar (h : Hdr) (seq : BitVec 5) (tsc : Scope) (ring : BitVec 5) (s : State) : Host.Outcome State Fault Refusal :=
  fireS (.sbar h seq tsc ring) (fun e m =>
    if (e.s.ringAt (ringRef e.cell ring.toNat)).valid then e.queue m (e.cmd (.sbar h seq tsc ring))
    else m.freeFault cSpace) s
def execCbar (h : Hdr) (seq : BitVec 5) (cb : BitVec 3) (s : State) : Host.Outcome State Fault Refusal :=
  fireS (.cbar h seq cb) (fun e m =>
    let b := (e.s.clusterAt (clusterOf e.cell)).cb.get {} cb.toNat
    if b.mask.getLsbD (4 * (e.cell % 16) + e.x) then e.acquire m (e.cmd (.cbar h seq cb))
    else m.freeFault cSpace) s

/-- The tag checks of SEND and WAKE at issue (R307). -/
def Env.tagFault (e : Env) : Option Cause :=
  let t := (e.tok .a).v
  if e.pa then some cPoison
  else if fld t 24 40 ≠ 0 ∨ fld t 0 4 ≠ 0 then some cSpace
  else if (e.s.ftab.get 0 (fld t 17 7)).getLsbD 15 then none
  else some cTrans
def Env.message (e : Env) (i : Instr) (m : M) : M × Eff :=
  match e.tagFault with
  | some c => (m, effFault c (e.tok .a).v)
  | none => e.queue m { e.cmd i with ea := (e.tok .a).v }
def execSend (h : Hdr) (l : LayS) (s : State) : Host.Outcome State Fault Refusal :=
  fireS (.send h l) (fun e m => e.message (.send h l) m) s
def execWake (h : Hdr) (l : LayS) (s : State) : Host.Outcome State Fault Refusal :=
  fireS (.wake h l) (fun e m => e.message (.wake h l) m) s

end Sys2Proof.Machine
end

