-- ==== Sys2Proof/Machine/Predecode.lean ====
section
/-! DEFINITION. Machine/Predecode.lean: the checks of a block at entry (R221, R222, R228 to R231, R138, R169, R171,
R292, R295, R312, R365, Table 10-8), in three passes, and the block in flight that a clean image gives (R222, R225). -/
namespace Sys2Proof.Machine
open Sys2Proof

/-- A block as fetched: H0, H1, its sixteen read entries, its instruction words. -/
structure Image where
  h0 : Word
  h1 : Word
  reads : List (BitVec 24)
  words : List Word
  deriving DecidableEq, Repr, Inhabited

/-- Little-endian bits of some fetched bytes (R2, R220). -/
def bitsAt (w : Nat) (d : List (Byte × Bool)) (off n : Nat) : BitVec w := BitVec.ofNat w (numOf ((d.drop off).take n))

def icntOf (h0 : Word) : Nat := fld h0 50 8
/-- Bytes of a block (R220); a count beyond 128 is fetched as 128. -/
def blockBytes (h0 : Word) : Nat := 64 + 8 * min (icntOf h0) 128

def imageOf (d : List (Byte × Bool)) : Image :=
  let h0 := bitsAt 64 d 0 8
  { h0 := h0, h1 := bitsAt 64 d 8 8, reads := (List.range 16).map fun j => bitsAt 24 d (16 + 3 * j) 3,
    words := (List.range (min (icntOf h0) 128)).map fun i => bitsAt 64 d (64 + 8 * i) 8 }

def Image.nmem (m : Image) : Nat := fld m.h0 44 6
def Image.nst (m : Image) : Nat := fld m.h0 39 5
def Image.nsend (m : Image) : Nat := fld m.h0 36 3
def Image.nexit (m : Image) : Nat := fld m.h0 32 4
def Image.nread (m : Image) : Nat := fld m.h0 27 5

/-! ### Counts over the opcodes as they stand (R231) -/

def opOf (w : Word) : Nat := fld w 56 8
/-- R228. -/
def opSeq (op : Nat) : Bool :=
  (0x60 ≤ op && op ≤ 0x7D) || (0x80 ≤ op && op ≤ 0xA7) || (0xB0 ≤ op && op ≤ 0xBD) || (0xC0 ≤ op && op ≤ 0xCA)
/-- Counted in NST (Table 13-2, R376, R378). -/
def opNst (op : Nat) : Bool :=
  op == 0x61 || op == 0x63 || op == 0x64 || (0x65 ≤ op && op ≤ 0x72) || op == 0x74 || op == 0x77 || op == 0x79 ||
  op == 0x7D || op == 0xC7 || op == 0xCA
def opSend (op : Nat) : Bool := op == 0x7B || op == 0x7C
/-- The exit-class instructions (R226). -/
def opExit (op : Nat) : Bool := op ≤ 0x07 || op == 0xD5 || op == 0xD6 || op == 0xDB

/-- The targets of a block's read entries and words.  DESIGN CHOICE (log 58): those of a word whose opcode is reserved count too, in
NEXIT's EXIT targets and in WMASK (R231). -/
def Image.targets (m : Image) : List Target :=
  ((m.reads.take m.nread).map fun r => targetOf (r.setWidth 11)) ++
  m.words.flatMap fun w => [targetOf (fieldsOf w).ta, targetOf (fieldsOf w).tb]
def Image.count (m : Image) (p : Nat → Bool) : Nat := (m.words.filter fun w => p (opOf w)).length
/-- The slots that slot-write targets name. -/
def Image.wmask (m : Image) : Word :=
  m.targets.foldl (fun k t => match t with
    | .slot s _ => k ||| (1#64 <<< s.toNat)
    | _ => k) 0
def Image.exitTargets (m : Image) : Nat := (m.targets.filter fun t => t == .exit).length

/-! ### Pass 1: the header -/

/-- The first two header rows of Table 10-8. -/
def Image.headerOk (m : Image) : Bool :=
  fld m.h0 60 4 == 1 && fld m.h0 58 2 == 0 && fld m.h0 0 27 == 0 && 1 ≤ icntOf m.h0 && icntOf m.h0 ≤ 128 &&
  m.nread ≤ 16 && m.nexit != 0 && m.nst + m.nsend ≤ 16 && (m.reads.drop m.nread).all (fun r => r == 0) &&
  (m.reads.take m.nread).all (fun r => fld r 11 6 == 0) &&
  m.count opSeq == m.nmem && m.count opNst == m.nst && m.count opSend == m.nsend &&
  m.count opExit + m.exitTargets == m.nexit && m.h1 == m.wmask

/-- The instruction words by index, with the instruction that each decodes to. -/
abbrev Decoded := List (Word × Option Instr)
def Image.decoded (m : Image) : Decoded := m.words.map fun w => (w, (decodeRaw w).toOption)
def Decoded.instr (d : Decoded) (i : Nat) : Option Instr := (d[i]?).bind fun e => e.2
def Decoded.info (d : Decoded) (i : Nat) : Option Info := (d.instr i).bind infoOf

/-- Whether an instruction uses a port (R224). -/
def Info.uses (f : Info) : Port → Bool
  | .a => f.pa
  | .b => f.pb
  | .p => f.hdr.pr != .always
  | .c => f.pc != .no
/-- The n-th index whose opcode satisfies a test. -/
def nthIndex (d : Decoded) (p : Nat → Bool) (n : Nat) : Option Nat :=
  ((List.range d.length).filter fun i => match d[i]? with
    | some e => p (opOf e.1)
    | none => false)[n]?
/-- The sequenced instruction SEQ, and the n-th SEND or WAKE, of a block (Table 10-5). -/
def Decoded.seqAt (d : Decoded) (q : Nat) : Option Nat := nthIndex d opSeq q
def Decoded.sendAt (d : Decoded) (n : Nat) : Option Nat := nthIndex d opSend n

/-- The target rows of Table 10-8 for a target of the instruction `own` (none: of a read entry).  A target that names
an instruction whose word is illegal is left to that instruction's own row. -/
def targetRow (d : Decoded) (own : Option Nat) : Target → Bool
  | .malformed _ => false
  | .port j q =>
      decide (j.toNat < d.length) && (match own with
        | some i => decide (i < j.toNat)
        | none => true) &&
      (match d.info j.toNat with
       | some f => f.uses q
       | none => true)
  | .storeData h q =>
      (match (d.seqAt q.toNat).map d.info with
       | some (some f) => if h then f.hi else f.pb
       | some none => true
       | none => false)
  | .sendData n k =>
      (match (d.sendAt n.toNat).map d.info with
       | some (some f) => decide (1 ≤ k.toNat ∧ k.toNat ≤ f.words)
       | some none => true
       | none => false)
  | _ => true

/-! ### Pass 2: each instruction -/

/-- A register that a user-mode CSRR may not read, or a message on VC7 (R295, R365). -/
def userRefused (i : Instr) : Bool :=
  match i with
  | .csrr _ n => !csrUser n.toNat
  | .send _ l => l.vc == 7
  | .wake _ l => l.vc == 7
  | _ => match infoOf i with
    | some f => f.sup
    | none => false

/-- SACQ, SACQT and CBAR: at most one in a block (R295). -/
def isAcq1 : Instr → Bool
  | .sacq .. => true
  | .sacqt .. => true
  | .cbar .. => true
  | _ => false

/-- Port c of a sequenced instruction. -/
def orderPort (d : Decoded) : Target → Bool
  | .port j .c => (match d.info j.toNat with
      | some f => f.seq.isSome
      | none => false)
  | _ => false

/-- The placement rules of one instruction's targets (R247, R292, R311, R338, R364); what stands at port c belongs to pass 3. -/
def placed (d : Decoded) (f : Info) : Bool :=
  infoTargetsOk f &&
  (match f.tsc, f.hdr.ta with
   | .none, _ => true
   | _, .port _ .c => true
   | _, .port j _ => (d.info j.toNat).isNone
   | _, _ => true) &&
  (f.kind == .no || !(f.res == .value) || ((f.tsc != .none || !orderPort d f.hdr.ta) && !orderPort d f.hdr.tb))

/-- The rows of pass 2 for one instruction: none when it passes. -/
def pass2 (m : Image) (d : Decoded) (sup : Bool) (i : Nat) : Option OwnFault :=
  let w := m.words.getD i 0
  let bad : Option OwnFault := some { idx := i, cause := cFormat, tval := m.h0 }
  match d.instr i with
  | none => some { idx := i, cause := cIllegal, tval := w }
  | some k =>
      match infoOf k with
      | none => some { idx := i, cause := cIllegal, tval := w }
      | some f =>
          let before := (d.take i).filterMap fun o => o.2
          let nseq := (before.filter fun j => (seqOfInstr j).isSome).length
          let seqOk := match f.seq with
            | some q => q.toNat == nseq
            | none => true
          let engOk := match f.eng with
            | some e => decide (engineCount e before < 2)
            | none => true
          if !seqOk then bad
          else if !sup && userRefused k then some { idx := i, cause := cPrivilege, tval := w }
          else if !engOk then bad
          else if isAcq1 k && before.any isAcq1 then bad
          else if targetRow d (some i) f.hdr.ta && targetRow d (some i) f.hdr.tb && placed d f then none
          else bad

/-! ### Producers, and pass 3 -/

/-- The port a target names. -/
def portNamed (d : Decoded) : Target → Option (Nat × PortId)
  | .port j q => some (j.toNat, portId q)
  | .storeData h q => (d.seqAt q.toNat).map fun j => (j, if h then PortId.hi else PortId.b)
  | .sendData n k => (d.sendAt n.toNat).map fun j => (j, match k.toNat with
      | 0 => PortId.b
      | 1 => PortId.w1
      | 2 => PortId.w2
      | _ => PortId.w3)
  | _ => none

/-- Every port that some target of the block names, once for each producer (R225). -/
def Image.named (m : Image) (d : Decoded) : List (Nat × PortId) := m.targets.filterMap (portNamed d)
def producers (l : List (Nat × PortId)) (i : Nat) (q : PortId) : Nat := (l.filter fun e => e == (i, q)).length

/-- Whether a load-type instruction, and whether a vector one. -/
def isVec (f : Info) : Bool := f.eng == some .vxe

/-- Whether an operation is store-type or commit-time. -/
def storeish (f : Info) : Bool := f.kind == .store || f.kind == .commit

/-- The done-token placements that R169 and R312 refuse. -/
def tokenRow (d : Decoded) (f : Info) : Bool :=
  match f.tsc, f.hdr.ta with
  | .none, _ => true
  | _, .port j q =>
      (match d.info j.toNat with
       | some g => (g.seq.isSome || q != .c) && !(storeish f && g.kind == .load) && !(isVec f && g.kind == .load && !isVec g)
       | none => true)
  | _, _ => true

/-- The rows of pass 3 for one instruction.  DESIGN CHOICE (log 80): for a placement that R171 refuses, which Table 10-8 gives an index
and no more, it is that of the FENCE. -/
def pass3 (m : Image) (d : Decoded) (l : List (Nat × PortId)) (i : Nat) : Option OwnFault :=
  match d.instr i with
  | none => none
  | some k =>
      match infoOf k with
      | none => none
      | some f =>
          let fed (q : PortId) : Bool := 0 < producers l i q
          let portsOk := (!f.pa || fed .a) && (!f.pb || fed .b) && (f.hdr.pr == .always || fed .p) &&
            (f.pc != .operand || fed .c) && (!f.hi || fed .hi) &&
            ([PortId.w1, PortId.w2, PortId.w3].take f.words).all fed
          let before := (d.take i).filterMap fun o => o.2.bind infoOf
          let fenceOk := match k with
            | .fence .. => !before.any storeish
            | _ => true
          if portsOk && tokenRow d f && fenceOk then none
          else some { idx := i, cause := cFormat, tval := m.h0 }

/-! ### The block -/

/-- An instruction with its producers counted. -/
def instOf (l : List (Nat × PortId)) (i : Nat) (w : Word) : InstSt :=
  let p (q : PortId) : PortSt := { prod := producers l i q }
  { word := w, a := p .a, b := p .b, p := p .p, c := p .c, hi := p .hi, w1 := p .w1, w2 := p .w2, w3 := p .w3 }

/-- The block in flight that a fetched image gives, or the fault of predecode. -/
def predecode (m : Image) (addr : Word) (sup : Bool) (id : Nat) : Except OwnFault Block :=
  let d := m.decoded
  let bad : OwnFault := { idx := 0xFF, cause := cFormat, tval := m.h0 }
  let rs := m.reads.take m.nread
  if !m.headerOk then .error bad
  else if !rs.all (fun r => targetRow d none (targetOf (r.setWidth 11))) then .error bad
  else
    match (List.range d.length).findSome? (pass2 m d sup) with
    | some f => .error f
    | none =>
        let l := m.named d
        match (List.range d.length).findSome? (pass3 m d l) with
        | some f => .error f
        | none =>
            .ok { id := id, addr := addr, h0 := m.h0, sup := sup, wmask := m.h1,
                  reads := rs.map fun r => { slot := r.extractLsb' 18 6, last := r.getLsbD 17, tgt := r.setWidth 11 },
                  insts := (List.range m.words.length).map fun i => instOf l i (m.words.getD i 0) }

end Sys2Proof.Machine
end

