-- ==== Sys2Proof/Machine/Block.lean ====
section
/-! DEFINITION. Machine/Block.lean: block entry (R54, R60, R88, R137, R196, R231, R281, R383, R385), header reads (R155,
R193, R194, R222), the outcome of a block (R226, R227), commit (R164, R166, R183, R191 to R195, R200, R238, R251 to
R253, R280), slot expiry and the late-drop stop (R41). -/
namespace Sys2Proof.Machine
open Sys2Proof

/-! ### What follows a block (R196, R226, R385) -/

/-- An address a next block may be entered at. -/
def goodExit (t : Tok) : Bool := !t.poi && t.v.toNat % 64 == 0

/-- The next block's address and mode, once known; a YIELD wait apart. -/
def Ctx.rawNext (c : Ctx) : Option (Word × Bool) :=
  match c.flight.getLast? with
  | none => (match c.next with
      | .at_ a => some (a, c.nextSup)
      | _ => none)
  | some b =>
      if b.excd || b.second.isSome || b.entryFault.isSome then none
      else match b.exits with
        | (_, .addr t) :: _ => if goodExit t then some (t.v, b.sup) else none
        | (_, .scall dst _) :: _ => some (dst, true)
        | (_, .sret t) :: _ => if goodExit t then some (t.v, false) else none
        | (_, .yield t) :: _ => if goodExit t then some (t.v, b.sup) else none
        | _ => none

/-- A context that a stop, a report or a late drop keeps from entering its next block (R41, R415). -/
def Ctx.barred (c : Ctx) : Bool := c.stopped || !c.reports.isEmpty || c.lateDrop

/-- The exit that names the next block has been computed: its latency is over (R196, R249). -/
def Ctx.exitThere (c : Ctx) (now : Nat) : Bool :=
  match c.flight.getLast? with
  | some b => b.exits.all fun e => match b.insts[e.1]? with
      | some n => decide (n.due ≤ now)
      | none => true
  | none => true

/-- The next block of a context that may be given a position (R196, R253, R415). -/
def State.known (s : State) (cell x : Nat) : Option (Word × Bool) :=
  let c := s.ctxAt cell x
  if c.barred || !c.exitThere (s.tickOf cell) then none
  else if c.yieldTo.any (fun y => !(s.ctxAt cell y).barred && (s.ctxAt cell y).rawNext.isSome) then none
  else c.rawNext

/-! ### Fetching code -/

/-- What a fetch gives. -/
inductive CodeFetch
  | code (d : List (Byte × Bool))
  | miss (lines : List Word)
  | bad (c : Cause) (tval : Word) (poi : Bool)
  deriving DecidableEq, Repr, Inhabited

/-- A block in the TCM code region (R60). -/
def State.tcmCode (s : State) (cell : Nat) (addr : Word) : CodeFetch :=
  let off := fld addr 0 32
  let size := s.tcmBytes cell
  let p : Place := { r := .tcm cell, off := off }
  let n := blockBytes (BitVec.ofNat 64 (if off + 8 ≤ size then s.numAt p 8 else 0))
  if fld addr 32 29 = 0 ∧ off + n ≤ size ∧ (s.cellAt cell).whollyCode off n then .code (s.bytesAt p n)
  else .bad cSpace addr false

def Cell.lineOf (k : Cell) (a : Word) : Option CodeLine := k.bcache.find? fun l => l.line == a
/-- The lines of a block. -/
def codeLines (addr : Word) (n : Nat) : List Word := (List.range ((n + 63) / 64)).map fun i => addr + BitVec.ofNat 64 (64 * i)
/-- A line that the fetch could not read keeps the cause. -/
def CodeLine.cause (l : CodeLine) : Option Cause :=
  if l.data.length = 64 then none else some ((l.data.getD 0 (cSpace, false)).1)

/-- A block in field SRAM (R88): its lines from the block cache; the address meets the checks of a remote load (R32, R40). -/
def State.sramCode (s : State) (cell : Nat) (addr : Word) (sup : Bool) : CodeFetch :=
  let k := s.cellAt cell
  if fld addr 37 4 ≠ 0 ∨ (0x400000000 ≤ fld addr 0 35 ∧ sup = false) then .bad cSpace addr false
  else if (s.ftab.get 0 (fld addr 54 7)).getLsbD 15 = false then .bad cTrans addr false
  else
    match k.lineOf addr with
    | none => .miss [addr]
    | some l =>
        let n := match l.cause with
          | none => blockBytes (bitsAt 64 l.data 0 8)
          | some _ => 64
        let as := codeLines addr n
        let miss := as.filter fun a => (k.lineOf a).isNone
        if !miss.isEmpty then .miss miss
        else
          let ls := as.filterMap k.lineOf
          match ls.findSome? CodeLine.cause with
          | some c => .bad c addr false
          | none =>
              let d := ls.flatMap fun l => l.data
              match (List.range (8 * ls.length)).find? fun i => anyPoi ((d.drop (8 * i)).take 8) with
              | some w => .bad cPoison (bitsAt 64 d (8 * w) 8) true
              | none => .code (d.take n)

/-- A block's code (R60, R88). -/
def State.fetchCode (s : State) (cell : Nat) (addr : Word) (sup : Bool) : CodeFetch :=
  if addr.toNat % 64 ≠ 0 then .bad cSpace addr false
  else if fld addr 61 3 = 1 then s.tcmCode cell addr
  else if fld addr 61 3 = 0 ∧ fld addr 35 2 = 3 then s.sramCode cell addr sup
  else .bad cSpace addr false

/-- Lines used become the most recently used of their sets; lines that hold an error are not kept (R88). -/
def Cell.touchLines (k : Cell) (as : List Word) : Cell :=
  let used := (as.filterMap k.lineOf).filter fun l => l.cause.isNone
  { k with bcache := (k.bcache.filter fun l => !as.contains l.line) ++ used }

/-- Fill a line: the least recently used of a full set makes room (4 ways, 128 sets). -/
def Cell.fillLine (k : Cell) (l : CodeLine) : Cell :=
  let inSet := k.bcache.filter fun m => fld m.line 6 7 == fld l.line 6 7
  let keep := match inSet with
    | v :: _ => if inSet.length < 4 then k.bcache else k.bcache.filter fun m => m.line != v.line
    | [] => k.bcache
  { k with bcache := (keep.filter fun m => m.line != l.line) ++ [l] }

/-! ### Header reads (R222, R194, R155) -/

/-- Serve the read entries of a block whose slots no older block in flight writes. -/
def Block.serveReads (b : Block) (c : Ctx) (schk : Bool) (mask : Word) (j : Word) : Block :=
  (List.range b.reads.length).foldl (fun b i => match b.reads[i]? with
    | none => b
    | some r =>
        if r.served || mask.getLsbD r.slot.toNat then b
        else
          let v := c.slotAt r.slot
          let pend := c.pending r.slot
          let bad := pend && (schk || !v.legal j)
          { b with reads := b.reads.set i { r with served := true, bad := bad, prior := if pend then some v else none } }.send 0xFF (targetOf r.tgt) 0
            (.tok { v := v.v, poi := v.poi, hnd := v.hnd })) b

def serveBlocks (c : Ctx) (schk : Bool) : Word → Word → List Block → List Block
  | _, _, [] => []
  | j, mask, b :: t => b.serveReads c schk mask j :: serveBlocks c schk (j + 1) (mask ||| b.wmask) t

/-- Serve every read that can be. -/
def Ctx.serve (c : Ctx) (schk : Bool) : Ctx := { c with flight := serveBlocks c schk (c.ccount + 1) 0 c.flight }

/-! ### Entry (R196) -/

def isCsrWrite : Instr → Bool
  | .csrw .. => true
  | .csrs .. => true
  | .csrc .. => true
  | .csrx .. => true
  | _ => false
/-- The register a CSR instruction returns. -/
def csrReadOf : Instr → Option Nat
  | .csrr _ n => some n.toNat
  | .csrs _ n => some n.toNat
  | .csrc _ n => some n.toNat
  | .csrx _ n => some n.toNat
  | _ => none
def isModeExit : Nat × Exit → Bool
  | (_, .scall _ _) => true
  | (_, .sret _) => true
  | _ => false

/-- What keeps a block from entering issue behind older blocks (R281, R383). -/
def Ctx.entryHeld (c : Ctx) (b : Block) : Bool :=
  let is := b.instrs
  let sens := is.any fun i => (match csrReadOf i with
      | some n => n < 0x100
      | none => false) || (match i with
      | .afadd _ _ .dyn _ => true
      | _ => false) || (match infoOf i with
      | some f => f.draw != .no
      | none => false)
  let mode := is.any fun i => csrReadOf i == some 0x014 || csrReadOf i == some 0x015
  (sens && c.flight.any fun o => o.instrs.any isCsrWrite) || (mode && c.flight.any fun o => o.exits.any isModeExit)

/-- Entries of TXE, VXE and MXE queues that a block needs. -/
def Block.needs (b : Block) : Nat × Nat × Nat := (b.reserved .txe, b.reserved .vxe, b.reserved .mxe)

/-- Whether the reservation of a block can be made now, past the contexts that have waited longer (R137, R196). -/
def Cell.canReserve (k : Cell) (x : Nat) (n : Nat × Nat × Nat) : Bool :=
  let first := k.passed.takeWhile fun o => o.1 != x
  let ok (e : Engine) (want : Nat) (of : Nat × Nat × Nat × Nat → Nat) : Bool :=
    want == 0 || (decide (k.engUsed e + want ≤ 2) && first.all fun o => of o == 0)
  ok .txe n.1 (fun o => o.2.1) && ok .vxe n.2.1 (fun o => o.2.2.1) && ok .mxe n.2.2 (fun o => o.2.2.2)

/-- What entry would do for a context. -/
inductive Plan
  | nothing
  | miss (lines : List Word) (sup : Bool)
  | held
  | pass (b : Block)
  | enter (b : Block)
  deriving DecidableEq, Repr, Inhabited

/-- A block that only carries a fault of its entry (R231, R88). -/
def faultyBlock (id : Nat) (addr : Word) (sup : Bool) (f : OwnFault) : Block :=
  { id := id, addr := addr, sup := sup, entryFault := some f }

def State.plan (s : State) (cell x : Nat) : Plan :=
  match s.known cell x with
  | none => .nothing
  | some (addr, sup) =>
      match s.fetchCode cell addr sup with
      | .miss ls => .miss ls sup
      | .bad c v p => .enter (faultyBlock s.fresh addr sup { idx := 0xFF, cause := c, tval := v, poi := p })
      | .code d =>
          match predecode (imageOf d) addr sup s.fresh with
          | .error f => .enter (faultyBlock s.fresh addr sup f)
          | .ok b =>
              if (s.ctxAt cell x).entryHeld b then .held
              else if (s.cellAt cell).canReserve x b.needs then .enter b else .pass b

def Plan.enters : Plan → Bool
  | .enter _ => true
  | _ => false

/-- The context that takes the next position: one with fewer than two blocks in flight first, then in turn (R196). -/
def State.nextIn (s : State) (cell : Nat) : Option Nat :=
  let order := (List.range 4).map fun i => ((s.cellAt cell).lastIn + 1 + i) % 4
  let can := order.filter fun y => (s.plan cell y).enters
  match can.find? fun y => (s.ctxAt cell y).flight.length < 2 with
  | some y => some y
  | none => can.head?

/-- Whether the cell takes a block this core cycle. -/
def State.entryOpen (s : State) (cell : Nat) : Bool :=
  let k := s.cellAt cell
  let f := s.fieldAt (fieldOf cell)
  !k.entered && k.halted == 0 && !f.gated && !k.dead && !f.retired &&
  decide ((((List.range 4).map fun x => (s.ctxAt cell x).flight.length).foldl (· + ·) 0) < 8)

/-- Give a block its position and its reservation (R137, R196). -/
def State.takeIn (s : State) (cell x : Nat) (b : Block) : State :=
  let n := b.needs
  let s := { s with fresh := s.fresh + 1 }
  let s := s.onCell cell fun k =>
    { (((k.addRes .txe n.1).addRes .vxe n.2.1).addRes .mxe n.2.2).touchLines (codeLines b.addr (blockBytes b.h0)) with
      entered := true, lastIn := x, passed := k.passed.filter fun o => o.1 != x }
  let s := s.unyield cell x
  s.onCtx cell x fun c =>
    ({ c with flight := c.flight ++ [{ b with fmode := (s.cellAt cell).atom }], yieldTo := [] } : Ctx).serve (s.cellAt cell).schk

/-- Ask field SRAM for missing lines, in ascending address order (R88). -/
def State.askLines (s : State) (cell x : Nat) (ls : List Word) (sup : Bool) : State :=
  ls.foldl (fun s a =>
    if (s.cellAt cell).misses.any fun e => e.2 == a then s
    else
      let (id, s) := s.takeId
      let c := s.ctxAt cell x
      let acc : Acc := { id := id, who := .fetch cell x, cell := cell, vc := if sup then 7 else c.rvc.toNat, addr := a,
                         len := 64, op := .read, back := .code cell x a, sup := sup, gen := s.gen.setWidth 2 }
      { (s.onCell cell fun k => { k with misses := k.misses ++ [(x, a)] }) with net := s.net ++ [acc] }) s

def execBlockEntry (cell x : Nat) (s : State) : Host.Outcome State Fault Refusal :=
  run s fun m => m.on fun s =>
    if !s.entryOpen cell then s
    else
      match s.plan cell x with
      | .nothing => s
      | .held => s
      | .miss ls sup => s.askLines cell x ls sup
      | .pass b =>
          let n := b.needs
          s.onCell cell fun k =>
            if k.passed.any fun o => o.1 == x then k else { k with passed := k.passed ++ [(x, n.1, n.2.1, n.2.2)] }
      | .enter b => if s.nextIn cell = some x then s.takeIn cell x b else s

/-! ### The outcome of a block (R226, R227) -/

def InstPhase.final : InstPhase → Bool
  | .fired => true
  | .nulled => true
  | .faulted => true
  | _ => false

/-- Whether a waiting load of the oldest block still waits for what its faulting block can no longer give. -/
def State.mootLoad (s : State) (cell x idx : Nat) (i : Instr) : Bool :=
  match ({ s with cur := { cell := cell, x := x, pos := 0, idx := idx } } : State).envOf i with
  | some e => isFence i || (e.f.kind == .load && e.f.eng.isNone && (e.tokWaits || !e.loadClear || !e.localClear))
  | none => true

/-- Whether nothing of an instruction of the oldest block is outstanding; in a block that faults, what can no longer
happen is moot. -/
def State.instDone (s : State) (cell x : Nat) (b : Block) (idx : Nat) (n : InstSt) : Bool :=
  let dead := b.excd || b.second.isSome
  match n.st, (decodeRaw n.word).toOption with
  | _, none => true
  | .waiting, some i =>
      dead && (match infoOf i with
        | some f => (match readiness f (n.by (s.tickOf cell)) with
            | .hold => true
            | .go => s.mootLoad cell x idx i
            | _ => false)
        | none => true)
  | .issued, some i => dead && (match i with
      | .ld .. => false
      | _ => true)
  | .held, some _ => dead
  | .fired, some _ => dead || decide (n.due ≤ s.tickOf cell)
  | .acquiring, some _ => true
  | _, some _ => true

/-- A block has completed, acquires apart. -/
def State.complete (s : State) (cell x : Nat) (b : Block) : Bool :=
  (List.range b.insts.length).all fun i => match b.insts[i]? with
    | some n => s.instDone cell x b i n
    | none => true

/-- The own fault of lowest index (R227 step 1). -/
def Block.ownFault (b : Block) : Option OwnFault :=
  b.faults.foldl (fun o f => match o with
    | none => some f
    | some g => if f.idx < g.idx then some f else some g) none

/-- Exits in ascending index. -/
def Block.exitsUp (b : Block) : List (Nat × Exit) :=
  ((List.range 128) ++ [255]).flatMap fun i => b.exits.filter fun e => e.1 == i

/-- A slot read that the test of R193 or R155 refuses: a read of a pending slot is judged by the prior value it took. -/
def Block.badRead (b : Block) (c : Ctx) : Option (BitVec 6) :=
  (b.reads.find? fun r => r.bad || !(r.prior.getD (c.slotAt r.slot)).legal (c.ccount + 1)).map fun r => r.slot

/-- Slots that the acquires of a block write at its commit (R302, R306, R377), by index. -/
def Block.acqSlots (b : Block) : List (Nat × BitVec 6) :=
  (b.acqs.filter fun e => match e.2.1.i with
    | .sacq .. => false
    | _ => true).flatMap fun e => e.2.1.slots.map fun sl => (e.1, sl.1)
/-- The first acquire whose slot write is the second to its slot within the block (R225). -/
def Block.acqSecond (b : Block) : Option (BitVec 8) :=
  let l := b.acqSlots
  (((List.range l.length).filterMap fun k => match l[k]? with
    | some e => if (b.swr.any fun w => w.1 == e.2) || ((l.take k).any fun d => d.2 == e.2) then some e.1 else none
    | none => none).head?).map fun i => BitVec.ofNat 8 i

/-- The fault a completed block takes, if any (R227, R226, R251, R41). -/
def Ctx.outcome (c : Ctx) (b : Block) : Option OwnFault :=
  match b.entryFault with
  | some f => some f
  | none =>
    match b.ownFault with
    | some f => some f
    | none =>
      match b.second.orElse fun _ => b.acqSecond with
      | some i => some { idx := i.toNat, cause := cFormat, tval := b.h0 }
      | none =>
        match b.badRead c with
        | some sl => some { idx := 0xFF, cause := cSchedule, tval := sl.setWidth 64 }
        | none =>
          match b.exitsUp with
          | [] => some { idx := 0xFF, cause := cFormat, tval := b.h0 }
          | [(i, e)] =>
              (match exitFault i e with
               | some f => some f
               | none =>
                 if b.acts.any (fun a => a.2 == .depth (-1)) && c.cdepth == 0 then
                   some { idx := i, cause := cSchedule, tval := 0 }
                 else match e, c.drops with
                   | .done, (_, cause, addr, _) :: _ => some { idx := 0xFF, cause := cause, tval := addr }
                   | _, _ => none)
          | _ :: (i, _) :: _ => some { idx := i, cause := cFormat, tval := b.h0 }

/-- Drops that a recorded fault takes (R41): those its FENCE covers, all of them at DONE, or the one of its token. -/
def Ctx.takeDrops (c : Ctx) (b : Block) (f : OwnFault) : Ctx :=
  if c.drops.any fun d => d.2.1 == f.cause && d.2.2.1 == f.tval then
    match b.instr f.idx with
    | some (.fence _ _ sc) => { c with drops := c.drops.filter fun d => !covers sc d.2.2.2 }
    | some _ => { c with drops := c.drops.filter fun d => !(d.2.1 == f.cause && d.2.2.1 == f.tval) }
    | none => { c with drops := [] }
  else c

/-- TPOIS of a block fault: a poison use, or a TRAP whose port a was poisoned (R254). -/
def Block.faultPoison (b : Block) (f : OwnFault) : Bool :=
  f.poi || f.cause == cPoison || (f.cause == cUserTrap && (match b.insts[f.idx]? with
    | some n => (n.a.tok.getD {}).poi
    | none => false))

/-- A block faults as a unit (R183, R184). -/
def State.blockFault (s : State) (cell x : Nat) (b : Block) (f : OwnFault) : State :=
  (s.takeTrap cell x { cause := f.cause, tpois := b.faultPoison f, blk := b.addr, idx := BitVec.ofNat 8 f.idx,
                       tval := f.tval }).onCtx cell x fun c => c.takeDrops b f

/-! ### Commit-time services (R166, R302, R306, R377) -/

def Cell.cpPosted (k : Cell) (n : Nat) : Nat := fld (k.cpstat.get 0 n) 24 24
def Cell.cpDone (k : Cell) (n : Nat) : Nat := fld (k.cpstat.get 0 n) 0 24
def Cell.cpLast (k : Cell) (n : Nat) : Nat := fld (k.cpstat.get 0 n) 56 8
def Cell.cpIdle (k : Cell) (n : Nat) : Bool := k.cpPosted n == k.cpDone n

/-- What a CWAIT or CPOLL returns now; none while a CWAIT waits. -/
def Cell.portStatus (k : Cell) (c : Cmd) (waited : Bool) : Option Nat :=
  match c.i with
  | .cwait _ _ n => if k.cpIdle n.toNat then some (if waited then k.cpLast n.toNat else 4) else none
  | .cwaitChk _ _ n => if k.cpIdle n.toNat then some (if waited then k.cpLast n.toNat else 4) else none
  | .cpoll _ _ n => some (if k.cpIdle n.toNat then 4 else 3)
  | _ => some 0

/-- The faults of checking CWAITs (R377). -/
def Cell.waitFaults (k : Cell) (b : Block) : List OwnFault :=
  b.acqs.filterMap fun e => match e.2.1.i with
    | .cwaitChk _ _ n => if k.portStatus e.2.1 e.2.2 = some 1 then some { idx := e.1, cause := cAborted, tval := n.setWidth 64 } else none
    | _ => none

/-- Whether an acquire still holds its block: a SACQ or CBAR not yet served, or a CWAIT that waits. -/
def Cell.holds (k : Cell) (e : Nat × Cmd × Bool) : Bool :=
  match e.2.1.i with
  | .sacq .. => e.2.1.len != 0 && e.2.1.phase != 2
  | .cbar .. => e.2.1.phase != 2
  | _ => (k.portStatus e.2.1 e.2.2).isNone

/-- A SACQ or CBAR. -/
def serviced (e : Nat × Cmd × Bool) : Bool :=
  match e.2.1.i with
  | .sacq .. => true
  | .cbar .. => true
  | _ => false

/-- Entries a block places in the store queue. -/
def Block.queued (b : Block) : Nat := (b.acts.filter fun a => match a.2 with
  | .queue _ => true
  | _ => false).length

/-- A store to TREEINJ. -/
def Cmd.treeChan (c : Cmd) : Option Nat :=
  match c.i, c.route with
  | .st .., .mmio o => if treeInj o then some (o / 8) else none
  | _, _ => none
def Block.treeStores (b : Block) : Nat := (b.acts.filter fun a => match a.2 with
  | .queue c => c.treeChan.isSome
  | _ => false).length

/-- Room for n tree stores: an inject entry and a free extract entry for each (R50, R394). -/
def Cell.treeRoom (k : Cell) (n : Nat) : Bool :=
  decide (k.inj.length + k.injRes + n ≤ 16) && decide (k.ext.length + k.extRes + n ≤ 16)

/-- Room for what a block commits, and the limit of two commits a core cycle (R164, R50, R200). -/
def State.commitRoom (s : State) (cell x : Nat) (b : Block) : Bool :=
  let k := s.cellAt cell
  let c := s.ctxAt cell x
  decide (c.sq.length + b.queued ≤ 16) && (b.treeStores == 0 || k.treeRoom b.treeStores) &&
  decide (k.commits.length < 2) && !k.commits.contains x

/-- The oldest block of a context that may still run. -/
def State.oldest (s : State) (cell x : Nat) : Option Block :=
  let c := s.ctxAt cell x
  if c.stopped || (s.fieldAt (fieldOf cell)).gated then none else c.flight.head?

/-- The faults of acquires whose order ports wait on tokens that arrive with an error (R170).  DESIGN CHOICE (log 18): R170 names
store-queue entries and load-type operations; SACQ, SACQT, CBAR, CWAIT and CPOLL fault like the latter. -/
def State.acqTokenFaults (s : State) (b : Block) : List OwnFault :=
  b.acqs.filterMap fun e => match s.waitOf e.2.1.wait with
    | .error c a => some { idx := e.1, cause := c, tval := a }
    | _ => none

/-- The fault that a completed block takes at its commit, if any: those of its commit-time services are its instructions' own (R227). -/
def State.commitFault (s : State) (cell x : Nat) (b : Block) : Option OwnFault :=
  (s.ctxAt cell x).outcome { b with faults := b.faults ++ (s.cellAt cell).waitFaults b ++ s.acqTokenFaults b }

/-- Whether the oldest block may commit once its acquires of the given test are served. -/
def State.canCommit (s : State) (cell x : Nat) (b : Block) (skip : Nat × Cmd × Bool → Bool) : Bool :=
  let k := s.cellAt cell
  s.complete cell x b && (s.commitFault cell x b).isNone && b.acqs.all (fun e => s.waitOf e.2.1.wait == .emitted) &&
  (b.acqs.filter fun e => !skip e).all (fun e => !k.holds e) && s.commitRoom cell x b

/-! ### Commit -/

/-- Values that the served acquires of a block return. -/
def State.acqResult (s : State) (cell : Nat) (e : Nat × Cmd × Bool) : State × Option Nat :=
  let k := s.cellAt cell
  let c := e.2.1
  match c.i with
  | .sacqt _ l =>
      let q := l.q.toNat
      let v := (k.sem.get 0 q).toNat
      if c.len = 0 then (s, some 1)
      else
      let k := { k with acqNow := q :: k.acqNow }
      let s := s.setCell cell k
      if !(k.semWait.any fun w => w.q == q) && decide (c.len ≤ v) then
        (s.setCell cell { k with sem := k.sem.set q (BitVec.ofNat 32 (v - c.len)) }, some 1)
      else (s, some 0)
  | .cbar .. => (s, some c.len)
  | .sacq .. => (s, none)
  | _ => (s, k.portStatus c e.2.2)

/-- An acquire's result is a slot write of the commit, and its token is emitted (R302, R306, R377). -/
def State.commitAcq (s : State) (cell x : Nat) (j : Word) (e : Nat × Cmd × Bool) : State :=
  let (s, r) := s.acqResult cell e
  let s := s.emitOf e.2.1.tok
  match r with
  | some v => s.onCtx cell x fun c => e.2.1.slots.foldl (fun c sl => c.slotWrite sl.1 sl.2 { v := BitVec.ofNat 64 v, poi := e.2.1.pp } j) c
  | none => s

/-- The vault clock on which a vault command is performed whose block committed in the core cycle that ends now (R379): E + 4. -/
def State.vaultDue (s : State) : Nat := s.vtime.toNat + 5

/-- The TAG of a table entry's selector (R387), as the register it names. -/
def bindTarget (sel : Word) : Option RegRef :=
  let f := fld sel 55 7
  let c := fld sel 51 4
  let i := fld sel 0 7
  let ok := decide (fld sel 7 43 = 0)
  match fld sel 62 2 with
  | 0 => if ok && fld sel 50 12 == 0 then some (.ftab i) else none
  | 1 => if ok && fld sel 50 5 == 0 && decide (i < 16) && decide (f < 80) then some (.ctab f i) else none
  | 2 => if ok && fld sel 50 1 == 0 && decide (i < 16) && decide (f < 80 ∧ c < 12) then some (.ltab (f * 12 + c) i) else none
  | _ => if ok && decide (i < 32) && decide (f < 80 ∧ c < 12) then some (.atab (f * 12 + c) (fld sel 50 1) i) else none

/-- Halt every cell of the wafer whose HGRP.IN names a group (R432, R433): the signal's arrival is HALT_SIGNAL. -/
def State.signal (s : State) (groups : BitVec 16) : State := { s with haltGroups := s.haltGroups ||| groups }

/-- Invalidate the block cache, or one line of it (R388). -/
def Cell.invalidate (k : Cell) (line : Option Word) : Cell :=
  match line with
  | none => { k with bcache := [] }
  | some a => { k with bcache := k.bcache.filter fun l => l.line != a }

/-- The cells whose field or cluster binding an entry holds: none for tags below the cluster. -/
def State.bindCells (s : State) (r : RegRef) : List Nat :=
  match r with
  | .ftab i => (let f := s.ftab.get 0 i
      if f.getLsbD 15 then (List.range 192).map fun c => fld f 0 7 * 192 + c else [])
  | .ctab f i => (let c := (s.fieldAt f).ctab.get 0 i
      if c.getLsbD 15 then (List.range 16).map fun k => f * 192 + fld c 0 4 * 16 + k else [])
  | _ => []
/-- Write a table entry; the block caches of the cells whose field or cluster binding it changes are invalidated (R89). -/
def State.rebind (s : State) (r : RegRef) (v : Word) : State :=
  let t := s.setBind r v
  ((s.bindCells r ++ t.bindCells r).filter fun c => !(s.cellAt c).bcache.isEmpty).foldl (fun t c => t.onCell c fun k => k.invalidate none) t

/-- One action of a commit (R238). -/
def State.act (s : State) (cell x : Nat) (a : Act) : State :=
  match a with
  | .queue c =>
      let (id, s) := s.takeId
      let s := if c.treeChan.isSome then s.onCell cell fun k => { k with injRes := k.injRes + 1, extRes := k.extRes + 1 } else s
      s.onCtx cell x fun (q : Ctx) =>
        let q : Ctx := match c.i with
          | .cfence .. => { q with cfence := (q.sq.map fun (e : Cmd) => e.id) ++ (q.outs.map fun (o : Nat × Scope) => o.1) }
          | _ => q
        ({ q with sq := q.sq ++ [{ c with id := id }] } : Ctx).pend { c with id := id }
  | .engine c =>
      let (id, s) := s.takeId
      let q := s.ctxAt cell x
      let e := ((infoOf c.i).bind fun f => f.eng).getD .txe
      let c := { c with id := id, before := q.sq.map (fun k => k.id), fence := if e = .txe then q.cfence else [] }
      (s.onCell cell fun k => k.pushEng e c).onCtx cell x fun q => q.pend c
  | .flags f => s.onCtx cell x fun c => c.raise f
  | .csr n op v => s.csrApply cell x n.toNat op v
  | .depth d =>
      s.onCtx cell x fun c =>
        { c with cdepth := if d < 0 then c.cdepth - 1 else if c.cdepth = 0xFFFF then c.cdepth else c.cdepth + 1 }
  | .pop chan =>
      s.onCell cell fun k => { k with ext := match k.ext.findIdx? fun e => e.1 == chan with
        | some i => k.ext.eraseIdx i
        | none => k.ext }
  | .dvault c =>
      let (id, s) := s.takeId
      (s.onCell cell fun k => { k with seq := { k.seq with cmds := k.seq.cmds ++ [{ c with id := id, len := 0 }] } }).onCtx
        cell x fun q => (q.pend { c with id := id }).dueByClock id (s.vtime.toNat + 8)
  | .bind c dst =>
      let (id, s) := s.takeId
      let s := match dst with
        | some r => s.rebind r c.b.v
        | none => { s with gen := s.gen + 1 }
      s.onCtx cell x fun q =>
        let q := (q.pend { c with id := id }).result id { v := 1 }
        { q with lands := q.lands.map fun l => if l.id = id then { l with bind := true } else l }
  | .bcinv l => s.onCell cell fun k => k.invalidate l
  | .trig g => s.signal (g.setWidth 16 &&& ((s.cellAt cell).hgrp.extractLsb' 16 16))

/-- A block's actions in ascending index, with the generator's advance, from the state that older commits left, at its
highest consumer (R278, R280). -/
def State.acts (s : State) (cell x : Nat) (b : Block) : State :=
  let n := b.insts.length
  let frm := (s.ctxAt cell x).frm
  let seed := (s.ctxAt cell x).srseed
  let run (s : State) (l : List Nat) : State :=
    l.foldl (fun s i => (b.acts.filter fun a => a.1 == i).foldl (fun s a => s.act cell x a.2) s) s
  let k := b.consumers frm n
  if k = 0 then run s (List.range n)
  else
    let top := ((List.range n).filter fun i => b.consumers frm (i + 1) == k).headD 0
    let s := run s (List.range (top + 1))
    let s := s.onCtx cell x fun c => { c with srseed := srSteps k seed }
    run s ((List.range n).drop (top + 1))

/-- What the taken exit makes of its context (R250 to R253, R385, R389). -/
def State.takeExit (s : State) (cell x : Nat) (sup : Bool) (e : Exit) : State :=
  match e with
  | .addr t => s.onCtx cell x fun c => { c with next := .at_ t.v, nextSup := sup }
  | .done =>
      s.onCtx cell x fun c => { c with next := .idle, nextSup := sup, cdepth := 0, handler := false, drops := [] }
  | .yield t =>
      let ys := (List.range 4).filter fun y => y != x && (s.known cell y).isSome
      (if ys.isEmpty then s else s.unyield cell x).onCtx cell x fun c => { c with next := .at_ t.v, nextSup := sup, yieldTo := ys }
  | .scall dst ret => s.onCtx cell x fun c => { c with next := .at_ dst, nextSup := true, sup := true, svret := ret }
  | .sret t => s.onCtx cell x fun c => { c with next := .at_ t.v, nextSup := false, sup := false }
  | .wfm t => s.onCtx cell x fun c => { c with next := .wfm t.v, nextSup := sup }
  | .trap => s

/-- The reads that a younger block has taken of slots that a commit frees (R155, R193). -/
def Block.freed (o : Block) (l : List Read) : Block :=
  { o with reads := o.reads.map fun r => if l.any fun k => k.slot == r.slot then { r with prior := r.prior.map fun v => { v with freed := true } } else r }

/-- Commit the oldest block of a context (R183): slot writes and frees, actions in order, the exit; then the reads of
the younger blocks. -/
def State.commit (s : State) (cell x : Nat) (b : Block) : State :=
  let j := (s.ctxAt cell x).ccount + 1
  let s := s.onCell cell fun k => { k.release b with commits := k.commits ++ [x] }
  let s := s.onCtx cell x fun c =>
    let c := b.reads.foldl (fun c r => if r.last then { c with slots := c.slots.set r.slot.toNat { c.slotAt r.slot with freed := true } } else c) c
    let c := b.swr.foldl (fun c w => c.slotWrite w.1 w.2.1 w.2.2 j) c
    { c with flight := (c.flight.drop 1).map fun o => o.freed (b.reads.filter fun r => r.last) }
  let s := b.acqs.foldl (fun s e => s.commitAcq cell x j e) s
  let s := s.acts cell x b
  let s := match b.exits with
    | (_, e) :: _ => s.takeExit cell x b.sup e
    | [] => s
  s.onCtx cell x fun c => ({ c with ccount := j } : Ctx).serve (s.cellAt cell).schk

/-! ### The events -/

/-- Mark an acquire of the oldest block. -/
def Ctx.markAcq (c : Ctx) (idx : Nat) (f : Cmd → Cmd) : Ctx :=
  match c.flight with
  | b :: t =>
      { c with flight := { b with acqs := b.acqs.map fun e => if e.1 = idx then (e.1, f e.2.1, true) else e } :: t }
  | [] => c

/-- A barrier whose arrivals equal its mask completes (R306): every waiting block gets the new generation. -/
def State.completeBarrier (s : State) (cl n : Nat) : State :=
  let b := (s.clusterAt cl).cb.get {} n
  if b.mask = 0 ∨ b.arr ≠ b.mask then s
  else
    let g := putFld 0 0 32 (fld b.gen 0 32 + 1)
    let s := s.onCluster cl fun k => { k with cb := k.cb.set n { b with arr := 0, gen := g } }
    (List.range 64).foldl (fun s i =>
      let cell := 16 * cl + i / 4
      if b.arr.getLsbD i then
        match (s.ctxAt cell (i % 4)).flight with
        | blk :: _ =>
            match blk.acqs.find? fun e => match e.2.1.i with
              | .cbar .. => true
              | _ => false with
            | some e => s.onCtx cell (i % 4) fun c => c.markAcq e.1 fun k => { k with phase := 2, len := g.toNat }
            | none => s
        | [] => s
      else s) s

/-- Commit the oldest block of a context if it can. -/
def State.tryCommit (s : State) (cell x : Nat) : State :=
  match s.oldest cell x with
  | some b => if s.canCommit cell x b (fun _ => false) then s.commit cell x b else s
  | none => s

/-- Queue the acquires of a block that has otherwise completed (R166, R302, R306, R377). -/
def State.queueAcqs (s : State) (cell x : Nat) (b : Block) : State :=
  b.acqs.foldl (fun s e =>
    if e.2.2 || s.waitOf e.2.1.wait != .emitted then s
    else
      let c := s.ctxAt cell x
      match e.2.1.i with
      | .sacq _ l =>
          if e.2.1.len = 0 then s
          else
            (s.onCell cell fun k =>
              { k with semWait := k.semWait ++ [{ x := x, blk := b.id, idx := e.1, n := e.2.1.len, q := l.q.toNat }] }).onCtx
              cell x fun c => c.markAcq e.1 fun k => { k with phase := 1 }
      | .cbar _ _ n =>
          if c.sq.isEmpty && c.outs.isEmpty then
            let s := s.onCluster (clusterOf cell) fun k =>
              let q := k.cb.get {} n.toNat
              { k with cb := k.cb.set n.toNat { q with arr := q.arr ||| (1#64 <<< (4 * (cell % 16) + x)) } }
            (s.onCtx cell x fun c => c.markAcq e.1 fun k => { k with phase := 1 }).completeBarrier (clusterOf cell) n.toNat
          else s
      | .cwait .. =>
          if ((s.cellAt cell).portStatus e.2.1 false).isNone then s.onCtx cell x fun c => c.markAcq e.1 fun k => k else s
      | .cwaitChk .. =>
          if ((s.cellAt cell).portStatus e.2.1 false).isNone then s.onCtx cell x fun c => c.markAcq e.1 fun k => k else s
      | _ => s) s

/-- A block whose cluster barrier has completed. -/
def Block.passed (b : Block) : Bool := b.acqs.any fun e => e.2.1.phase == 2 && (match e.2.1.i with
  | .cbar .. => true
  | _ => false)
/-- The blocks of a cluster whose barrier has completed commit in ascending context order, as far as R200 lets them (R306). -/
def State.commitBarred (s : State) (cl : Nat) : State :=
  (List.range 64).foldl (fun s i => match s.oldest (16 * cl + i / 4) (i % 4) with
    | some b => if b.passed then s.tryCommit (16 * cl + i / 4) (i % 4) else s
    | none => s) s

/-- BLOCK_COMMIT: the oldest block of the context, complete, faults or commits; one that holds an acquire queues it. -/
def execBlockCommit (cell x : Nat) (s : State) : Host.Outcome State Fault Refusal :=
  run s fun m => m.on fun s =>
    match s.oldest cell x with
    | none => s
    | some b =>
        if b.entryFault.isSome || s.complete cell x b then
          match s.commitFault cell x b with
          | some f => s.blockFault cell x b f
          | none =>
              let s := s.queueAcqs cell x b
              if b.acqs.isEmpty then s.tryCommit cell x else (s.commitBarred (clusterOf cell)).tryCommit cell x
        else s

/-- SLOT_EXPIRY: the lives of a slot have run out (R192). -/
def execSlotExpiry (cell x slot : Nat) (s : State) : Host.Outcome State Fault Refusal :=
  run s fun m => m.on fun s => s.onCtx cell x fun c =>
    let v := c.slotAt (BitVec.ofNat 6 slot)
    match v.wrote with
    | some w => if v.life ≠ 0 ∧ lifeOf v.life ≤ (c.ccount - w).toNat then c.slotExpire (BitVec.ofNat 6 slot) else c
    | none => c

/-- LATE_DROP_STOP: a drop recorded after its handler's end stops the context once its blocks in flight are through
(R41). -/
def execLateDropStop (cell x : Nat) (s : State) : Host.Outcome State Fault Refusal :=
  run s fun m => m.on fun s =>
    let c := s.ctxAt cell x
    if c.lateDrop && c.flight.isEmpty && !c.stopped then
      (s.takeTrap cell x { cause := c.sterr.extractLsb' 56 8, blk := c.nextAddr, tval := c.sterra }).onCtx cell x fun c =>
        { c with lateDrop := false }
    else s

end Sys2Proof.Machine
end

