-- ==== Sys2Proof/Machine/Links.lean ====
section
/-! DEFINITION. Machine/Links.lean: the Suthar links (R407 to R412): the frames by which an access reaches another wafer and
its answer comes back (R181, R409; the payload's layout is the model's own, log 12), the transmit queue of a link, the
parking and waking of its wavelengths. -/
namespace Sys2Proof.Machine
open Sys2Proof

/-! ### Beats and wavelengths (R409 to R412) -/

/-- The header beat of a frame (Table 17-6). -/
def Frame.header (f : Frame) : BitVec 256 :=
  BitVec.ofNat 256 (packFields [(f.pois % 2 ^ 32, 64), (f.inst % 256, 52), (f.gen % 4, 50), ((f.payload.length + 31) / 32 - 1, 47), (f.kind, 43),
    (f.vc % 8, 40), (f.tag % 2 ^ 24, 16), (f.swafer % 256, 8), (f.dwafer % 256, 0)])
/-- Beats of a frame: its header and its payload. -/
def frameBeats (f : Frame) : Nat := 1 + (f.payload.length + 31) / 32
/-- Beats queued to send. -/
def Gate.depth (k : Gate) : Nat := k.txFrames.foldl (fun n f => n + frameBeats f) 0 - k.txSent
/-- Active wavelengths. -/
def Gate.lanes (k : Gate) : Nat := countBits 8 k.amask.toNat
/-- The parked wavelengths as a mask of eight. -/
def Gate.parked (k : Gate) : BitVec 8 := ~~~k.amask &&& 0xFC
/-- A link control frame to a peer (R412). -/
def controlFrame (own peer : Nat) : Frame :=
  { kind := 5, vc := 0, tag := 0, swafer := own, dwafer := peer, inst := 0, gen := 0, pois := 0, payload := List.replicate 32 0 }

/-- A wake begins: at this end, which asks its peer with a control frame, or at the peer's request (R412).  DESIGN CHOICE (log 68): FAIL
shows the wake under way alone, so it empties here. -/
def State.beginWake (s : State) (g : Nat) (peer : Bool) : State :=
  let k := s.gateAt g
  if k.waking || k.parked == 0 then s
  else s.setGate g { k with waking := true, wakeAt := s.vtime.toNat, fail := 0,
                            txFrames := if peer then k.txFrames
                              else k.txFrames ++ [controlFrame s.waferId.toNat (fld k.slkcfg 52 8)] }

/-- Queue a frame on a link; the queue's depth may begin a wake (R412). -/
def State.pushFrame (s : State) (g : Nat) (f : Frame) : State :=
  let s := s.onGate g fun k => { k with txFrames := k.txFrames ++ [f], idle := 0 }
  let k := s.gateAt g
  if k.waketh.toNat ≤ k.depth then s.beginWake g false else s

/-- Send a frame towards its destination wafer; the flag says whether a link serves it (R487). -/
def State.sendFrame (s : State) (f : Frame) : State × Bool :=
  match s.linkTo f.dwafer with
  | some g => (s.pushFrame g f, true)
  | none => (s, false)

/-- Take n beats from the transmit queue, whole frames leaving in order (R410). -/
def Gate.takeBeats (k : Gate) : Nat → Gate
  | 0 => k
  | n + 1 =>
      match k.txFrames with
      | [] => k
      | f :: t =>
          Gate.takeBeats (if k.txSent + 1 < frameBeats f then { k with txSent := k.txSent + 1 }
                          else { k with txFrames := t, txSent := 0 }) n

/-- One vault clock of a link: each port has 25 half slots of 80 ps, a beat takes ceil(8 / W) slots, beats go over the four
ports in turn (R410), the beat under way at the width it began with (R412); a link that queues nothing counts its idle gateway clocks
(R411). -/
def Gate.clock (k : Gate) (t : Nat) : Gate :=
  if k.slkcfg.getLsbD 63 = false then k
  else if k.txFrames.isEmpty then { k with idle := k.idle + (t * 5 / 4 - (t - 1) * 5 / 4), slots := 0 }
  else
    let c := 2 * ((8 + k.lanes - 1) / max k.lanes 1)
    let rest := if k.slots = 0 then 0 else k.cost - k.slots
    if 25 < rest then { k with slots := k.slots + 25 }
    else { k.takeBeats (4 * ((if rest = 0 then 0 else 1) + (25 - rest) / c)) with slots := (25 - rest) % c, cost := c }

/-- A wake has gone on for two microseconds (R412). -/
def Gate.late (k : Gate) (t : Nat) : Bool := k.waking && decide (k.wakeAt + 2000 ≤ t)
/-- A wavelength that is not ready two microseconds after the wake began has failed, and stays parked (R412). -/
def Gate.timeout (k : Gate) (t : Nat) : Gate :=
  if k.late t then { k with waking := false, fail := k.fail ||| k.parked } else k
/-- The wake of a link fails, and Saffron is told (R412). -/
def State.linkTimeout (s : State) (g : Nat) : State :=
  let k := s.gateAt g
  if k.late s.vtime.toNat then { s.setGate g (k.timeout s.vtime.toNat) with linkFails := s.linkFails ++ [(g, k.parked)] } else s

/-- LINK_WAKE: by the queue's depth, or at the peer's request. -/
def execLinkWake (g : Nat) (peer : Bool) (s : State) : Host.Outcome State Fault Refusal :=
  run s fun m => m.on fun s =>
    let k := s.gateAt g
    if k.slkcfg.getLsbD 63 && (peer || decide (k.waketh.toNat ≤ k.depth)) then s.beginWake g peer else s

/-- WAVELENGTH_READY: both ends have locked a woken wavelength; beats widen from the next beat on (R412). -/
def execWavelengthReady (g lam : Nat) (s : State) : Host.Outcome State Fault Refusal :=
  run s fun m => m.on fun s => s.onGate g fun k =>
    if k.waking && k.parked.getLsbD lam then
      let a := k.amask ||| (1#8 <<< lam)
      { k with amask := a, pmask := (~~~a).extractLsb' 2 6, waking := (~~~a &&& 0xFC) != 0 }
    else k

/-- WAKE_TIMEOUT (R412). -/
def execWakeTimeout (g : Nat) (s : State) : Host.Outcome State Fault Refusal :=
  run s fun m => m.on fun s => s.linkTimeout g

/-- The wavelengths of PMASK, parked; those that leave it stay dark until they have woken (R411). -/
def Gate.park (k : Gate) (mask : BitVec 6) : Gate :=
  { k with pmask := mask, amask := k.amask &&& ~~~(mask ++ 0#2 : BitVec 8) }

/-- A link is idle: it has queued no beat for IDLEWIN × 64 gateway clocks (R411). -/
def Gate.quiet (k : Gate) : Bool := k.txFrames.isEmpty && decide (64 * k.idlewin.toNat ≤ k.idle) && !k.waking
/-- SLKPARK as Saffron writes it: a wavelength is parked only while the link is idle (R411). -/
def Gate.putPark (k : Gate) (v : Word) : Gate :=
  let mask : BitVec 6 := v.extractLsb' 58 6
  { (if k.quiet || mask &&& ~~~k.pmask == 0 then k.park mask else k) with waketh := v.extractLsb' 16 16, idlewin := v.setWidth 16 }
/-- LINK_PARK: Saffron parks wavelengths of an idle link (R411). -/
def execLinkPark (g : Nat) (mask : BitVec 6) (s : State) : Host.Outcome State Fault Refusal :=
  run s fun m => m.on fun s => s.onGate g fun k =>
    if k.quiet then k.park (k.pmask ||| mask) else k

/-! ### Requests and responses (R32, R181, R409) -/

/-- A request's code in the payload. -/
def opCode : Op → Nat
  | .read => 0
  | .write _ => 1
  | .engWrite _ _ => 2
  | .stf _ => 3
  | .ldf => 4
  | .ldfe => 5
  | .syncw _ => 6
  | .atomic _ => 7
  | .count _ _ => 8
  | _ => 15

/-- The bytes a request carries, and those among them that it writes. -/
def opData : Op → List (Byte × Bool) × List Bool
  | .write d => (d, [])
  | .engWrite d m => (d, m)
  | .stf d => (d, [])
  | _ => ([], [])

/-- Some bytes at a multiple of 8, padded: a payload and its POIS bits. -/
def padTo (n : Nat) (d : List (Byte × Bool)) : List (Byte × Bool) := d ++ List.replicate (n - d.length) (0, false)
def poisOf (d : List (Byte × Bool)) : Nat :=
  packFields ((List.range ((d.length + 7) / 8)).map fun i => (ofBool (anyPoi ((d.drop (8 * i)).take 8)), i))
/-- A frame's payload with its poison. -/
def framePayload (f : Frame) : List (Byte × Bool) :=
  (List.range f.payload.length).map fun i => (f.payload.getD i 0, (BitVec.ofNat 32 f.pois).getLsbD (i / 8))

/-- A mask of bytes as bits. -/
def maskBits (m : List Bool) : Nat := packFields ((List.range m.length).map fun i => (ofBool (m.getD i false), i))

/-- The request frame of an access to another wafer: request number, address, instruction word, operands, length, flags,
code, source cell; its data from byte 64 + address mod 8, its mask from byte 200. -/
def State.requestFrame (s : State) (a : Acc) (w : Nat) : Frame :=
  let c : Cmd := match a.op with
    | .atomic c => c
    | _ => {}
  let word : Word := match a.op with
    | .atomic c => encode c.i
    | _ => 0
  let (b, hi) : Tok × Tok := match a.op with
    | .atomic c => (c.b, c.hi)
    | .syncw g => ({ v := g.setWidth 64 }, {})
    | .count n p => ({ v := BitVec.ofNat 64 n, poi := p }, {})
    | _ => ({}, {})
  let (d, mask) := opData a.op
  let head := bytesOf 8 a.id ++ bytesOf 8 a.addr.toNat ++ bytesOf 8 word.toNat ++ bytesOf 8 b.v.toNat b.poi ++
    bytesOf 8 hi.v.toNat hi.poi ++ bytesOf 1 a.len ++ bytesOf 1 (packFields [(ofBool a.sup, 0), (ofBool a.fmode, 1), (ofBool a.at_, 2),
      (ofBool (!mask.isEmpty), 3), (ofBool a.byTxe, 4)]) ++
    bytesOf 1 (opCode a.op) ++ bytesOf 1 c.frm.toNat ++ bytesOf 2 a.cell
  let body := padTo 64 head
  let full := if d.isEmpty then body
    else padTo 200 (body ++ List.replicate (a.addr.toNat % 8) (0, false) ++ d) ++ bytesOf 16 (maskBits mask) ++ List.replicate 8 (0, false)
  { kind := 0, vc := a.vc, tag := fld a.addr 29 24, swafer := s.waferId.toNat, dwafer := w, inst := 0,
    gen := a.gen.toNat, pois := poisOf full, payload := full.map fun e => e.1 }

/-- The response frame of a request: its tag and generation, its number, the cause of its failure, its data from byte 16. -/
def State.responseFrame (s : State) (w req tag gen : Nat) (err : Option Cause) (d : List (Byte × Bool)) : Frame :=
  let full := bytesOf 8 req ++ bytesOf 1 ((err.map BitVec.toNat).getD 0) ++ bytesOf 2 d.length ++ List.replicate 5 (0, false) ++ d
  let full := padTo (32 * ((full.length + 31) / 32)) full
  { kind := 1, vc := 6, tag := tag, swafer := s.waferId.toNat, dwafer := w, inst := 0, gen := gen, pois := poisOf full,
    payload := full.map fun e => e.1 }

/-- The request of a frame, as it was made (the inverse of `requestFrame`). -/
def requestOp (f : Frame) : Op :=
  let p := framePayload f
  let num (o n : Nat) : Nat := numOf ((p.drop o).take n)
  let len := num 40 1
  let d := (p.drop (64 + num 8 8 % 8)).take len
  let b : Tok := { v := BitVec.ofNat 64 (num 24 8), poi := anyPoi ((p.drop 24).take 8) }
  let hi : Tok := { v := BitVec.ofNat 64 (num 32 8), poi := anyPoi ((p.drop 32).take 8) }
  match num 42 1 with
  | 0 => .read
  | 1 => .write d
  | 2 => .engWrite d (if num 41 1 / 8 % 2 = 1 then (List.range len).map fun i => num (200 + i / 8) 1 / 2 ^ (i % 8) % 2 == 1 else [])
  | 3 => .stf d
  | 4 => .ldf
  | 5 => .ldfe
  | 6 => .syncw (b.v.setWidth 32)
  | 7 => .atomic { i := (decodeRaw (BitVec.ofNat 64 (num 16 8))).toOption.getD (.dprea 0), b := b, hi := hi, len := len,
                   frm := BitVec.ofNat 3 (num 43 1) }
  | _ => .count b.v.toNat b.poi

/-- The access that an arriving request makes: its address in the form of this wafer (R32), its source a cell of the other
wafer. -/
def State.requestAcc (s : State) (g : Nat) (f : Frame) : Acc :=
  let p := framePayload f
  let num (o n : Nat) : Nat := numOf ((p.drop o).take n)
  let addr : Word := BitVec.ofNat 64 (num 8 8)
  let fl := num 41 1
  { id := s.fresh, who := .link g, cell := Config.nCells + f.swafer * 2 ^ 14 + num 44 2, vc := f.vc,
    addr := BitVec.ofNat 64 (fld addr 29 24 * 2 ^ 37 + fld addr 27 2 * 2 ^ 35 + fld addr 0 27), len := num 40 1, op := requestOp f,
    back := .far f.swafer (num 0 8) f.tag f.gen, sup := fl % 2 == 1 && fl / 16 % 2 == 0, fmode := fl / 2 % 2 == 1, at_ := fl / 4 % 2 == 1,
    gen := BitVec.ofNat 2 f.gen }

/-- An access leaves for another wafer; without a bound route it fails (R32). -/
def M.toWafer (m : M) (a : Acc) (w : Nat) : M :=
  let (s, ok) := m.s.sendFrame (m.s.requestFrame a w)
  if ok then m.on fun _ => { s with linkOut := s.linkOut ++ [a] } else m.dropAcc a cTrans .sys

/-- The answer of an access of another wafer leaves; without a route it is lost. -/
def State.toSource (s : State) (w req tag gen : Nat) (err : Option Cause) (d : List (Byte × Bool)) : State :=
  (s.sendFrame (s.responseFrame w req tag gen err d)).1

/-- A response reaches the access that waits for it. -/
def M.farAnswer (m : M) (f : Frame) : M :=
  let p := framePayload f
  let req := numOf (p.take 8)
  match m.s.linkOut.find? fun a => a.id == req with
  | none => m
  | some a =>
      let m := m.on fun s => { s with linkOut := s.linkOut.filter fun b => b.id != req }
      let c := BitVec.ofNat 8 (numOf ((p.drop 8).take 1))
      if c = 0 then (m.respond a (a.got ++ (p.drop 16).take (numOf ((p.drop 9).take 2))) none).performed a
      else m.dropAcc a c .sys

end Sys2Proof.Machine
end

