-- ==== Sys2Proof/Machine/Mesh.lean ====
section
/-! DEFINITION. Machine/Mesh.lean: where everything sits on the wafer (R12 to R15), the links of the mesh and the ports of the
gateways (R17), and the routers that a flit passes on its way. -/
namespace Sys2Proof.Machine
open Sys2Proof

/-! ### Sites (R12 to R14) -/

def absentSites : List (Nat × Nat) := [(0, 0), (1, 0), (0, 1), (8, 0), (9, 0), (9, 1), (0, 8), (0, 9), (1, 9), (8, 9), (9, 9), (9, 8)]
/-- G0 to G7 (Table 1-1). -/
def gateSites : List (Nat × Nat) := [(4, 0), (5, 0), (9, 4), (9, 5), (5, 9), (4, 9), (0, 5), (0, 4)]
/-- The inner neighbour fields of G0 to G7 (Table 1-1). -/
def gateFields : List Nat := [7, 8, 39, 47, 72, 71, 40, 32]
/-- The sites of fields 0 to 79. -/
def fieldSites : List (Nat × Nat) :=
  ((List.range 10).flatMap fun sy => (List.range 10).map fun sx => (sx, sy)).filter fun p => !absentSites.contains p && !gateSites.contains p
def siteOf (f : Nat) : Nat × Nat := fieldSites.getD f (0, 0)
/-- The field at a site: none at an absent site or a gateway. -/
def fieldAtSite (p : Nat × Nat) : Option Nat := fieldSites.findIdx? fun q => q == p
/-- Sites from one to another. -/
def hops (a b : Nat × Nat) : Nat := ((a.1 : Int) - b.1).natAbs + ((a.2 : Int) - b.2).natAbs
/-- The first of some numbers below n with the least measure. -/
def argMin (n : Nat) (f : Nat → Nat) : Nat := (List.range n).foldl (fun b i => if f i < f b then i else b) 0
/-- The gateway nearest to a field. -/
def gateNear (f : Nat) : Nat := argMin 8 fun g => hops (siteOf f) (gateSites.getD g (0, 0))
/-- The gateway nearest to most of some cells (R401), the lowest of equals. -/
def gateFor (cells : List Nat) : Nat :=
  let gs := cells.map fun c => gateNear (fieldOf c)
  argMin 8 fun g => cells.length - gs.count g
/-- Fields whose sites share an edge. -/
def edgeAdjacent (f : Nat) : List Nat := (List.range Config.nFields).filter fun g => hops (siteOf f) (siteOf g) == 1

/-! ### Coordinates (R15) -/

/-- (kx, ky) of a cluster in its field, and (cx, cy) of a cell in its cluster. -/
def clusterXY (cluster : Nat) : Nat × Nat := (cluster % 12 % 4, cluster % 12 / 4)
def cellXY (cell : Nat) : Nat × Nat := (cell % 16 % 4, cell % 16 / 4)
/-- (fx, fy) of a cell in its field. -/
def fieldXY (cell : Nat) : Nat × Nat :=
  (4 * (clusterXY (clusterOf cell)).1 + (cellXY cell).1, 4 * (clusterXY (clusterOf cell)).2 + (cellXY cell).2)
/-- (X, Y) of a cell on the wafer. -/
def waferXY (cell : Nat) : Nat × Nat :=
  (16 * (siteOf (fieldOf cell)).1 + (fieldXY cell).1, 12 * (siteOf (fieldOf cell)).2 + (fieldXY cell).2)
/-- The physical number of the cell at field coordinates. -/
def cellInField (f fx fy : Nat) : Nat := 192 * f + 16 * (4 * (fy / 4) + fx / 4) + (4 * (fy % 4) + fx % 4)
/-- The cell at wafer coordinates: none at an absent site or a gateway. -/
def cellAtXY (x y : Nat) : Option Nat := (fieldAtSite (x / 16, y / 12)).map fun f => cellInField f (x % 16) (y % 12)

/-! ### The mesh (R17) -/

/-- A link joins two cells whose coordinates differ by 1 in exactly one of X and Y.  Absent sites and gateways hold no cell,
so none crosses them; seams between fields are crossed as any other pair. -/
def meshLink (a b : Nat) : Bool := hops (waferXY a) (waferXY b) == 1
/-- The ports of a gateway: the cells on the facing edge of its inner neighbour field, 16 for a north or south gateway, 12 for
an east or west one. -/
def gatePorts (g : Nat) : List Nat :=
  let f := gateFields.getD g 0
  if g ≤ 1 then (List.range 16).map fun i => cellInField f i 0
  else if g ≤ 3 then (List.range 12).map fun i => cellInField f 15 i
  else if g ≤ 5 then (List.range 16).map fun i => cellInField f i 11
  else (List.range 12).map fun i => cellInField f 0 i

/-- Whether cells form a way along links from one to another. -/
def isWay (a b : Nat) : List Nat → Bool
  | [] => false
  | [c] => c == a && a == b
  | c :: d :: t => c == a && meshLink c d && isWay d b (d :: t)

/-- Numbers from one to another, both included. -/
def between (a b : Nat) : List Nat :=
  if a ≤ b then (List.range (b - a + 1)).map fun i => a + i else (List.range (a - b + 1)).map fun i => a - i
def rowWay (x u y : Nat) : List Nat := (between x u).filterMap fun i => cellAtXY i y
def colWay (x y v : Nat) : List Nat := (between y v).filterMap fun i => cellAtXY x i
/-- A way that exists between any two cells: into the inner 8 by 8 sites, which are all fields, along X, along Y, and out. -/
def innerWay (a b : Nat) : List Nat :=
  let (x, y) := waferXY a
  let (u, v) := waferXY b
  let inX (i : Nat) : Nat := min (max i 16) 143
  let inY (i : Nat) : Nat := min (max i 12) 107
  (rowWay x (inX x) y ++ colWay (inX x) y (inY y) ++ rowWay (inX x) (inX u) (inY y) ++ colWay (inX u) (inY y) (inY v) ++
    rowWay (inX u) u (inY v) ++ colWay u (inY v) v).eraseDups
/-- The routers a flit passes from one cell to another.  The spec gives the links and no routing function: any way is allowed,
and the one taken is open (log 47). -/
def meshWay (a b : Nat) : List Nat :=
  let p := Config.meshPath a b
  if isWay a b p then p else innerWay a b

/-- The gateway port that a flit between a cell and a gateway passes: open as well (log 47); here the nearest one. -/
def portNear (cell g : Nat) : Nat :=
  let l := gatePorts g
  l.getD (argMin l.length fun i => hops (waferXY cell) (waferXY (l.getD i 0))) 0

/-- The cell whose bypass port serves a dead cell's vault (R106). -/
def buddyOf (cell : Nat) : Nat := if cell % 2 = 0 then cell + 1 else cell - 1

/-- The router that a home hangs on, as seen from a source cell: a slice's by its place in the field (Table 4-1), a scratchpad's
of its cluster's cell with the source's index (R61 gives every cell a port), a dead cell's vault behind its buddy's (R106), a wafer
behind the gateway of its link. -/
def State.routerOf (s : State) (src : Nat) (h : Nat × Nat) : Option Nat :=
  match h.1 with
  | 2 => some (16 * h.2 + src % 16)
  | 3 => some (cellInField (h.2 / 80) (h.2 % 80 % 16) (2 * (h.2 % 80 / 16) + 1))
  | 4 => some (if (s.cellAt h.2).dead then buddyOf h.2 else h.2)
  | 7 => some (portNear src 0)
  | 8 => (s.linkTo h.2).map fun g => portNear src g
  | 9 => none
  | _ => some h.2

/-- The router at which an access enters the mesh: its cell's, or a port of the gateway it came by.  DESIGN CHOICE (log 47): a field
manager's flits enter at the cell at field coordinates (0, 0), which R17 does not name. -/
def State.routerFrom (s : State) (a : Acc) (dst : Nat) : Nat :=
  match a.who with
  | .link g => portNear dst g
  | .gate g => portNear dst g
  | .host => portNear dst 0
  | .mgr f => cellInField f 0 0
  | .seq c => if (s.cellAt c).dead then buddyOf c else c
  | _ => a.cell

/-- The routers that an access passes to a home. -/
def State.flitWay (s : State) (a : Acc) (h : Nat × Nat) : List Nat :=
  match s.routerOf a.cell h with
  | some d => meshWay (s.routerFrom a d) d
  | none => [a.cell]

/-- A failed router on the way: at either end it stops every flit, in between until the routes go around it (R418). -/
def State.wayFails (s : State) (w : List Nat) : Bool :=
  w.any (fun c => (s.cellAt c).routerDown && !(s.cellAt c).avoided) ||
  (match w.head?, w.getLast? with
   | some a, some b => (s.cellAt a).routerDown || (s.cellAt b).routerDown
   | _, _ => false)

end Sys2Proof.Machine
end

