-- ==== Sys2Proof/Machine/Queue.lean ====
section
/-! DEFINITION. Machine/Queue.lean: the store queue, remote loads, accesses at their homes, rings, semaphores and
messages (R41, R42, R50, R51, R56, R57, R65, R69 to R72, R85, R86, R148 to R155, R160 to R170, R187 to R190, R215,
R302 to R308, R389). -/
namespace Sys2Proof.Machine
open Sys2Proof

/-! ### Leaving a cell -/

/-- The VFIELD of an address that leaves by a tag. -/
def vfieldOf (addr : Word) : Nat := if fld addr 61 3 = 7 then fld addr 46 7 else fld addr 54 7
/-- The injection hold (R437). -/
def State.heldTag (s : State) (addr : Word) : Bool := s.holds.contains (vfieldOf addr)

/-- Bits [303:0] of a message flit as its sender forms it (Table 13-5). -/
def Msg.bits (m : Msg) (gen : BitVec 2) : BitVec 304 :=
  let word (i : Nat) : Tok := m.words.getD i {}
  BitVec.ofNat 304 (packFields ([(m.tag.toNat, 0), (m.vc, 24), (if m.wake then 2 else 1, 27), (m.words.length - 1, 31), (1, 33), (gen.toNat, 38),
    (ofBool m.adpt, 40)] ++ (List.range 4).flatMap fun i => [(ofBool (word i).poi, 34 + i), ((word i).v.toNat, 48 + 64 * i)]))
/-- The flit of a message in flight, 320 bits with its check bits. -/
def Acc.flit (a : Acc) : Option (BitVec 320) :=
  match a.op with
  | .message m => some (a.check ++ m.bits a.gen)
  | _ => none
/-- The injecting router computes the check bits of a message (R309). -/
def Acc.sealed (a : Acc) : Acc :=
  match a.op with
  | .message m => { a with check := Config.flitCheck (m.bits a.gen) }
  | _ => a
/-- Inject an access, stamped with the binding generation (R42). -/
def State.inject (s : State) (a : Acc) : State := { s with net := s.net ++ [({ a with gen := s.gen.setWidth 2 } : Acc).sealed] }

/-- The access of a store-queue command. -/
def Cmd.acc (c : Cmd) (addr : Word) (op : Op) (back : Back) (at_ : Bool) : Acc :=
  { id := c.id, who := .ctx c.cell c.x, cell := c.cell, vc := c.rvc, addr := addr, len := c.len, op := op, back := back,
    tok := c.tok, sup := c.sup, fmode := c.fmode, at_ := at_, hno := c.hno }

/-- The distance of a tag address's home, whether or not the access keeps that home's limit (R159).  Table 8-2 gives none for an
address without a translation, which has no home: it counts as WAF (log 48). -/
def State.tagDistance (s : State) (cell : Nat) (addr : Word) : Scope :=
  if fld addr 61 3 = 7 then .sys
  else match s.locate addr with
    | .ok p => s.distance cell p
    | .error _ => .waf
/-- Where a message goes at the first router of the home cluster (R215): cell, and whether adopted; none: dropped. -/
def State.msgCell (s : State) (tag : Nat) : Except Cause (Option (Nat × Bool)) :=
  match s.tagCell tag with
  | .error c => .error c
  | .ok (k, none) => .ok (some (k, false))
  | .ok (k, some i) =>
      let a := s.atab.get 0 i
      .ok (if a.getLsbD 23 then some (fieldOf k * 192 + fld a 13 8, true) else none)
/-- The distance of a message's destination: the cell to which it is redirected (R159, R215); a message that is dropped counts as WAF
(log 48). -/
def State.msgDistance (s : State) (cell : Nat) (tag : Nat) : Scope :=
  match s.msgCell tag with
  | .ok (some (k, _)) => s.distance cell { r := .tcm k, off := 0 }
  | _ => .waf

/-- The distance of a store-queue command's home, as the tables stand (R159, Table 8-2). -/
def State.cmdDistance (s : State) (c : Cmd) : Scope :=
  match c.i with
  | .send .. => s.msgDistance c.cell c.ea.toNat
  | .wake .. => s.msgDistance c.cell c.ea.toNat
  | .cpost .. => .waf
  | .cabrt .. => .waf
  | .sbar _ _ _ r => s.distance c.cell { r := ringRegion (ringRef c.cell r.toNat), off := 0 }
  | _ => match c.route.tagged with
    | some t => s.tagDistance c.cell t
    | none => match s.routePlace c.route with
      | some p => s.distance c.cell p
      | none => .cel

/-- Remove the head of a context's store queue. -/
def State.popSq (s : State) (cell x : Nat) : State := s.onCtx cell x fun c => { c with sq := c.sq.drop 1 }
/-- Replace the head. -/
def State.headSq (s : State) (cell x : Nat) (c : Cmd) : State :=
  s.onCtx cell x fun q => { q with sq := c :: q.sq.drop 1 }

/-- An operation leaves by the router: it is outstanding until its home performs or drops it. -/
def State.depart (s : State) (a : Acc) (cell x : Nat) (d : Scope) : State :=
  let s := (s.inject a).onCtx cell x fun c => { c with sq := c.sq.drop 1, outs := c.outs ++ [(a.id, d)] }
  match a.tok with
  | some (n, sc) => if covers sc d then s else s.emit n
  | none => s

/-- The op a command performs at a remote home, and whether it asks for atomicity. -/
def Cmd.remoteOp (c : Cmd) : Op × Bool :=
  match c.i with
  | .st _ _ at_ _ _ => (.write c.data, at_)
  | .stf .. => (.stf c.data, false)
  | .ldfe .. => (.ldfe, false)
  | _ => (.atomic c, true)

/-- Where the answer of a command goes: to its slots, or nowhere. -/
def Cmd.back (c : Cmd) : Back :=
  match c.i with
  | .st .. => .store c.cell c.x c.id
  | .stf .. => .store c.cell c.x c.id
  | .ldfe _ _ sgn _ => .slot c.cell c.x c.id sgn
  | _ => .slot c.cell c.x c.id false

/-- A queued operation is dropped (R41, R170): counted, its token carries the error, zero lands poisoned, the room that a
store to TREEINJ holds is given back (R50). -/
def State.dropCmd (s : State) (c : Cmd) (cause : Cause) (addr : Word) : State :=
  let s := (s.recordDrop c.cell c.x c.id c.hno cause addr (s.cmdDistance c)).emitErrOf c.tok cause addr
  let s := if c.treeChan.isSome then s.onCell c.cell fun k => { k with injRes := k.injRes - 1, extRes := k.extRes - 1 } else s
  s.onCtx c.cell c.x fun q => q.result c.id { v := 0, poi := true }

/-! ### Semaphores (R148, R149) -/

/-- A release, saturating. -/
def Cell.semAdd (k : Cell) (q n : Nat) : Cell :=
  let v := (k.sem.get 0 q).toNat + n
  if v > 2 ^ 32 - 1 then
    { k with sem := k.sem.set q (BitVec.ofNat 32 (2 ^ 32 - 1)), semovf := k.semovf ||| (1#64 <<< q), ovfNow := k.ovfNow ||| (1#64 <<< q) }
  else { k with sem := k.sem.set q (BitVec.ofNat 32 v) }
/-- A release in the present core cycle: releases come before acquires (R150), so that one which comes after something has been
taken from its semaphore counts in the next cycle. -/
def Cell.semRelease (k : Cell) (q n : Nat) : Cell :=
  if k.acqNow.contains q then { k with semLate := k.semLate ++ [(q, n)] } else k.semAdd q n

/-! ### The head of the store queue (R164) -/

/-- A local store performs its next atomic unit (R53, R62); the last one makes the entry leave. -/
def M.localStore (m : M) (c : Cmd) (p : Place) : M :=
  let at_ := c.remoteOp.2
  let e := unitEnd c.fmode at_ p.off c.len c.done
  match c.i with
  | .stf .. => ((m.engStore p c.data).on fun s => s.emitOf c.tok).on fun s => s.popSq c.cell c.x
  | _ =>
      let m := ((m.storeBytes { p with off := p.off + c.done } ((c.data.drop c.done).take (e - c.done))).closeUnits p c.data [] c.done e).wake p
      if e < c.len then m.on fun s => s.headSq c.cell c.x { c with done := e }
      else (m.on fun s => s.emitOf c.tok).on fun s => s.popSq c.cell c.x

/-- A local atomic: performed, its old value on its way to its slots (R166, R299). -/
def M.localAtomic (m : M) (c : Cmd) (p : Place) : M :=
  let (m, old) := m.atomic c p none
  (m.wake p).on fun s => ((s.emitOf c.tok).popSq c.cell c.x).onCtx c.cell c.x fun q => q.result c.id (tokOfBytes false old)

/-- A local LDFE waits at its word, holding its entry, until it is served (R65, R298). -/
def M.localLdfe (m : M) (c : Cmd) (p : Place) : M :=
  let m := if c.phase = 0 then
      (m.arriveWait { (c.acc c.ea .ldfe c.back false) with place := some p }).on fun s =>
        s.headSq c.cell c.x { c with phase := 1 }
    else m
  if m.s.waits.any fun w => w.id == c.id then m else m.on fun s => s.popSq c.cell c.x

/-- An operation that straddles carve-out and overflow area leaves as pieces (R56): its first n bytes are stored here, the rest goes to
its home; an atomic, and an LDFE, act at that home with their first bytes. -/
def M.splitLeave (m : M) (c : Cmd) (p : Place) (n : Nat) (t : Word) : M :=
  let rest (o : Op) : Op := match o with
    | .write d => .write (d.drop n)
    | .stf d => .stf (d.drop n)
    | o => o
  let lead := isAtomic c.i
  let m := match c.i with
    | .st .. => (m.storeBytes p (c.data.take n)).wake p
    | .stf .. => m.engStore p (c.data.take n)
    | _ => m
  m.on fun s => s.depart { c.acc t (rest c.remoteOp.1) c.back c.remoteOp.2 with len := c.len - n, lead := if lead then some (p, n) else none }
    c.cell c.x (s.tagDistance c.cell t)

/-- Push a TREEINJ operand into the cell's inject queue (R50). -/
def State.treePush (s : State) (c : Cmd) (chan : Nat) : State :=
  ((s.onCell c.cell fun k =>
    { k with inj := k.inj ++ [(chan, { v := c.b.v, poi := c.b.poi })], injRes := k.injRes - 1 }).emitOf c.tok).popSq c.cell c.x

/-- Where in the extract queue the oldest entry of a channel stands that no block of the context has read; those read leave at
their block's commit (R51). -/
def State.treeNext (s : State) (cell x chan : Nat) : Option Nat :=
  let k := s.cellAt cell
  let taken := ((s.ctxAt cell x).flight.map fun b => (b.acts.filter fun a => a.2 == .pop chan).length).foldl (· + ·) 0
  ((List.range k.ext.length).filter fun i => (k.ext.getD i (0, {})).1 == chan)[taken]?

/-- LDFE on TREEEXT takes the oldest entry of its channel, or waits (R51, R298). -/
def State.treeTake (s : State) (c : Cmd) (chan : Nat) : State :=
  let k := s.cellAt c.cell
  match s.treeNext c.cell c.x chan with
  | some i =>
      let t := (k.ext.getD i (0, {})).2
      let n := c.len
      let sgn := match c.i with
        | .ldfe _ _ b _ => b
        | _ => false
      (((s.setCell c.cell { k with ext := k.ext.eraseIdx i }).emitOf c.tok).popSq c.cell c.x).onCtx c.cell c.x fun q =>
        q.result c.id (tokOfBytes sgn (bytesOf n t.v.toNat t.poi))
  | none => s

/-- Whether a vector or drain command may access a ring: by port a, or, a VCST, by the list it appends to at port b. -/
def Cmd.ringy (c : Cmd) : Bool :=
  cmdAccesses c && (fld c.a.v 61 3 == 3 || (match c.i with
    | .vcst .. => fld c.b.v 61 3 == 3
    | _ => false))

/-- Whether a ring access of a vector or matrix command committed before an SBAR is still to be performed (R323, R358). -/
def State.engRing (s : State) (c : Cmd) : Bool :=
  let k := s.cellAt c.cell
  (k.vxq ++ k.mxq).any (fun q => q.x == c.x && q.ringy && !q.before.contains c.id) ||
  k.vxRun.any (fun r => r.cmd.x == c.x && (r.flying.any (fun f => f.ring) || (r.cmd.ringy && !r.elems.isEmpty))) ||
  k.mxRun.any (fun r => r.cmd.x == c.x && r.flying.any (fun f => f.ring))

/-- The arrival of a context's SBAR (R70, R304): recorded, or it waits. -/
def State.sbarArrive (s : State) (c : Cmd) (ring : BitVec 5) : State :=
  let r := ringRef c.cell ring.toNat
  if s.engRing c && (s.ringAt r).mask.getLsbD (ringBitCtx r c.cell c.x) then s else
  match (s.ringAt r).arrive (ringBitCtx r c.cell c.x) with
  | some d => ((s.setRing r d).emitOf c.tok).popSq c.cell c.x
  | none => s

/-- The words of a SEND or WAKE. -/
def Cmd.message (c : Cmd) (wake : Bool) (vc : Nat) : Msg :=
  { vc := vc, tag := c.ea.setWidth 24, words := { v := c.b.v, poi := c.b.poi } :: c.ws.map (fun w => { v := w.v, poi := w.poi }),
    wake := wake }
/-- A message leaves on the VC of its edge (R163, R307). -/
def State.sendMsg (s : State) (c : Cmd) (wake : Bool) (vc : Nat) : State :=
  if s.holds.contains (fld c.ea 17 7) then s
  else
    let a := { (c.acc c.ea (.message (c.message wake vc)) (.store c.cell c.x c.id) false) with vc := vc, len := 0 }
    s.depart a c.cell c.x (s.msgDistance c.cell c.ea.toNat)

/-- A post or an abort leaves for its gateway (R376, R378), whose distance is WAF: a narrower token does not wait for it (R160). -/
def State.toGate (s : State) (c : Cmd) : State :=
  let s := s.onCtx c.cell c.x fun q => { q with sq := q.sq.drop 1, outs := q.outs ++ [(c.id, .waf)] }
  let s := { s with gateIn := s.gateIn ++ [c] }
  match c.tok with
  | some (n, sc) => if covers sc .waf then s else s.emit n
  | none => s

/-- The head entry, its wait over. -/
def M.sqHead (m : M) (c : Cmd) : M :=
  let s := m.s
  match c.i with
  | .srel _ l => m.on fun s => ((s.onCell c.cell fun k => k.semRelease l.q.toNat c.len).emitOf c.tok).popSq c.cell c.x
  | .sbar _ _ _ r => m.on fun s => s.sbarArrive c r
  | .cfence .. => m.on fun s => s.popSq c.cell c.x
  | .send _ l => m.on fun s => s.sendMsg c false l.vc.toNat
  | .wake _ l => m.on fun s => s.sendMsg c true l.vc.toNat
  | .cpost _ _ _ cp =>
      if (s.ctxAt c.cell c.x).outs.isEmpty && (s.cellAt c.cell).cpIdle cp.toNat &&
          !(s.gateIn.any fun g => g.cell == c.cell && (match g.i with
            | .cpost _ _ _ q => q == cp
            | _ => false)) then m.on fun s => s.toGate c
      else m
  | .cabrt .. => m.on fun s => s.toGate c
  | _ =>
    match c.route with
    | .tag t =>
        if s.heldTag t then m
        else m.on fun s => s.depart (c.acc t c.remoteOp.1 c.back c.remoteOp.2) c.cell c.x (s.tagDistance c.cell t)
    | .split p n t => if s.heldTag t then m else m.splitLeave c p n t
    | .mmio o =>
        (match c.treeChan, treeExt o with
         | some ch, _ => m.on fun s => s.treePush c ch
         | none, some ch => m.on fun s => s.treeTake c ch
         | none, none => m.on fun s => s.popSq c.cell c.x)
    | _ =>
      let held := match c.route with
        | .ring q _ _ => c.phase == 0 && c.done == 0 && s.ringHeld q (ringBitCtx q c.cell c.x)
        | _ => false
      if held then m
      else
        match s.routePlace c.route with
        | none => m.on fun s => s.popSq c.cell c.x
        | some p =>
            (match c.i with
             | .st .. => m.localStore c p
             | .stf .. => m.localStore c p
             | .ldfe .. => m.localLdfe c p
             | _ => m.localAtomic c p)

/-- STORE_QUEUE_LEAVE: the head entry, once its token is emitted, is performed or injected (R164, R168, R170). -/
def M.sqLeave (m : M) (cell x : Nat) : M :=
  if (m.s.fieldAt (fieldOf cell)).gated then m
  else
    match (m.s.ctxAt cell x).sq with
    | [] => m
    | c :: _ =>
        match m.s.waitOf c.wait with
        | .waiting => m
        | .error cause addr => m.on fun s => (s.dropCmd c cause addr).popSq cell x
        | .emitted => m.sqHead c
def execStoreQueueLeave (cell x : Nat) (s : State) : Host.Outcome State Fault Refusal := run s fun m => m.sqLeave cell x

/-- TREEINJ_PUSH: as STORE_QUEUE_LEAVE when the head is a store to TREEINJ (R50). -/
def execTreeinjPush (cell x : Nat) (s : State) : Host.Outcome State Fault Refusal :=
  run s fun m => match (m.s.ctxAt cell x).sq with
    | c :: _ => if c.treeChan.isSome then m.sqLeave cell x else m
    | [] => m

/-! ### Remote loads (R165, R166, R168, R171) -/

/-- An instruction of the oldest block, waiting for a response, is answered with an effect. -/
def State.answer (s : State) (cell x pos idx : Nat) (r : Eff) : State :=
  s.onCtx cell x fun c => match c.block pos with
    | some b => (match b.instr idx, b.insts[idx]? with
        | some i, some n =>
            (match infoOf i with
             | some f => if n.st = .issued ∨ n.st = .held then c.setBlock pos (b.finish idx f.hdr (s.tickOf cell) r) else c
             | none => c)
        | _, _ => c)
    | none => c

/-- The first remote load of a block in program order, when no earlier load of the block may still become one. -/
def Block.nextLoad (b : Block) : Option Cmd :=
  let first := b.loads.foldl (fun o c => match o with
    | none => some c
    | some d => if c.idx < d.idx then some c else some d) (none : Option Cmd)
  match first with
  | none => none
  | some c =>
      if (b.insts.take c.idx).any fun n => n.st == .waiting && (match (decodeRaw n.word).toOption.bind infoOf with
          | some f => f.kind == .load && f.eng.isNone
          | none => false) then none
      else some c

/-- A store before an instruction of the block that has not fired: it may yet write bytes that a redirected spill load
returns (R57). -/
def Block.storeAhead (b : Block) (idx : Nat) : Bool :=
  (b.insts.take idx).any fun n => n.st == .waiting && (match (decodeRaw n.word).toOption with
    | some i => isStore i
    | none => false)

/-- REMOTE_LOAD_ISSUE. -/
def execRemoteLoadIssue (cell x : Nat) (s : State) : Host.Outcome State Fault Refusal :=
  run s fun m => m.on fun s =>
    match s.oldest cell x with
    | none => s
    | some b =>
        match b.nextLoad with
        | none => s
        | some c =>
            let gone (s : State) : State := s.onCtx cell x fun q => match q.flight with
              | b :: t => { q with flight := { b with loads := b.loads.filter fun k => k.id != c.id } :: t }
              | [] => q
            match c.route.tagged, s.waitOf c.wait with
            | some t, .emitted =>
                if !(s.ctxAt cell x).sq.isEmpty || b.holdsLoads c.idx || s.heldTag t || (fld c.ea 61 3 == 1 && b.storeAhead c.idx) then s
                else
                  let op : Op := match c.i with
                    | .ldf .. => .ldf
                    | .syncw .. => .syncw (c.b.v.setWidth 32)
                    | _ => .read
                  let at_ := match c.i with
                    | .ld _ _ _ at_ _ _ => at_
                    | _ => false
                  let n := c.route.localLen c.len
                  let a := c.acc t op (.inst cell x b.id c.idx) at_
                  let got := match n, s.envAt cell x 0 c.idx, s.routePlace c.route with
                    | _ + 1, some e, some p => e.localBytes p n
                    | _, _, _ => []
                  let s := (gone s).onCtx cell x fun q => match q.flight with
                    | b :: u => { q with flight := { b with leads := if n = 0 then b.leads else (c.idx, n) :: b.leads } :: u }
                    | [] => q
                  s.inject { a with len := c.len - n, got := got }
            | _, .error cause addr => (gone s).answer cell x 0 c.idx (effFault cause addr)
            | _, _ => s

/-- Bytes of redirected spill stores that earlier instructions of the block make, in program order (R57), over a response. -/
def Block.spillOver (b : Block) (idx : Nat) (addr : Word) (d : List (Byte × Bool)) : List (Byte × Bool) :=
  (b.queueUp idx).foldl (fun d c => match c.route.tagged with
    | some t =>
        let n := c.route.localLen c.len
        if isStore c.i ∧ fld c.ea 61 3 = 1 then
          overlay ((List.range d.length).map fun i => some (addr.toNat + i)) d
            ((List.range (c.len - n)).map fun i => some (t.toNat + i)) (c.data.drop n)
        else d
    | none => d) d

/-- A load's answer reaches its instruction: the value, or the fault that the response carries (R41). -/
def State.loadAnswer (s : State) (cell x blk idx : Nat) (data : List (Byte × Bool)) (err : Option Cause) (addr : Word) : State :=
  match (s.ctxAt cell x).posOf blk with
  | none => s
  | some pos =>
      match s.envAt cell x pos idx, ((s.ctxAt cell x).block pos).bind fun b => b.instr idx with
      | some e, some i =>
          (match err with
           | some c => s.answer cell x pos idx (effFault c addr)
           | none =>
               let n := ((e.blk.leads.find? fun l => l.1 == idx).map fun l => l.2).getD 0
               let d := if fld (e.tok .a).v 61 3 = 1 then data.take n ++ e.blk.spillOver idx addr (data.drop n) else data
               s.answer cell x pos idx { loadEff e.f (loadForm i) e.pp d with st := .fired })
      | _, _ => s

/-! ### Where messages go (R187, R188, R215, R308) -/

/-- The handler-table entry of a message (R186, R215). -/
def Cell.handler (k : Cell) (m : Msg) : Word :=
  (if m.adpt then k.ahtab else k.htab).get 0 (32 * m.vc + fld m.tag 4 5)
/-- The context of a bound entry. -/
def handlerCtx (e : Word) : Option Nat := if e.getLsbD 63 then some (fld e 61 2) else none

/-- Merge an arriving WAKE into a queued one of the same VC and NODE (R308). -/
def mergeWake (m : Msg) : List Msg → Option (List Msg)
  | [] => none
  | q :: t =>
      if q.wake ∧ q.vc = m.vc ∧ fld q.tag 4 5 = fld m.tag 4 5 then
        match q.words, m.words with
        | w :: _, v :: _ => some ({ q with words := [{ v := w.v + v.v, poi := w.poi || v.poi }] } :: t)
        | _, _ => some (q :: t)
      else (mergeWake m t).map fun r => q :: r

/-- Write a message into a context's queue; none when it has no room (R188). -/
def Ctx.takeMsg (c : Ctx) (m : Msg) : Option Ctx :=
  match if m.wake then mergeWake m c.mq else none with
  | some q => some { c with mq := q }
  | none => if c.mq.length < 16 then some { c with mq := c.mq ++ [m] } else none

/-! ### Homes (R161, R163) -/

/-- A block is fetched from no carve-out but a supervisor carve-out (R88). -/
def State.fetchable (s : State) (p : Place) : Bool :=
  match p.r with
  | .carve f sl => ((s.fieldAt f).slice sl).mode == 2
  | _ => true

/-- Where an access leads now: through its ring, its tag, or as named.  DESIGN CHOICE (log 52): each unit of a ring access
resolves its slot by the SP then current, also of an agent that no mask holds back while the ring rotates between them (R69). -/
def State.accPlace (s : State) (a : Acc) : Except Cause Place :=
  match a.place, a.ring with
  | some p, _ => .ok p
  | none, some (r, k, off) => .ok (s.ringPlace r k off)
  | none, none =>
      match s.homePlace a.sup a.addr a.len, a.who with
      | .ok p, .fetch _ _ => if s.fetchable p then .ok p else .error cSpace
      | r, _ => r

/-- The generation in which a stamped flit was injected (R436). -/
def State.flitGen (s : State) (g : BitVec 2) : Nat := s.gen.toNat - (s.gen.setWidth 2 - g).toNat

/-- The table entries that a tag's translation uses. -/
def State.entriesOf (s : State) (tag : Nat) (region : Nat) : List Nat :=
  let f := s.ftab.get 0 (tag / 2 ^ 17 % 128)
  let fi := fld f 0 7
  let c := (s.fieldAt fi).ctab.get 0 (tag / 2 ^ 13 % 16)
  let cl := fi * 12 + fld c 0 4
  let l := s.ltab.get 0 (cl * 16 + tag / 2 ^ 9 % 16)
  let am := (cl * 2 + fld l 13 1) * 32 + tag / 2 ^ 4 % 32
  [bindKey (.ftab (tag / 2 ^ 17 % 128)), bindKey (.ctab fi (tag / 2 ^ 13 % 16))] ++
  (if region ≥ 2 then [] else [bindKey (.ltab cl (tag / 2 ^ 9 % 16))]) ++
  (if region = 0 && l.getLsbD 14 then [2 ^ 20 + am] else [])

/-- The tag and region that an access is translated by; none when it is not. -/
def Acc.tagOf (a : Acc) : Option (Nat × Nat) :=
  match a.op with
  | .message m => some (m.tag.toNat, 0)
  | _ => if a.place.isSome || a.ring.isSome || fld a.addr 61 3 ≠ 0 then none else some (fld a.addr 37 24, fld a.addr 35 2)

/-- A flit of a stale generation whose translation was rewritten since (R436). -/
def State.stale (s : State) (a : Acc) : Bool :=
  match a.tagOf with
  | some (t, r) =>
      a.gen != s.gen.setWidth 2 && (s.entriesOf t r).any fun k => decide (s.flitGen a.gen < (s.wroteGen.get 0 k).toNat)
  | none => false

/-- The home of an access for the order of R163: a message's is its destination cell. -/
def State.accHome (s : State) (a : Acc) : Nat × Nat :=
  match a.op with
  | .message m => (match s.tagCell m.tag.toNat with
      | .ok (k, none) => (1, k)
      | .ok (k, some i) => (1, fieldOf k * 192 + fld (s.atab.get 0 i) 13 8)
      | .error _ => (9, m.tag.toNat))
  | _ => (match s.accPlace a with
      | .ok p => s.homeOf p
      | .error _ => (9, fld a.addr 37 24))

/-- The cell at whose router a message waits because its context's queue is full (R188). -/
def State.jamAt (s : State) (a : Acc) : Option Nat :=
  match a.op with
  | .message m =>
      if a.done = 0 then none
      else match s.msgCell m.tag.toNat with
        | .ok (some (k, adpt)) =>
            (handlerCtx ((s.cellAt k).handler { m with adpt := adpt })).bind fun x =>
              if ((s.ctxAt k x).takeMsg { m with adpt := adpt }).isNone then some k else none
        | _ => none
  | _ => none
/-- An access behind a message that waits at a router on its way, on the same VC, whatever its destination (R188). -/
def State.jammed (s : State) (n : Nat) (a : Acc) : Bool :=
  (s.net.take n).any fun b => b.vc == a.vc && (match s.jamAt b with
    | some k => (s.flitWay a (s.accHome a)).contains k
    | none => false)

/-- Whether the host translation an access needs is at hand (R37, R465). -/
def State.atsReady (s : State) (p : Place) : Bool :=
  match p.r with
  | .host pasid => (s.atsPage pasid (p.off / 4096)).isSome
  | _ => true

/-- The router that misroutes a stale flit (R436, R438).  DESIGN CHOICE (log 83): the first on its way that uses a rewritten entry: the
one after its source for FTAB, which every router uses, else the first of its way in the field that its tag leads to. -/
def State.misRouter (s : State) (a : Acc) : Nat :=
  let way := s.flitWay a (s.accHome a)
  match a.tagOf with
  | some (t, _) =>
      if s.flitGen a.gen < (s.wroteGen.get 0 (bindKey (.ftab (t / 2 ^ 17 % 128)))).toNat then way.getD 1 (way.getD 0 a.cell)
      else (way.find? fun c => fieldOf c == fld (s.ftab.get 0 (t / 2 ^ 17 % 128)) 0 7).getD a.cell
  | none => a.cell
/-- The field whose manager takes a misrouted flit, and whether its queue of 4,096 flits has room (R438). -/
def State.misField (s : State) (a : Acc) : Nat := fieldOf (s.misRouter a)
def State.misRoom (s : State) (f : Nat) : Bool := decide ((s.misq.filter fun e => e.1 == f).length < 4096)
/-- A flit behind a misrouted one of its VC whose router holds it because its manager's queue is full (R438). -/
def State.stalled (s : State) (n : Nat) (a : Acc) : Bool :=
  (s.net.take n).any fun b => b.vc == a.vc && s.stale b && !s.misRoom (s.misField b) && (s.flitWay a (s.accHome a)).contains (s.misRouter b)
/-- A piece for host memory is not held behind one that waits for the translation of another page (R465). -/
def State.pastMiss (s : State) (b a : Acc) : Bool :=
  match b.place, a.place with
  | some p, some q => (match p.r, q.r with
    | .host i, .host j => !s.atsReady p && !(i == j && p.off / 4096 == q.off / 4096)
    | _, _ => false)
  | _, _ => false

/-- No earlier access that must come first is still to be performed: of the same source cell, home and VC (R163), or a
message that waits on its way (R188); for a local access of VXE or MXE, any earlier local one of the same engine (R316, R358). -/
def State.firstAtHome (s : State) (n : Nat) (a : Acc) : Bool :=
  if a.isLocal then
    match a.who with
    | .vxe c _ => (s.net.take n).all fun b => !(b.isLocal && (match b.who with
        | .vxe d _ => c == d
        | _ => false))
    | .mxe c _ => (s.net.take n).all fun b => !(b.isLocal && (match b.who with
        | .mxe d _ => c == d
        | _ => false))
    | _ => true
  else ((s.net.take n).all fun b => b.isLocal || !(b.cell == a.cell && b.vc == a.vc && s.accHome b == s.accHome a) || s.pastMiss b a) &&
    !s.jammed n a && !s.stalled n a

/-- Replace or remove the n-th access in flight. -/
def State.setNet (s : State) (n : Nat) (a : Option Acc) : State :=
  { s with net := match a with
    | some a => s.net.set n a
    | none => s.net.eraseIdx n }

/-- The agent bit that holds an engine's ring access (R72). -/
def State.accHeld (s : State) (a : Acc) : Bool :=
  match a.ring, a.who with
  | some (r, _, _), .ctx c x => a.done == 0 && s.ringHeld r (ringBitCtx r c x)
  | some (r, _, _), .vxe c x => a.done == 0 && s.ringHeld r (ringBitCtx r c x)
  | some (r, _, _), .mxe c x => a.done == 0 && s.ringHeld r (ringBitCtx r c x)
  | some (r, _, _), .txe c => a.done == 0 && s.ringHeld r (ringBitTxe r c)
  | some (r, _, _), .seq c => s.ringHeld r (ringBitSeq r c)
  | _, _ => false

def Op.writes : Op → Bool
  | .write _ => true
  | .engWrite _ _ => true
  | .stf _ => true
  | .atomic _ => true
  | _ => false

/-- An access that its home refuses (R41). -/
def M.failAcc (m : M) (a : Acc) (c : Cause) : M := m.dropAcc a c (m.s.tagDistance a.cell a.addr)

/-- Whether a cell's vault is out of reach: its interface has failed, or the cell and its buddy are dead (R106, R107). -/
def State.vaultGone (s : State) (c : Nat) : Bool :=
  (s.cellAt c).vifDead || ((s.cellAt c).dead && (s.cellAt (buddyOf c)).dead)
def State.vaultLost (s : State) (p : Place) : Bool :=
  match p.r with
  | .vault c => s.vaultGone c
  | _ => false

/-- The unit numbers of a home that lies in a cell (R43). -/
def homeCell (h : Nat × Nat) : Option Nat := if h.1 = 1 ∨ h.1 = 4 ∨ h.1 = 5 ∨ h.1 = 6 then some h.2 else none
/-- An access with a failed router on its way (R17, R418). -/
def State.routerStops (s : State) (a : Acc) : Bool :=
  s.cells.any (fun e => e.2.routerDown) && !a.isLocal && s.wayFails (s.flitWay a (s.accHome a))

/-- An engine's access to the MMIO window (R48 to R51): a register, the oldest entry of a TREEEXT channel or zero with
MISS, or a push into the inject queue, which waits for room. -/
def M.mmioAccess (m : M) (n : Nat) (a : Acc) : M :=
  let o := fld a.addr 0 32 - 0x40000000
  let x := match a.who with
    | .vxe _ x => x
    | .mxe _ x => x
    | _ => 0
  let k := m.s.cellAt a.cell
  let fin (m : M) (d : List (Byte × Bool)) : M := ((m.performed a).respond a d none).on fun s => s.setNet n none
  match a.op, treeExt o with
  | .engWrite d _, _ =>
      if k.treeRoom 1 then
        fin (m.on fun s => s.onCell a.cell fun k =>
          { k with extRes := k.extRes + 1, inj := k.inj ++ [(o / 8, { v := BitVec.ofNat 64 (numOf d), poi := anyPoi d })] }) []
      else m
  | _, some ch =>
      (match m.s.treeNext a.cell x ch with
       | some i =>
           let t := (k.ext.getD i (0, {})).2
           fin (m.on fun s => s.setCell a.cell { k with ext := k.ext.eraseIdx i }) (bytesOf 8 t.v.toNat t.poi)
       | none => fin (m.on fun s => s.setCell a.cell { k with missNow := true }) (bytesOf 8 0))
  | _, none =>
      let v := (m.s.mmioRead a.cell x o).getD 0
      let m := if o = 0x0200 then m.on fun s => s.csrSide a.cell 0x109 else m
      fin m (bytesOf 8 v)

/-- An access arrives at its home (R161): at a vault it joins the untimed queue, at a cache slice it hits or waits
for a fill, elsewhere its next atomic unit is performed. -/
def M.homeAccess (m : M) (n : Nat) (a : Acc) : M :=
  let s := m.s
  if a.place.isNone && a.ring.isNone && fld a.addr 61 3 == 1 then m.mmioAccess n a
  else
  match s.accPlace a with
  | .error c => (m.failAcc a c).on fun s => s.setNet n none
  | .ok p =>
      if a.op.writes && s.codeWrite p a.len (a.sup && !a.byTxe) then (m.failAcc a cSpace).on fun s => s.setNet n none
      else if s.vaultLost p then (m.failAcc a cSpace).on fun s => s.setNet n none
      else if !s.atsReady p then m
      else
        match p.r with
        | .far w => (m.toWafer a w).on fun s => s.setNet n none
        | .vault c =>
            (match s.boundSlice c p.off with
             | none =>
                 if 32 ≤ (s.cellAt c).vault.queue.length then m
                 else m.on fun s => (s.setNet n none).onCell c fun k =>
                   { k with vault := { k.vault with queue := k.vault.queue ++ [{ a with place := some p }] } }
             | some (_, sl) =>
                 let f := fieldOf c
                 let v := (s.fieldAt f).slice sl
                 if v.flushing then m
                 else if v.waiting.isEmpty && (s.lineAt p).isSome then
                   let (m, rest) := m.performAt a p
                   m.on fun s => (s.setNet n rest).useLine f sl (p.off / 128)
                 else m.on fun s => (s.setNet n none).onField f fun fl =>
                   { fl with slices := fl.slices.set sl { fl.slice sl with waiting := (fl.slice sl).waiting ++ [{ a with place := some p }] } })
        | _ =>
            let (m, rest) := m.performAt a p
            m.on fun s => s.setNet n rest

/-- HOME_ACCESS: the n-th access in flight is performed, or its next part, if no earlier one of its source, home and
VC is before it and no router misroutes it. -/
def M.netAccess (m : M) (n : Nat) (ok : Op → Bool) : M :=
  match m.s.net[n]? with
  | none => m
  | some a =>
      if ok a.op && m.s.firstAtHome n a && !m.s.stale a && !m.s.accHeld a && !m.s.routerStops a then m.homeAccess n a else m

def Op.isMessage : Op → Bool
  | .message _ => true
  | _ => false
def Op.isCount : Op → Bool
  | .count _ _ => true
  | _ => false

def execHomeAccess (n : Nat) (s : State) : Host.Outcome State Fault Refusal :=
  run s fun m => m.netAccess n fun o => !o.isMessage && !o.isCount
/-- SYNC_WORD_ARRIVAL: a counted piece reaches its sync word (R152). -/
def execSyncWordArrival (n : Nat) (s : State) : Host.Outcome State Fault Refusal :=
  run s fun m => m.netAccess n Op.isCount

/-- FULL_EMPTY_RELEASE and SYNCW_RELEASE: waiters whose word is full, or whose generation is reached, are served in
arrival order (R65, R303); the step that fills a word serves them at once, so that this one finds none left. -/
def execFullEmptyRelease (_unit : Nat) (s : State) : Host.Outcome State Fault Refusal := run s fun m => m.serveWaits
def execSyncwRelease (_unit : Nat) (s : State) : Host.Outcome State Fault Refusal := run s fun m => m.serveWaits

/-! ### Rings (R70 to R72) -/

/-- A ring whose arrivals are complete, and which has not rotated in this core cycle. -/
def Ring.complete (d : Ring) : Bool := d.valid && d.mask != 0 && d.arr == d.mask && !d.turned
/-- The stage pointer advances when ARR equals the union of the masks (R71, R75); what the ring's home performs in the rest of
the core cycle would use the old one, so that it waits for the next. -/
def M.rotate (m : M) (r : RingRef) : M :=
  let d := m.s.ringAt r
  if d.complete then
    let sp := BitVec.ofNat 4 ((d.sp.toNat + 1) % d.slots)
    let d' := { d with sp := sp, gen := d.gen + 1, arr := d.pend, pend := 0, turned := true }
    let m := m.on fun s => s.setRing r d'
    if d.fec then m.write (m.s.fullOps { r := ringRegion r, off := d.base + d'.slotOf d.phi * d.slotSize } d.slotSize false)
    else m
  else m

/-- RING_ROTATION: at the latest, CORE_CYCLE makes it. -/
def execRingRotation (r : RingRef) (s : State) : Host.Outcome State Fault Refusal := run s fun m => m.rotate r

/-- RING_HOLD_RELEASE: a held load is performed against the stage pointer of the rotation that freed its agent (R72); one of
several units goes on unit by unit (R62). -/
def execRingHoldRelease (n : Nat) (s : State) : Host.Outcome State Fault Refusal :=
  run s fun m =>
    match m.s.held[n]? with
    | none => m
    | some a =>
        match a.ring, a.back with
        | some (r, k, off), .inst cell x blk idx =>
            if m.s.ringHeld r (ringBitCtx r cell x) || m.s.asleep cell then m
            else
              let p := m.s.ringPlace r k off
              let m := m.on fun s => { s with held := s.held.eraseIdx n }
              (match a.op with
               | .read =>
                   if unitEnd a.fmode a.at_ p.off a.len 0 < a.len then m.on fun s => { s with net := s.net ++ [a] }
                   else
                   let d := match ((m.s.ctxAt cell x).posOf blk).bind fun pos => m.s.envAt cell x pos idx with
                     | some e => e.localBytes p a.len
                     | none => m.s.fetchBytes p a.len
                   m.on fun s => (s.emitOf a.tok).loadAnswer cell x blk idx d none a.addr
               | _ => m.arriveWait { a with place := some p, ring := none })
        | _, _ => m

/-! ### Semaphores and cluster barriers -/

/-- SEMAPHORE_ACQUIRE_SERVE: the first waiting acquire of a semaphore, when the amount is there and its block can
commit in this core cycle (R149, R150). -/
def State.serveSem (s : State) (cell q : Nat) : State :=
  let k := s.cellAt cell
  match k.semWait.find? fun w => w.q == q with
  | none => s
  | some w =>
      match s.oldest cell w.x with
      | none => s
      | some b =>
          let v := (k.sem.get 0 q).toNat
          if b.id = w.blk ∧ w.n ≤ v ∧ s.canCommit cell w.x b serviced then
            let s := s.setCell cell { k with sem := k.sem.set q (BitVec.ofNat 32 (v - w.n)), semWait := k.semWait.erase w, acqNow := q :: k.acqNow }
            (s.onCtx cell w.x fun c => c.markAcq w.idx fun a => { a with phase := 2 }).tryCommit cell w.x
          else s
def execSemaphoreAcquireServe (cell q : Nat) (s : State) : Host.Outcome State Fault Refusal :=
  run s fun m => m.on fun s => s.serveSem cell q
/-- Every acquire of a cell that can be served before the core cycle ends (R149, R150). -/
def State.serveSems (s : State) (cell : Nat) : State :=
  (s.cellAt cell).semWait.foldl (fun s w => s.serveSem cell w.q) s

/-- CLUSTER_BARRIER_COMPLETE: a barrier whose arrivals equal its mask completes, and its waiting blocks commit within
the limit of R200, in ascending context order (R306). -/
def execClusterBarrierComplete (cluster n : Nat) (s : State) : Host.Outcome State Fault Refusal :=
  run s fun m => m.on fun s =>
    (s.completeBarrier cluster n).commitBarred cluster

/-- CWAIT_RELEASE: a waiting CWAIT returns once DONE equals POSTED, and its block commits (R377). -/
def execCwaitRelease (cell x : Nat) (s : State) : Host.Outcome State Fault Refusal :=
  run s fun m => m.on fun s =>
    match s.oldest cell x with
    | none => s
    | some b =>
        if b.acqs.any (fun e => e.2.2 && (match e.2.1.i with
            | .cwait .. => true
            | .cwaitChk .. => true
            | _ => false)) && s.complete cell x b then
          match s.commitFault cell x b with
          | some f => s.blockFault cell x b f
          | none => s.tryCommit cell x
        else s

/-! ### Messages (R187 to R190, R215, R307, R308) -/

/-- Count a message dropped for an unbound entry (R187), from the next core cycle on (R8). -/
def Cell.dropMsg (k : Cell) : Cell :=
  { k with hdropNow := if k.hdrop.toNat + k.hdropNow.toNat < 2 ^ 32 - 1 then k.hdropNow + 1 else k.hdropNow }

/-- The field of the cluster to which a message's tag leads. -/
def State.msgField (s : State) (tag : Nat) : Nat :=
  match s.tagCell tag with
  | .ok (k, _) => fieldOf k
  | .error _ => 0
/-- A dropped message is reported to the field manager (R187, R215). -/
def State.reportDrop (s : State) (f : Nat) (m : Msg) : State :=
  s.onField f fun k => { k with msgDrops := k.msgDrops ++ [(m.vc, m.tag)] }

/-- MESSAGE_DELIVERY: an arriving message is written into its context's queue, waits in its VC's buffer while that is full
(R188), or is dropped. -/
def execMessageDelivery (n : Nat) (s : State) : Host.Outcome State Fault Refusal :=
  run s fun m =>
    match m.s.net[n]? with
    | none => m
    | some a =>
        match a.op with
        | .message msg =>
            if !m.s.firstAtHome n a || m.s.stale a || m.s.routerStops a then m
            else
              (match m.s.msgCell msg.tag.toNat with
               | .error c => (m.dropAcc a c (m.s.msgDistance a.cell msg.tag.toNat)).on fun s => s.setNet n none
               | .ok none => (m.performed a).on fun s => (s.setNet n none).reportDrop (s.msgField msg.tag.toNat) msg
               | .ok (some (cell, adpt)) =>
                   let msg := { msg with adpt := adpt }
                   (match handlerCtx ((m.s.cellAt cell).handler msg) with
                    | none => (m.performed a).on fun s => ((s.setNet n none).onCell cell Cell.dropMsg).reportDrop (fieldOf cell) msg
                    | some x =>
                        (match (m.s.ctxAt cell x).takeMsg msg with
                         | none => m.on fun s => s.setNet n (some { a with done := 1 })
                         | some c => (m.on fun s => (s.setNet n none).setCtx cell x c).performed a)))
        | _ => m

/-- Write a message's words into s60 to s63 under a commit index (R189). -/
def Ctx.popMsg (c : Ctx) (m : Msg) : Ctx :=
  (List.range 4).foldl (fun c i =>
    let s := BitVec.ofNat 6 (60 + i)
    match m.words[i]? with
    | some w => c.slotWrite s 0 { v := w.v, poi := w.poi } (c.ccount + 1)
    | none => c.slotExpire s) { c with mq := c.mq.drop 1 }

/-- The node whose message starts or continues a handler names MYTAG, GIDX and the request VC (R205). -/
def Ctx.asNode (c : Ctx) (k : Cell) (m : Msg) : Ctx :=
  let n := (if m.adpt then k.anodes else k.nodes).get { tag := m.tag, rvc := c.rvc } (fld m.tag 4 5)
  { c with mytag := n.tag, gidx0 := n.gidx0, gidx1 := n.gidx1, rvc := n.rvc }

/-- The entry block's address of a handler-table entry (Table 9-1, R88). -/
def entryAddr (e : Word) : Word :=
  if e.getLsbD 60 then BitVec.ofNat 64 (fld e 53 7 * 2 ^ 54 + 3 * 2 ^ 35 + fld e 0 22 * 64)
  else BitVec.ofNat 64 (2 ^ 61 + fld e 0 22 * 64)

/-- A context that a stop condition holds between blocks. -/
def Ctx.between (c : Ctx) : Bool := c.flight.isEmpty && !c.stopped && c.reports.isEmpty && !c.lateDrop

/-- A cell whose contexts may take a message. -/
def State.runs (s : State) (cell : Nat) : Bool :=
  let k := s.cellAt cell
  let f := s.fieldAt (fieldOf cell)
  k.halted == 0 && !f.gated && !k.dead && !f.retired

/-- The next message at the head of a context's queue begins to wait with its age at 0 (R218). -/
def State.freshHead (s : State) (cell x : Nat) : State :=
  s.onCell cell fun k => { k with ages := k.ages.filter fun a => !(a.q == 1 && a.x == x) }

/-- MESSAGE_DISPATCH: an idle context starts the handler of its head message (R185, R189). -/
def execMessageDispatch (cell x : Nat) (s : State) : Host.Outcome State Fault Refusal :=
  run s fun m => m.on fun s =>
    let c := s.ctxAt cell x
    let k := s.cellAt cell
    match c.next, c.mq with
    | .idle, msg :: _ =>
        if c.between && s.runs cell then
          (s.freshHead cell x).setCtx cell x { ((c.popMsg msg).asNode k msg) with
            next := .at_ (entryAddr (k.handler msg)), handler := true, hno := c.hno + 1, drops := [] }
        else s
    | _, _ => s

/-- WFM_WAKE: a context in a WFM wait pops its message, s59 naming its VC and NODE, and its next block is known (R389). -/
def execWfmWake (cell x : Nat) (s : State) : Host.Outcome State Fault Refusal :=
  run s fun m => m.on fun s =>
    let c := s.ctxAt cell x
    match c.next, c.mq with
    | .wfm a, msg :: _ =>
        if c.between && s.runs cell then
          let c' := (c.popMsg msg).asNode (s.cellAt cell) msg
          (s.freshHead cell x).setCtx cell x { (c'.slotWrite 59 0 { v := BitVec.ofNat 64 (32 * msg.vc + fld msg.tag 4 5) } (c.ccount + 1)) with
            next := .at_ a }
        else s
    | _, _ => s

/-- The n-th result on its way lands, if it has come and no earlier one is for its slot (R154). -/
def Ctx.land (c : Ctx) (n : Nat) : Ctx :=
  match c.lands[n]? with
  | none => c
  | some l =>
      match l.val with
      | none => c
      | some t =>
          if (c.lands.take n).any fun k => k.slot == l.slot then c
          else { (c.slotWrite l.slot l.life t c.ccount) with lands := c.lands.eraseIdx n }
/-- RESULT_LANDING: a result that has come is written into its slot, after every earlier one for that slot (R154); at the latest,
CORE_CYCLE makes it. -/
def execResultLanding (cell x n : Nat) (s : State) : Host.Outcome State Fault Refusal :=
  run s fun m => m.on fun s => s.onCtx cell x fun c => c.land n
/-- A result that has come is past its bound, a core cycle (R156) or a vault clock (R380, R381). -/
def Land.pastDue (l : Land) (cycle clock : Nat) : Bool :=
  l.val.isSome && ((l.due.elim false fun d => decide (d ≤ cycle)) || l.vdue.elim false fun d => decide (d ≤ clock))
/-- The n-th result can land: it has come, and no earlier one is for its slot (R154). -/
def Ctx.canLand (c : Ctx) (n : Nat) : Bool :=
  match c.lands[n]? with
  | some l => l.val.isSome && (c.lands.take n).all fun k => k.slot != l.slot
  | none => false
/-- Results land until none that can is past its bound, or stands before one of its slot that is (R154, R156). -/
def Ctx.landDue : Nat → Ctx → Nat → Nat → Ctx
  | 0, c, _, _ => c
  | k + 1, c, cycle, clock =>
      match (List.range c.lands.length).find? fun n => c.canLand n && (match c.lands[n]? with
          | some l => c.lands.any fun o => o.slot == l.slot && o.pastDue cycle clock
          | none => false) with
      | some n => Ctx.landDue k (c.land n) cycle clock
      | none => c

/-- TREEEXT_POP: an LDF that waits at TREEEXT takes the oldest entry of its channel that its block has not read; the
pop is made at commit (R51). -/
def execTreeextPop (cell x : Nat) (s : State) : Host.Outcome State Fault Refusal :=
  run s fun m => m.on fun s =>
    let c := s.ctxAt cell x
    let cand := (List.range c.flight.length).findSome? fun pos => match c.block pos with
      | none => none
      | some b => (List.range b.insts.length).findSome? fun idx =>
          match s.envAt cell x pos idx, b.instr idx with
          | some e, some (.ldf _ w sgn l) =>
              if e.n.st ≠ .held then none
              else (match e.access (e.tok .a) l.disp.toInt (w.bits / 8) false with
                | .ok (_, .mmio o) => (treeExt o).bind fun ch => (e.treeLeft ch).head?.map fun t => (pos, idx, ch, t, sgn, e)
                | _ => none)
          | _, _ => none
    match if s.asleep cell then none else cand with
    | none => s
    | some (pos, idx, ch, t, sgn, e) =>
        let mine (a : Acc) : Bool := a.back == .inst cell x e.blk.id idx
        let tok := (s.held.find? mine).bind fun a => a.tok
        (({ s with held := s.held.filter fun a => !mine a } : State).emitOf tok).answer cell x pos idx
          { (loadEff e.f { n := 8, sgn := sgn } e.pp (bytesOf 8 t.v.toNat t.poi)) with acts := [.pop ch] }

/-- TREESTAT_READ: a read of TREESTAT clears MISS, as earlier core cycles have left it (R8, R51). -/
def execTreestatRead (cell : Nat) (s : State) : Host.Outcome State Fault Refusal :=
  run s fun m => m.on fun s => s.csrSide cell 0x109

end Sys2Proof.Machine
end

