-- ==== Sys2Proof/Machine/Engine.lean ====
section
/-! DEFINITION. Machine/Engine.lean: what the engines share: the tests of an engine instruction at issue and its charge
(R197, R448 to R451), the accesses of a command (R140, R158, R316), what starts a command may wait for (R137, R139,
R173, R423), and the records of their status registers. -/
namespace Sys2Proof.Machine
open Sys2Proof

/-! ### Issue tests and charges -/

/-- The slew window and the energy bucket let an engine instruction of a charge issue (R448 to R450). -/
def Env.engOk (e : Env) (mxe : Bool) (charge : Nat) : Bool :=
  let k := e.s.cellAt e.cell
  let f := e.s.fieldAt (fieldOf e.cell)
  let slew := if mxe then decide (k.slewM + 1 ≤ k.slewMp + f.mstep.toNat) else decide (k.slewV + 1 ≤ k.slewVp + f.vstep.toNat)
  charge == 0 || (slew && decide (16 * charge ≤ f.ebbal))

/-- Charge an issued engine instruction and count it in its slew window. -/
def State.charge (s : State) (cell : Nat) (mxe : Bool) (charge : Nat) : State :=
  if charge = 0 then s
  else
    (s.onCell cell fun k => if mxe then { k with slewM := k.slewM + 1 } else { k with slewV := k.slewV + 1 }).onField
      (fieldOf cell) fun f => { f with ebbal := f.ebbal - 16 * charge }

/-- The command of an engine instruction is queued at its block's commit (R137). -/
def Env.engine (e : Env) (i : Instr) (m : M) : M × Eff :=
  let (m, tk, h) := m.withTok e.f
  (m, { outA := h, acts := [.engine { e.cmd i with tok := tk, slots := e.f.slotTargets }] })

/-- Run an engine instruction: the tests of R448, its charge as it issues, whatever becomes of it, then the checks and the command of
`g`. -/
def fireE (i : Instr) (mxe : Bool) (charge : Nat) (g : Env → M → M × Eff) (s : State) : Host.Outcome State Fault Refusal :=
  run s (fireM i (fun e => e.engOk mxe charge) (fun e s => s.charge e.cell mxe charge) g)

/-! ### Starting -/

/-- The engines of a cell run: it is neither gated nor stopped by a hardware-fatal fault (R418, R423). -/
def State.engRuns (s : State) (cell : Nat) : Bool := !(s.cellAt cell).failed && !(s.fieldAt (fieldOf cell)).gated

/-- Every store-queue entry before a command has left (R173). -/
def State.sqPast (s : State) (c : Cmd) : Bool := !((s.ctxAt c.cell c.x).sq.any fun q => c.before.contains q.id)

/-- Every operation before a CFENCE that marks a command has been performed (R172). -/
def State.fencePast (s : State) (c : Cmd) : Bool :=
  let x := s.ctxAt c.cell c.x
  !(x.sq.any fun q => c.fence.contains q.id) && !(x.outs.any fun o => c.fence.contains o.1)

/-! ### Accesses of a command -/

/-- The PASID of the launch that a context serves (R37). -/
def State.pasidOf (s : State) (cell x : Nat) : Nat :=
  match s.launches.find? fun e => e.2.ctxs.contains (cell, x) with
  | some (_, l) => l.pasid
  | none => 0

/-- Whether the injection hold covers a route (R437). -/
def State.routeHeld (s : State) (r : Route) : Bool :=
  match r.tagged with
  | some t => s.heldTag t
  | _ => false

/-- The distance of a route from its cell. -/
def State.routeDist (s : State) (c : Cmd) (r : Route) : Scope :=
  match r.tagged with
  | some t => s.tagDistance c.cell t
  | none => (match s.routePlace r with
      | some p => s.distance c.cell p
      | none => .cel)

/-- The part behind the tag of an access that straddles carve-out and overflow area: its first n bytes, at a place of the cell, are
written, or read for the answer, as it issues; an atomic acts at the home of the rest (R56). -/
def M.lead (m : M) (a : Acc) (p : Place) (n : Nat) : M × Acc :=
  let a := { a with len := a.len - n, place := none }
  match a.op with
  | .read => (m, { a with got := m.s.fetchBytes p n })
  | .engWrite d mask => ((m.maskStore p d mask 0 n).wake p, { a with op := .engWrite (d.drop n) (mask.drop n) })
  | _ => (m, { a with lead := some (p, n) })
/-- Issue one access of a command to a route; one whose route is bad comes back with its error. -/
def M.issue (m : M) (who : Who) (c : Cmd) (addr : Word) (r : Route) (len : Nat) (op : Op) (back : Nat → Back) (wr : Bool)
    (off : Nat) : M × Fly :=
  let (id, s) := m.s.takeId
  let ring := match r with
    | .ring q k o => some (q, k, o)
    | _ => none
  let f : Fly := { id := id, off := off, len := len, dist := s.routeDist c r, wr := wr, ring := ring.isSome }
  match r with
  | .bad e => ({ m with s := { s with resps := s.resps ++ [{ id := id, back := back id, err := some e, addr := addr }] } }, f)
  | _ =>
      let a : Acc := { id := id, who := who, cell := c.cell, vc := c.rvc, len := len, op := op, back := back id,
                       sup := c.sup, fmode := c.fmode, hno := c.hno,
                       addr := r.tagged.getD addr
                       place := (match r with
                         | .ring _ _ _ => none
                         | .hst v => some { r := .host (s.pasidOf c.cell c.x), off := v }
                         | _ => s.routePlace r)
                       ring := ring }
      let (m, a) := match r with
        | .split p n _ => ({ m with s := s } : M).lead a p n
        | _ => ({ m with s := s }, a)
      (m.on fun s => s.inject a, f)

/-- A route closed to a command becomes a space or bound failure. -/
def closeRoute (ok : Route → Bool) (r : Route) : Route :=
  match r with
  | .bad c => .bad c
  | r => if ok r then r else .bad cSpace

/-! ### Status registers -/

/-- Add to a saturating 16-bit count at a place of a register. -/
def countUp (v : Word) (lo n : Nat) : Word := putFld v lo 16 (min (fld v lo 16 + n) 0xFFFF)

/-- The first error of VXSTAT since its last clear (Table 14-4). -/
def Ctx.vxError (c : Ctx) (cause : Cause) (lane : Nat) : Ctx :=
  { c with vxstat := firstCause c.vxstat cause fun v => putFld v 48 6 lane }
def Ctx.vxCount (c : Ctx) (n : Nat) : Ctx := { c with vxstat := countUp c.vxstat 32 n }

end Sys2Proof.Machine
end

