-- ==== Sys2Proof/Machine/Lanes.lean ====
section
/-! DEFINITION. Machine/Lanes.lean: what a vector command does to the registers of its context (R310, R314, R315, R324 to
R333).  Lanes are natural numbers reduced to their width. -/
namespace Sys2Proof.Machine
open Sys2Proof

/-! ### Registers -/

/-- A lane with its poison. -/
abbrev Lane := Nat × Bool

def Ctx.vr (c : Ctx) (r : Nat) : BitVec 512 := c.vreg.get 0 r
def Ctx.vp (c : Ctx) (r : Nat) : BitVec 8 := c.vpoi.get 0 r
def Ctx.kr (c : Ctx) (n : Nat) : Word := c.kreg.get 0 n
def Ctx.setV (c : Ctx) (r : Nat) (v : BitVec 512) (p : BitVec 8) : Ctx :=
  { c with vreg := c.vreg.set r v, vpoi := c.vpoi.set r p }
def Ctx.setK (c : Ctx) (n : Nat) (v : Word) : Ctx := { c with kreg := c.kreg.set n v }

/-- Lanes of a register at a width (R310). -/
def nLanes (w : Nat) : Nat := 512 / w
/-- Lane i of a register. -/
def Ctx.lane (c : Ctx) (r w i : Nat) : Lane := (fld (c.vr r) (w * i) w, (c.vp r).getLsbD (w * i / 64))
def Ctx.lanes (c : Ctx) (r w : Nat) : List Lane := (List.range (nLanes w)).map fun i => c.lane r w i

/-- The value of some lanes, the lowest first. -/
def packVal (w : Nat) : List Lane → Nat
  | [] => 0
  | (v, _) :: t => v % 2 ^ w + 2 ^ w * packVal w t
/-- The poison bits of the units that hold some lanes. -/
def packPoi (w : Nat) (l : List Lane) : BitVec 8 :=
  (List.range 8).foldl (fun p u =>
    if (List.range (max (64 / w) 1)).any fun j => (l.getD (u * 64 / w + j) (0, false)).2 then p ||| (1#8 <<< u) else p) 0
/-- Write a whole register. -/
def Ctx.putLanes (c : Ctx) (r w : Nat) (l : List Lane) : Ctx := c.setV r (BitVec.ofNat 512 (packVal w l)) (packPoi w l)

/-- Whether a lane is active under an execution mask (R310). -/
def Ctx.active (c : Ctx) (km : BitVec 3) (i : Nat) : Bool := km == 0 || (c.kr km.toNat).getLsbD i

/-- The frame of R314: active lanes take the results, the others are zeroed or kept. -/
def Ctx.frame (c : Ctx) (vd w : Nat) (km : BitVec 3) (z : Bool) (res : Nat → Lane) : Ctx :=
  c.putLanes vd w ((List.range (nLanes w)).map fun i =>
    if c.active km i then res i else if z then (0, false) else c.lane vd w i)

/-! ### Lane formats and draws -/

/-- The float format of a lane (Table 14-3). -/
def laneFmt (w : Width) (bf : Bool) : Fmt :=
  match w with
  | .w64 => f64
  | .w32 => f32
  | _ => if bf then Machine.bf16 else f16

/-- The draw of lane i (R315). -/
def laneDraw (seed : Word) (i : Nat) : Nat :=
  let g : Word := BitVec.ofNat 64 (srDraw seed)
  srDraw (srSteps (i + 1) (if g = 0 then 1 else g))

/-- What a command does: registers, flags, result. -/
structure VxOut where
  c : Ctx
  flags : Flags := 0
  res : Option Tok := none
  deriving DecidableEq, Repr, Inhabited

/-- A command that writes lanes of a register by layout R; flags of active lanes are collected (R315). -/
def Ctx.byLane (c : Ctx) (w : Nat) (l : LayR) (op : Nat → Lane × Flags) : VxOut :=
  { c := c.frame l.vd.toNat w l.km l.z fun i => (op i).1
    flags := (List.range (nLanes w)).foldl (fun f i => if c.active l.km i then f ||| (op i).2 else f) 0 }

/-- One and two sources, and the destination as a third. -/
def Ctx.op1 (c : Ctx) (w : Nat) (l : LayR) (g : Nat → Nat → Nat × Flags) : VxOut :=
  c.byLane w l fun i =>
    let x := c.lane l.va.toNat w i
    let r := g i x.1
    ((r.1, x.2), r.2)
def Ctx.op2 (c : Ctx) (w : Nat) (l : LayR) (g : Nat → Nat → Nat → Nat × Flags) : VxOut :=
  c.byLane w l fun i =>
    let x := c.lane l.va.toNat w i
    let y := c.lane l.vb.toNat w i
    let r := g i x.1 y.1
    ((r.1, x.2 || y.2), r.2)
def Ctx.op3 (c : Ctx) (w : Nat) (l : LayR) (g : Nat → Nat → Nat → Nat → Nat × Flags) : VxOut :=
  c.byLane w l fun i =>
    let x := c.lane l.va.toNat w i
    let y := c.lane l.vb.toNat w i
    let d := c.lane l.vd.toNat w i
    let r := g i x.1 y.1 d.1
    ((r.1, x.2 || y.2 || d.2), r.2)

/-- An integer result without flags. -/
def exact (n : Nat) : Nat × Flags := (n, 0)

/-! ### Arithmetic (R324) -/

def vxAdd (c : Ctx) (k : Cmd) (o : VOp) (l : LayR) : VxOut :=
  let w := o.w.bits
  if o.flt then c.op2 w l fun i x y => fadd (laneFmt o.w l.bf) (bitsMode k.frm o.m) (laneDraw k.seed i) x y
  else c.op2 w l fun _ x y => exact (match o.m.toNat with
    | 0 => aluAdd w x y
    | 1 => aluAdds w x y
    | _ => aluAddsu w x y)
def vxSub (c : Ctx) (k : Cmd) (o : VOp) (l : LayR) : VxOut :=
  let w := o.w.bits
  if o.flt then c.op2 w l fun i x y => fsub (laneFmt o.w l.bf) (bitsMode k.frm o.m) (laneDraw k.seed i) x y
  else c.op2 w l fun _ x y => exact (match o.m.toNat with
    | 0 => aluSub w x y
    | 1 => aluSubs w x y
    | _ => aluSubsu w x y)
def vxMul (c : Ctx) (k : Cmd) (o : VOp) (l : LayR) : VxOut :=
  let w := o.w.bits
  if o.flt then c.op2 w l fun i x y => fmul (laneFmt o.w l.bf) (bitsMode k.frm o.m) (laneDraw k.seed i) x y
  else c.op2 w l fun _ x y => exact (match o.m.toNat with
    | 0 => aluMul w x y
    | 1 => aluMulh w x y
    | _ => aluMulhu w x y)
def vxFma (c : Ctx) (k : Cmd) (o : VOp) (l : LayR) : VxOut :=
  let w := o.w.bits
  if o.flt then c.op3 w l fun i x y z => fma (laneFmt o.w l.bf) (bitsMode k.frm o.m) (laneDraw k.seed i) x y z
  else c.op3 w l fun _ x y z => exact (aluMadd w x y z)
def vxDiv (c : Ctx) (k : Cmd) (o : VOp) (l : LayR) : VxOut :=
  let w := o.w.bits
  if o.flt then c.op2 w l fun i x y => fdiv (laneFmt o.w l.bf) (bitsMode k.frm o.m) (laneDraw k.seed i) x y
  else c.op2 w l fun _ x y => exact (if o.m = 1 then aluDivu w x y else aluDiv w x y)
def vxSqrt (c : Ctx) (k : Cmd) (o : VOp) (l : LayR) : VxOut :=
  c.op1 o.w.bits l fun i x => fsqrt (laneFmt o.w l.bf) (bitsMode k.frm o.m) (laneDraw k.seed i) x
def vxMinmax (c : Ctx) (wantMax : Bool) (o : VOp) (l : LayR) : VxOut :=
  let w := o.w.bits
  if o.flt then c.op2 w l fun _ x y => fminmax (laneFmt o.w l.bf) wantMax (o.m == 1) x y
  else c.op2 w l fun _ x y => exact (
    if o.m = 1 then (if wantMax then aluMaxu w x y else aluMinu w x y) else if wantMax then aluMax w x y else aluMin w x y)
def vxAbs (c : Ctx) (o : VOp) (l : LayR) : VxOut :=
  let w := o.w.bits
  c.op1 w l fun _ x => exact (if o.flt then x % 2 ^ (w - 1) else aluAbs (o.m == 1) w x)
def vxNeg (c : Ctx) (o : VOp) (l : LayR) : VxOut :=
  let w := o.w.bits
  c.op1 w l fun _ x => exact (if o.flt then x ^^^ 2 ^ (w - 1) else aluNeg (o.m == 1) w x)

/-! ### Logic, shifts, moves (R325) -/

def vxLogic (c : Ctx) (w : Width) (l : LayR) (g : Nat → Nat → Nat) : VxOut := c.op2 w.bits l fun _ x y => exact (g x y)
/-- A shift by lane, or by port b for every lane. -/
def vxShift (c : Ctx) (k : Cmd) (w : Width) (sc1 : Bool) (l : LayR) (g : Nat → Nat → Nat → Nat) : VxOut :=
  if sc1 then
    c.byLane w.bits l fun i =>
      let x := c.lane l.va.toNat w.bits i
      ((g w.bits x.1 k.b.v.toNat, x.2 || k.b.poi), 0)
  else c.op2 w.bits l fun _ x s => exact (g w.bits x s)
def vxMov (c : Ctx) (w : Width) (l : LayR) : VxOut := c.op1 w.bits l fun _ x => exact x
/-- VSEL: the mask chooses between the sources; no lane is kept. -/
def vxSel (c : Ctx) (w : Width) (l : LayR) : VxOut :=
  { c := c.putLanes l.vd.toNat w.bits ((List.range (nLanes w.bits)).map fun i =>
      if c.active l.km i then c.lane l.va.toNat w.bits i else c.lane l.vb.toNat w.bits i) }

/-! ### Conversion (R326) -/

/-- Elements of a format in one register. -/
def elemCount (b : Nat) : Nat := if b = 6 then 64 else 512 / b
/-- Element j of b bits, with the poison of the units that hold it (R270). -/
def Ctx.elem (c : Ctx) (r b j : Nat) : Lane :=
  (fld (c.vr r) (b * j) b, (c.vp r).getLsbD (b * j / 64) || (c.vp r).getLsbD ((b * j + b - 1) / 64))
/-- Write all elements of a register; bits above them stay (R326). -/
def Ctx.putElems (c : Ctx) (r b : Nat) (l : List Lane) : Ctx :=
  let n := b * l.length
  let v := packVal b l + (c.vr r).toNat / 2 ^ n * 2 ^ n
  let p := (List.range 8).foldl (fun p u =>
    let on := if 64 * u < n then (List.range l.length).any fun j => (l.getD j (0, false)).2 && (b * j / 64 == u || (b * j + b - 1) / 64 == u)
      else (c.vp r).getLsbD u
    if on then p ||| (1#8 <<< u) else p) 0
  c.setV r (BitVec.ofNat 512 v) p
/-- A format that VCVT converts. -/
def vcvtCode (c : Nat) : Bool := (floatCode c).isSome || (intCode c).isSome || c == 0x1F
/-- A conversion word that VCVT accepts with a part number. -/
def vcvtOk (k : ConvWord) (part : Nat) : Bool :=
  let a := elemCount (codeBits k.frm)
  let b := elemCount (codeBits k.dst)
  vcvtCode k.frm && vcvtCode k.dst && (k.dst != 0x1F || k.sat) && decide (part < max a b / min a b)
def vxCvt (c : Ctx) (k : Cmd) (l : LayR) : VxOut :=
  match convWordOf k.b.v with
  | none => { c := c }
  | some q =>
      let bf := codeBits q.frm
      let bt := codeBits q.dst
      let cf := elemCount bf
      let ct := elemCount bt
      let n := min cf ct
      let part := l.vb.toNat
      let mode := bitsMode k.frm q.mode
      let conv (i : Nat) : Nat × Flags :=
        convElem q mode (laneDraw k.seed i) (c.elem l.va.toNat bf (if cf > n then part * n + i else i)).1
      let base := if ct > n then part * n else 0
      { c := c.putElems l.vd.toNat bt ((List.range ct).map fun j =>
          if base ≤ j ∧ j < base + n then
            let i := j - base
            if c.active l.km i then
              ((conv i).1, (c.elem l.va.toNat bf (if cf > n then part * n + i else i)).2 || k.b.poi)
            else if l.z then (0, false) else c.elem l.vd.toNat bt j
          else c.elem l.vd.toNat bt j)
        flags := (List.range n).foldl (fun f i => if c.active l.km i then f ||| (conv i).2 else f) 0 }

/-! ### Compares and masks (R327) -/

/-- The float condition of a code 0 to 5 (Table 12-11). -/
def condOf (m : BitVec 3) : FCond :=
  match m.toNat with
  | 0 => .eq
  | 1 => .lt
  | 2 => .le
  | 3 => .un
  | 4 => .ltq
  | _ => .leq
/-- The integer test of Table 14-3. -/
def intTest (m : BitVec 3) (w x y : Nat) : Bool :=
  match m.toNat with
  | 0 => x == y
  | 1 => x != y
  | 2 => testLt w x y
  | 3 => testLe w x y
  | 4 => x < y
  | _ => x ≤ y
def vxCmp (c : Ctx) (o : VOp) (l : LayR) : VxOut :=
  let w := o.w.bits
  let kd := l.vd.toNat % 8
  let test (i : Nat) : Nat × Flags :=
    let x := (c.lane l.va.toNat w i).1
    let y := (c.lane l.vb.toNat w i).1
    if o.flt then fcmp (laneFmt o.w l.bf) (condOf o.m) x y else (ofBool (intTest o.m w x y), 0)
  { c := c.setK kd (BitVec.ofNat 64 (packFields ((List.range (nLanes w)).map fun i =>
      (if c.active l.km i then (test i).1 else if l.z then 0 else ofBool ((c.kr kd).getLsbD i), i))))
    flags := (List.range (nLanes w)).foldl (fun f i => if c.active l.km i then f ||| (test i).2 else f) 0 }

/-- VMASK (Table 14-5). -/
def vxMask (c : Ctx) (k : Cmd) (w : Width) (f : BitVec 3) (l : LayR) : VxOut :=
  let kd := l.vd.toNat % 8
  let a := c.kr (l.va.toNat % 8)
  let b := c.kr (l.vb.toNat % 8)
  match f.toNat with
  | 0 => { c := c.setK kd (a &&& b) }
  | 1 => { c := c.setK kd (a ||| b) }
  | 2 => { c := c.setK kd (a ^^^ b) }
  | 3 => { c := c.setK kd (a &&& ~~~b) }
  | 4 => { c := c.setK kd (~~~a) }
  | 5 => { c := (if k.b.poi then c.vxCount 1 else c).setK kd k.b.v }
  | 6 => { c := c, res := some { v := a } }
  | _ => { c := c, res := some { v := BitVec.ofNat 64 (countBits (nLanes w.bits) a.toNat) } }

/-! ### Reductions and scans (R328, R329) -/

/-- The identity of an operation. -/
def redIdent (o : VOp) (bf : Bool) : Nat :=
  let w := o.w.bits
  if o.flt then (if o.m = 0 then 2 ^ (w - 1) else (laneFmt o.w bf).cnan)
  else match o.m.toNat with
    | 1 => 2 ^ (w - 1) - 1
    | 2 => 2 ^ (w - 1)
    | 3 => 2 ^ w - 1
    | 5 => 2 ^ w - 1
    | _ => 0
/-- The combination of two values. -/
def redComb (o : VOp) (bf : Bool) (x y : Nat) : Nat × Flags :=
  let w := o.w.bits
  if o.flt then
    match o.m.toNat with
    | 0 => fadd (laneFmt o.w bf) .rne 0 x y
    | 1 => fminmax (laneFmt o.w bf) false false x y
    | _ => fminmax (laneFmt o.w bf) true false x y
  else exact (match o.m.toNat with
    | 0 => aluAdd w x y
    | 1 => aluMin w x y
    | 2 => aluMax w x y
    | 3 => min x y
    | 4 => max x y
    | 5 => x &&& y
    | 6 => x ||| y
    | _ => x ^^^ y)
/-- One level of the tree. -/
def redLevel (g : Nat → Nat → Nat × Flags) : List Nat → List Nat × Flags
  | x :: y :: t =>
      let r := g x y
      let s := redLevel g t
      (r.1 :: s.1, r.2 ||| s.2)
  | l => (l, 0)
/-- The fixed tree, n levels. -/
def redTree (g : Nat → Nat → Nat × Flags) : Nat → List Nat × Flags → Nat × Flags
  | 0, (l, f) => (l.headD 0, f)
  | n + 1, (l, f) =>
      let s := redLevel g l
      redTree g n (s.1, f ||| s.2)
/-- Lanes with identities for inactive ones; poison of active lanes. -/
def Ctx.redLanes (c : Ctx) (o : VOp) (l : LayR) : List Lane :=
  (List.range (nLanes o.w.bits)).map fun i =>
    if c.active l.km i then c.lane l.va.toNat o.w.bits i else (redIdent o l.bf, false)
def vxRed (c : Ctx) (o : VOp) (l : LayR) : VxOut :=
  let t := c.redLanes o l
  let r := redTree (redComb o l.bf) (nLanes o.w.bits).log2 (t.map (fun e => e.1), 0)
  { c := c, flags := r.2, res := some { v := BitVec.ofNat 64 r.1, poi := t.any fun e => e.2 } }
/-- The prefixes, left to right. -/
def scanList (g : Nat → Nat → Nat × Flags) (ex : Bool) : Lane → Flags → List Lane → List Lane × Flags
  | _, f, [] => ([], f)
  | (s, p), f, (x, q) :: t =>
      let r := g s x
      let s' : Lane := (r.1, p || q)
      let rest := scanList g ex s' (f ||| r.2) t
      ((if ex then (s, p) else s') :: rest.1, rest.2)
def vxScan (c : Ctx) (o : VOp) (l : LayR) : VxOut :=
  let r := scanList (redComb o l.bf) l.ex (redIdent o l.bf, false) 0 (c.redLanes o l)
  { c := c.frame l.vd.toNat o.w.bits l.km l.z fun i => r.1.getD i (0, false), flags := r.2 }

/-! ### Permutes, broadcasts, single lanes (R330) -/

def vxPerm (c : Ctx) (w : Width) (two : Bool) (l : LayR) : VxOut :=
  let n := nLanes w.bits
  c.byLane w.bits l fun i =>
    let ix := c.lane l.vb.toNat w.bits i
    let j := ix.1 % (if two then 2 * n else n)
    let v := if j < n then c.lane l.va.toNat w.bits j else c.lane l.vd.toNat w.bits (j - n)
    ((v.1, v.2 || ix.2), 0)
def vxBcast (c : Ctx) (k : Cmd) (w : Width) (lane : Bool) (l : LayR) : VxOut :=
  let v : Lane := if lane then c.lane l.va.toNat w.bits l.vb.toNat else (zextN k.b.v.toNat w.bits, k.b.poi)
  c.byLane w.bits l fun _ => (v, 0)
/-- The lane that port b names. -/
def laneIndex (k : Cmd) (w : Width) : Nat := fld k.b.v 0 6 % nLanes w.bits
def vxExt (c : Ctx) (k : Cmd) (w : Width) (l : LayR) : VxOut :=
  let v := c.lane l.va.toNat w.bits (laneIndex k w)
  { c := c, res := some { v := BitVec.ofNat 64 v.1, poi := v.2 || k.b.poi } }
def vxIns (c : Ctx) (k : Cmd) (w : Width) (l : LayR) : VxOut :=
  let n := laneIndex k w
  { c := c.putLanes l.vd.toNat w.bits ((List.range (nLanes w.bits)).map fun i =>
      if i = n then (zextN k.a.v.toNat w.bits, k.a.poi) else c.lane l.vd.toNat w.bits i) }

/-! ### Special functions (R331), sorting and searching (R332, R333) -/

def vxFn (c : Ctx) (o : VOp) (l : LayR) (g : Fmt → Nat → Nat × Flags) : VxOut :=
  c.op1 o.w.bits l fun _ x => g (laneFmt o.w l.bf) x

/-- key(x): a float key, or an integer one, signed unless `u`. -/
def laneKey (flt u : Bool) (w x : Nat) : Int :=
  if flt then (if 2 ^ (w - 1) ≤ x then (2 ^ w - 1 - x : Nat) else (x + 2 ^ (w - 1) : Nat))
  else if u then (x : Int) else sextN x w
/-- Exchange two entries of a list. -/
def swapAt {α : Type} (l : List α) (d : α) (i q : Nat) : List α := (l.set i (l.getD q d)).set q (l.getD i d)
/-- The exchanges of one bitonic step on keys and payloads. -/
def bitonic (o : VOp) (j k : Nat) (n : Nat) (s : List Lane × List Lane) : List Lane × List Lane :=
  let w := o.w.bits
  (List.range n).foldl (fun s i =>
    if i / 2 ^ j % 2 = 0 then
      let q := i + 2 ^ j
      let x := laneKey o.flt (o.m.getLsbD 1) w (s.1.getD i (0, false)).1
      let y := laneKey o.flt (o.m.getLsbD 1) w (s.1.getD q (0, false)).1
      let down := decide (k < n.log2) && i / 2 ^ k % 2 == 1
      if (!down && decide (y < x)) || (down && decide (x < y)) then
        (swapAt s.1 (0, false) i q, swapAt s.2 (0, false) i q)
      else s
    else s) s
def vxBms (c : Ctx) (o : VOp) (l : LayB) : VxOut :=
  let w := o.w.bits
  let s := bitonic o l.j.toNat l.k.toNat (nLanes w) (c.lanes l.vd.toNat w, c.lanes l.vp.toNat w)
  let c' := if l.vp = l.vd then c else c.putLanes l.vp.toNat w s.2
  { c := c'.putLanes l.vd.toNat w s.1 }
def vxSrch (c : Ctx) (o : VOp) (l : LayR) : VxOut :=
  let w := o.w.bits
  let key := laneKey o.flt (o.m.getLsbD 1) w
  let bs := c.lanes l.vb.toNat w
  let anyB := bs.any fun b => b.2
  c.byLane w l fun i =>
    let x := c.lane l.va.toNat w i
    let n := (bs.filter fun b => if o.m.getLsbD 0 then decide (key b.1 < key x.1) else decide (key b.1 ≤ key x.1)).length
    ((n % 2 ^ w, x.2 || anyB), 0)

/-! ### Every register command -/

/-- The effect of a register command; none for a memory command. -/
def vxCompute (c : Ctx) (k : Cmd) : Option VxOut :=
  match k.i with
  | .vmov _ w l => some (vxMov c w l)
  | .vadd _ o l => some (vxAdd c k o l)
  | .vsub _ o l => some (vxSub c k o l)
  | .vmul _ o l => some (vxMul c k o l)
  | .vfma _ o l => some (vxFma c k o l)
  | .vdiv _ o l => some (vxDiv c k o l)
  | .vsqrt _ o l => some (vxSqrt c k o l)
  | .vmin _ o l => some (vxMinmax c false o l)
  | .vmax _ o l => some (vxMinmax c true o l)
  | .vabs _ o l => some (vxAbs c o l)
  | .vneg _ o l => some (vxNeg c o l)
  | .vand _ w l => some (vxLogic c w l fun x y => x &&& y)
  | .vor _ w l => some (vxLogic c w l fun x y => x ||| y)
  | .vxor _ w l => some (vxLogic c w l fun x y => x ^^^ y)
  | .vshl _ w s l => some (vxShift c k w s l aluShl)
  | .vshr _ w s l => some (vxShift c k w s l aluShr)
  | .vsar _ w s l => some (vxShift c k w s l aluSar)
  | .vcvt _ l => some (vxCvt c k l)
  | .vcmp _ o l => some (vxCmp c o l)
  | .vmask _ w f l => some (vxMask c k w f l)
  | .vsel _ w l => some (vxSel c w l)
  | .vred _ o l => some (vxRed c o l)
  | .vscan _ o l => some (vxScan c o l)
  | .vperm _ w t l => some (vxPerm c w t l)
  | .vbcast _ w b l => some (vxBcast c k w b l)
  | .vext _ w l => some (vxExt c k w l)
  | .vins _ w l => some (vxIns c k w l)
  | .vexp _ o l => some (vxFn c o l (vexp (o.m == 1)))
  | .vlog _ o l => some (vxFn c o l (vlog (o.m == 1)))
  | .vrsq _ o l => some (vxFn c o l vrsq)
  | .vtanh _ o l => some (vxFn c o l vtanh)
  | .vbms _ o l => some (vxBms c o l)
  | .vsrch _ o l => some (vxSrch c o l)
  | _ => none

end Sys2Proof.Machine
end

