-- ==== Sys2Proof/Machine/Tiles.lean ====
section
/-! DEFINITION. Machine/Tiles.lean: the elements of operand tiles and the arithmetic on accumulator lanes (R270, R272
to R275, R336, R341, R342, R345 to R356): what a matrix command computes, apart from when. -/
namespace Sys2Proof.Machine
open Sys2Proof

/-! ### Flags of MXSTAT -/

/-- Flags as MXSTAT [6:0] holds them. -/
abbrev MxFlags := BitVec 7
def mxFlags (f : Flags) : MxFlags := (f &&& 0b10111#5).setWidth 7
def fSATI : MxFlags := 32
def fMETA : MxFlags := 64

/-- A lane with its poison, and the flags its computation raises. -/
abbrev LaneOut := Nat × Bool × MxFlags

/-! ### Datapaths (Table 15-5) -/

/-- A row of Table 15-5: its members, lane tag, K, group size (0: one product at a time), charges. -/
structure Datapath where
  row : Nat
  members : List Nat
  tag : Nat
  k : Nat
  g : Nat
  charge : Nat
  chargeSp : Nat
  deriving DecidableEq, Repr, Inhabited

def datapaths : List Datapath :=
  [{ row := 0, members := [0x00], tag := 2, k := 32, g := 0, charge := 2560, chargeSp := 0 },
   { row := 1, members := [0x01], tag := 2, k := 64, g := 0, charge := 4096, chargeSp := 0 },
   { row := 2, members := [0x02], tag := 1, k := 64, g := 16, charge := 1280, chargeSp := 0 },
   { row := 3, members := [0x03, 0x04], tag := 1, k := 128, g := 16, charge := 384, chargeSp := 480 },
   { row := 4, members := [0x0A, 0x0B], tag := 0, k := 128, g := 16, charge := 320, chargeSp := 400 },
   { row := 5, members := [0x05, 0x06], tag := 1, k := 256, g := 32, charge := 384, chargeSp := 480 },
   { row := 6, members := [0x0C, 0x0D], tag := 0, k := 256, g := 32, charge := 288, chargeSp := 360 },
   { row := 7, members := [0x07, 0x08], tag := 1, k := 256, g := 32, charge := 224, chargeSp := 280 },
   { row := 8, members := [0x09], tag := 1, k := 512, g := 32, charge := 352, chargeSp := 440 },
   { row := 9, members := [0x0E, 0x0F], tag := 0, k := 512, g := 32, charge := 256, chargeSp := 320 },
   { row := 10, members := [0x10, 0x11, 0x1F], tag := 0, k := 1024, g := 32, charge := 512, chargeSp := 640 },
   { row := 11, members := [0x1E], tag := 0, k := 2048, g := 32, charge := 640, chargeSp := 800 },
   { row := 12, members := [0x12, 0x13, 0x17, 0x1A, 0x1C], tag := 1, k := 256, g := 32, charge := 416, chargeSp := 520 },
   { row := 13, members := [0x14, 0x15, 0x19], tag := 1, k := 256, g := 32, charge := 256, chargeSp := 320 },
   { row := 14, members := [0x16, 0x18, 0x1B, 0x1D], tag := 1, k := 512, g := 32, charge := 384, chargeSp := 480 }]

/-- The datapath of a format pair. -/
def dpOf (fa fb : Nat) : Option Datapath := datapaths.find? fun d => d.members.contains fa && d.members.contains fb
/-- A block-scaled row: X8, X6, X4. -/
def Datapath.scaled (d : Datapath) : Bool := decide (12 ≤ d.row)
/-- Rows of H16 and D19 use the window of R349. -/
def Datapath.window (d : Datapath) : Bool := d.row == 2 || d.row == 3

/-- The fields of a matrix format word (Table 15-4); none when a reserved bit is set. -/
def fmtWord (w : Word) : Option (Nat × Nat × Nat) :=
  if fld w 21 43 = 0 ∧ fld w 13 3 = 0 ∧ fld w 5 3 = 0 then some (fld w 0 5, fld w 8 5, fld w 16 5) else none

/-- The datapath of an MMA family instruction and its format word, if the word is allowed (R340, R341). -/
def mmaPath (i : Instr) (w : Word) : Option Datapath :=
  match fmtWord w with
  | none => none
  | some (fa, fb, os) =>
      match dpOf fa fb with
      | none => none
      | some d =>
          let ok := match i with
            | .mma _ l => !d.scaled && os == 0 && (d.tag != 2 || l.at_.toNat % 2 == 0)
            | .mmsc .. => d.scaled && os == 0
            | .mmasp .. => decide (3 ≤ d.row) && (d.scaled || os == 0)
            | _ => false
          if ok then some d else none

/-! ### Values of elements -/

/-- An element with its poison. -/
abbrev Elem := Fv × Bool

/-- Element i of b bits of an operand tile, its stream starting at a byte offset, with its poison (R270). -/
def State.opmBits (s : State) (cell tile base b i : Nat) : Nat × Bool :=
  let k := b * i
  let d := s.bytesAt { r := .opm cell, off := tile * 8192 + base + k / 8 } ((k % 8 + b + 7) / 8)
  (numOf d / 2 ^ (k % 8) % 2 ^ b, anyPoi d)

/-- An integer as a value. -/
def fvInt (i : Int) : Fv := .fin (i < 0) i.natAbs 0

/-- The value of an element of an unscaled format (R271, R272). -/
def elemValue (code v : Nat) : Fv :=
  if code = 0x1E then fvInt (if v % 2 = 1 then 1 else -1)
  else if code = 0x1F then fvInt (match v % 4 with
    | 1 => 1
    | 3 => -1
    | _ => 0)
  else match floatCode code with
    | some F => F.value v
    | none => match intCode code with
      | some (w, sg) => fvInt (intValue w sg v)
      | none => .fin false 0 0

/-- How a block-scaled format reads (Table 12-4): element code, block size, bytes per scale, scale value, whether a BF16
tile scale and zero points belong to it. -/
structure Scaled where
  elem : Nat
  bs : Nat
  bytes : Nat
  scale : Nat → Fv
  tileT : Bool
  zero : Bool

/-- The value of an E8M0 scale and of a UE4M4 scale (Table 12-2). -/
def e8m0Value (v : Nat) : Fv := if v = 0xFF then .nan false else .fin false 1 ((v : Int) - 127)
def ue4m4Value (v : Nat) : Fv :=
  if v = 0xFF then .nan false
  else if v / 16 = 0 then .fin false (v % 16) (-10) else .fin false (16 + v % 16) ((v / 16 : Nat) - 11)

def scaledOf (code : Nat) : Option Scaled :=
  let mx (e : Nat) : Scaled := { elem := e, bs := 32, bytes := 1, scale := e8m0Value, tileT := false, zero := false }
  let q (e : Nat) (z : Bool) : Scaled := { elem := e, bs := 32, bytes := 2, scale := f16.value, tileT := false, zero := z }
  match code with
  | 0x12 => some (mx 0x05)
  | 0x13 => some (mx 0x06)
  | 0x14 => some (mx 0x07)
  | 0x15 => some (mx 0x08)
  | 0x16 => some (mx 0x09)
  | 0x17 => some (mx 0x0C)
  | 0x18 => some { elem := 0x09, bs := 32, bytes := 1, scale := ue4m4Value, tileT := true, zero := false }
  | 0x19 => some { elem := 0x08, bs := 16, bytes := 1, scale := e4m3.value, tileT := false, zero := false }
  | 0x1A => some { elem := 0x05, bs := 16, bytes := 1, scale := e8m0Value, tileT := false, zero := false }
  | 0x1B => some (q 0x0E false)
  | 0x1C => some (q 0x0C false)
  | 0x1D => some (q 0x0E true)
  | _ => none

/-- A factor applied exactly (R274): 0 times an infinity gives NaN.  DESIGN CHOICE (log 81): so does K4 with an infinite T, a zero U and a
non-zero element, of which R274 does not speak. -/
def fvScale (x y : Fv) : Fv := (fvMul x y).getD (.nan false)

/-- The value of an element of a format, scaled by its block when the format is: `half` 0 for A, 4096 for B; `at_` the
row or column, `k` its logical index among kl, `v` its bits (R273, R347). -/
def State.scaledElem (s : State) (cell os half code at_ kl k : Nat) (v : Nat × Bool) : Elem :=
  match scaledOf code with
  | none => (elemValue code v.1, v.2)
  | some f =>
      let ix := at_ * (kl / f.bs) + k / f.bs
      let sc := s.opmBits cell os half (8 * f.bytes) ix
      let z := if f.zero then s.opmBits cell os (half + 2048) 4 ix else (0, false)
      let t := if f.tileT then s.opmBits cell os (half + 4094) 16 0 else (0, false)
      let e := if f.zero then fvInt (sextN v.1 4 - sextN z.1 4) else elemValue f.elem v.1
      let x := fvScale (f.scale sc.1) e
      let x := if f.tileT then fvScale (bf16.value t.1) x else x
      let x := if code = 0x17 then fvScale (.fin false 1 (-6)) x else x
      (x, v.2 || sc.2 || z.2 || t.2)

/-! ### Accumulator tiles (R336) -/

/-- The float format of a lane tag. -/
def tagFmt (tag : Nat) : Fmt := if tag = 2 then a80 else a40

/-- Element l of the result in tile `at_`: 40 bits, or under tag 2 the 80 bits of a lane pair of two tiles. -/
def State.accGet (s : State) (cell at_ tag l : Nat) : Nat × Bool :=
  if tag = 2 then
    let b := 1024 * (at_ + l / 512) + 2 * (l % 512)
    let x := s.accLane cell b
    let y := s.accLane cell (b + 1)
    (x.1 + 2 ^ 40 * y.1, x.2 || y.2)
  else s.accLane cell (1024 * at_ + l)

/-- The lanes of element l: one, or under tag 2 two (R336). -/
def accLanesOf (at_ tag l : Nat) : List Nat :=
  if tag = 2 then
    let b := 1024 * (at_ + l / 512) + 2 * (l % 512)
    [b, b + 1]
  else [1024 * at_ + l]

/-- Write one lane. -/
def laneOps (cell lane v : Nat) (poi : Bool) : List MemOp :=
  ((List.range 5).map fun i => MemOp.byte (keyOf 6 cell (5 * lane + i)) (BitVec.ofNat 8 (v / 256 ^ i))) ++
  [MemOp.poison (keyOf 9 cell lane) poi]
/-- Write element l. -/
def accOps (cell at_ tag l v : Nat) (poi : Bool) : List MemOp :=
  if tag = 2 then
    let b := 1024 * (at_ + l / 512) + 2 * (l % 512)
    laneOps cell b (v % 2 ^ 40) poi ++ laneOps cell (b + 1) (v / 2 ^ 40) poi
  else laneOps cell (1024 * at_ + l) v poi

/-- Replace every element; the flags of all. -/
def M.accUpdate (m : M) (cell at_ tag : Nat) (f : Nat → LaneOut) : M × MxFlags :=
  let r := (List.range 1024).map f
  (m.write ((List.range 1024).flatMap fun l => let e := r.getD l (0, false, 0); accOps cell at_ tag l e.1 e.2.1),
    r.foldl (fun g e => g ||| e.2.2) 0)

/-- The tiles of a result: one, or under tag 2 a pair. -/
def accTiles (at_ tag : Nat) : List Nat := if tag = 2 then [at_, at_ + 1] else [at_]
def Cell.tag (k : Cell) (t : Nat) : Nat := (k.atfmt.get 0 t).toNat
def Cell.setTags (k : Cell) (ts : List Nat) (v : Nat) : Cell :=
  { k with atfmt := ts.foldl (fun a t => a.set t (BitVec.ofNat 2 v)) k.atfmt }

/-! ### Multiply-accumulate (R348 to R350) -/

/-- The stored elements of a row of a compressed A that take part: logical position, index among the stored; and whether
a pair named one position twice. -/
def State.spRow (s : State) (cell om k r : Nat) : List (Nat × Nat) × Bool :=
  let e (j : Nat) : Nat := (s.opmBits cell om 0 2 (r * k + j)).1
  ((List.range k).filterMap fun j => if j % 2 = 1 ∧ e j = e (j - 1) then none else some (4 * (j / 2) + e j, j),
    (List.range k).any fun j => j % 2 == 1 && e j == e (j - 1))

/-- What a multiply-accumulate reads: the instruction's tiles, formats and datapath. -/
structure Mma where
  d : Datapath
  fa : Nat
  fb : Nat
  oa : Nat
  ob : Nat
  om : Option Nat
  os : Nat
  at_ : Nat
  z : Bool
  deriving DecidableEq, Repr, Inhabited

/-- Logical depth. -/
def Mma.kl (a : Mma) : Nat := if a.om.isSome then 2 * a.d.k else a.d.k

/-- The elements of row r of A that take part, by logical position. -/
def State.mmaRow (s : State) (cell : Nat) (a : Mma) (r : Nat) : List (Nat × Elem) :=
  let ps := match a.om with
    | some om => (s.spRow cell om a.d.k r).1
    | none => (List.range a.d.k).map fun k => (k, k)
  ps.map fun e => (e.1, s.scaledElem cell a.os 0 a.fa r a.kl e.1 (s.opmBits cell a.oa 0 (codeBits a.fa) (r * a.d.k + e.2)))
/-- Element (k, col) of B: logical positions from K on lie in the next tile. -/
def State.mmaCol (s : State) (cell : Nat) (a : Mma) (c k : Nat) : Elem :=
  s.scaledElem cell a.os 4096 a.fb c a.kl k
    (s.opmBits cell (a.ob + k / a.d.k) 0 (codeBits a.fb) (c * a.d.k + k % a.d.k))
/-- Whether an entry of OM read for a row carries poison. -/
def State.mmaMetaPoi (s : State) (cell : Nat) (a : Mma) (r : Nat) : Bool :=
  match a.om with
  | some om => (List.range a.d.k).any fun j => (s.opmBits cell om 0 2 (r * a.d.k + j)).2
  | none => false

/-- Sum of signed multiples of 2^q. -/
def sumAt (q : Int) (ts : List (Int × Int)) : Int := ts.foldl (fun n t => n + t.1 * 2 ^ (t.2 - q).toNat) 0
/-- A signed multiple truncated to a multiple of 2^q. -/
def truncAt (q : Int) (t : Int × Int) : Int × Int :=
  if q ≤ t.2 then t else (Int.tdiv t.1 (2 ^ (q - t.2).toNat), q)

/-- One group of a float lane (R349): v joins the exact sum of the products, truncated to the window when the datapath
has one, and the whole rounds once.  The sign of an exact zero that joins −0 is not stated: `neg` gives it. -/
def groupFloat (F : Fmt) (win neg : Bool) (v : Nat) (ps : List (Option Fv)) : Nat × Flags :=
  let x := F.value v
  let ts := ps.filterMap id
  if x.isNan || ps.any (·.isNone) || ts.any Fv.isNan ||
      ((x :: ts).any (fun t => t.isInf && t.sign) && (x :: ts).any fun t => t.isInf && !t.sign) then (F.cnan, fNV)
  else if (x :: ts).any Fv.isInf then (F.infOf ((x :: ts).any fun t => t.isInf && t.sign), 0)
  else
    let fin (t : Fv) : Option (Int × Int) := match t with
      | .fin s n e => if n = 0 then none else some (sgnInt s n, e)
      | _ => none
    let xs := ts.filterMap fin
    let vs := (fin x).toList
    let top := ((vs ++ xs).map fun t => (t.1.natAbs.log2 : Int) + t.2).max?
    let xs := match win, top with
      | true, some e => xs.map (truncAt (e - 95))
      | _, _ => xs
    let all := vs ++ xs
    let q := ((all.map fun t => t.2).min?).getD 0
    let n := sumAt q all
    if n = 0 then (F.pack (neg && v == F.pack true 0 && xs.isEmpty) 0, 0)
    else F.roundFin .rne 0 (n < 0) n.natAbs q

/-- A value as the operand of a choice that its bits alone decide (R349). -/
def Fv.code : Fv → List Int
  | .nan s => [0, ofBool s]
  | .inf s => [1, ofBool s]
  | .fin s n e => [2, ofBool s, n, e]
/-- One group of an integer lane. -/
def groupInt (v : Nat) (ps : List (Option Fv)) : Nat × MxFlags :=
  let s := ps.foldl (fun n p => match p with
    | some (.fin g k e) => n + sgnInt g k * 2 ^ e.toNat
    | _ => n) (sextN v 40)
  let t := satS s 40
  (zextI t 40, if t = s then 0 else fSATI)

/-- One group under a datapath. -/
def Datapath.group (d : Datapath) (neg : Bool) (v : Nat) (ps : List (Option Fv)) : Nat × MxFlags :=
  if d.tag = 0 then groupInt v ps
  else
    let r := groupFloat (tagFmt d.tag) d.window neg v ps
    (r.1, mxFlags r.2)

/-- A lane of the result: groups in ascending order. -/
def mmaLane (a : Mma) (row : List (Nat × Elem)) (col : Nat → Elem) (v : Nat) : Nat × MxFlags :=
  let g := max a.d.g 1
  (List.range (a.kl / g)).foldl (fun r i =>
    let es := (row.filter fun e => e.1 / g == i).map fun e => (e.2.1, (col e.1).1)
    let q := a.d.group (Config.zeroSign a.d.row (es.map fun e => (e.1.code, e.2.code))) r.1 (es.map fun e => fvMul e.1 e.2)
    (q.1, r.2 ||| q.2)) (v, 0)

/-- MMA, MMASP, MMSC: every lane, with its poison (R345, R350). -/
def M.mma (m : M) (cell : Nat) (a : Mma) : M × MxFlags :=
  let s := m.s
  let rows := (List.range 32).map fun r => s.mmaRow cell a r
  let cols := (List.range 32).map fun c => (List.range a.kl).map fun k => s.mmaCol cell a c k
  let bad := (List.range 32).map fun r => s.mmaMetaPoi cell a r
  let m := if a.z then m.on fun s => s.onCell cell fun k => k.setTags (accTiles a.at_ a.d.tag) a.d.tag else m
  let (m, f) := m.accUpdate cell a.at_ a.d.tag fun l =>
    let row := rows.getD (l / 32) []
    let cs := cols.getD (l % 32) []
    let col (k : Nat) : Elem := cs.getD k (.fin false 0 0, false)
    let old := if a.z then (0, false) else s.accGet cell a.at_ a.d.tag l
    let r := mmaLane a row col old.1
    (r.1, old.2 || bad.getD (l / 32) false || row.any (fun e => e.2.2 || (col e.1).2), r.2)
  let twice := match a.om with
    | some om => (List.range 32).any fun r => (s.spRow cell om a.d.k r).2
    | none => false
  (m, f ||| (if twice then fMETA else 0))

/-! ### Operations on tiles (R351 to R355) -/

/-- Table 12-10 for a lane and a value of another format. -/
def fsumV (F : Fmt) (x y : Fv) : Nat × Flags := (nanRow F [x, y]).getD (fsum F .rne 0 x y)
def fmulV (F : Fmt) (x y : Fv) : Nat × Flags :=
  (nanRow F [x, y]).getD (match fvMul x y with
    | none => (F.cnan, fNV)
    | some (.inf s) => (F.infOf s, 0)
    | some (.fin s n e) => F.roundFin .rne 0 s n e
    | some (.nan _) => (F.cnan, 0))

/-- An I40 sum. -/
def addI40 (x : Nat) (y : Int) : Nat × MxFlags :=
  let s := sextN x 40 + y
  (zextI (satS s 40) 40, if satS s 40 = s then 0 else fSATI)

/-- MCOMB on one lane. -/
def combLane (tag : Nat) (op : Comb) (d t : Nat) : Nat × MxFlags :=
  if tag = 0 then
    match op with
    | .add => addI40 d (sextN t 40)
    | .max => (aluMax 40 d t, 0)
    | .min => (aluMin 40 d t, 0)
  else
    let r := match op with
      | .add => fadd (tagFmt tag) .rne 0 d t
      | .max => fminmax (tagFmt tag) true false d t
      | .min => fminmax (tagFmt tag) false false d t
    (r.1, mxFlags r.2)

/-- MSCL on one lane: the factor is an FP32 value. -/
def scaleLane (tag d factor : Nat) : Nat × MxFlags :=
  let r := fmulV (tagFmt tag) ((tagFmt tag).value d) (f32.value factor)
  (r.1, mxFlags r.2)

/-- MACC on one lane: the element's bits in format f. -/
def maccLane (tag d f v : Nat) : Nat × MxFlags :=
  match elemValue f v with
  | .fin s n e =>
      if tag = 0 then addI40 d (sgnInt s n * 2 ^ e.toNat)
      else
        let r := fsumV (tagFmt tag) ((tagFmt tag).value d) (.fin s n e)
        (r.1, mxFlags r.2)
  | x =>
      let r := fsumV (tagFmt tag) ((tagFmt tag).value d) x
      (r.1, mxFlags r.2)

/-- MCVT on one lane (R355). -/
def mcvtLane (tag : Nat) (toA40 : Bool) (mode : RMode) (draw d : Nat) : Nat × MxFlags :=
  if tag = 0 then
    if toA40 then
      let r := itofValue a40 mode draw false (sextN d 40)
      (r.1, mxFlags r.2)
    else (d, 0)
  else if toA40 then (if (a40.value d).isNan then a40.cnan else d, 0)
  else
    let r := ftoiValue 40 true mode draw true (a40.value d)
    (r.1, mxFlags r.2)

/-! ### Drained elements (R356) -/

/-- A two-bit TER2 code that the spec leaves open. -/
def ter2Of (w : Word) : Nat :=
  match w.toNat % 3 with
  | 0 => 0
  | 1 => 1
  | _ => 3

/-- A lane converted to a target; `free` serves the one case that R326 shuts out for VCVT and R339 does not for a drain:
an out-of-range value into TER2 without SAT. -/
def drainElem (tag dst : Nat) (mode : RMode) (draw : Nat) (sat : Bool) (free : Word) (d : Nat) : Nat × Flags :=
  if tag = 0 then
    let i := sextN d 40
    match floatCode dst with
    | some B => itofValue B mode draw sat i
    | none => match intCode dst with
      | some (w, sg) => if sat then (zextI (min (max i (intLo w sg)) (intHi w sg)) w, 0) else (zextI i w, 0)
      | none => if sat ∨ (-1 ≤ i ∧ i ≤ 1) then (zextI (min (max i (-1)) 1) 2, 0) else (ter2Of free, 0)
  else
    let x := (tagFmt tag).value d
    match floatCode dst with
    | some B => cvtValue B mode draw sat x
    | none => match intCode dst with
      | some (w, sg) => ftoiValue w sg mode draw sat x
      | none =>
          if sat then
            (match x with
             | .nan _ => (0, fNV)
             | .inf s => (if s then 3 else 1, fNV)
             | .fin s n e =>
                 let (q, inexact) := roundInt mode draw s n e
                 if q < -1 ∨ 1 < q then (if q < 0 then 3 else 1, fNV) else (zextI q 2, if inexact then fNX else 0))
          else
            (match x with
             | .fin s n e =>
                 let (q, inexact) := roundInt mode draw s n e
                 if q < -1 ∨ 1 < q then (ter2Of free, fNV) else (zextI q 2, if inexact then fNX else 0)
             | _ => (ter2Of free, fNV))

/-- The image of a tile: its bytes, each poisoned when an element with bits in it is; and the flags. -/
def State.drainImage (s : State) (cell at_ tag dst : Nat) (mode : RMode) (seed : Word) (sat : Bool) :
    List (Byte × Bool) × MxFlags :=
  let b := codeBits dst
  let el := (List.range 1024).map fun l =>
    let v := s.accGet cell at_ tag l
    let r := drainElem tag dst mode (laneDraw seed l) sat (Config.freeWord (s.freeCtr + l)) v.1
    (r.1 % 2 ^ b, v.2, mxFlags r.2)
  let num := (List.range 1024).foldl (fun n l => n + (el.getD l (0, false, 0)).1 * 2 ^ (b * l)) 0
  ((List.range (128 * b)).map fun j =>
      (BitVec.ofNat 8 (num / 256 ^ j),
        (List.range ((8 * j + 7) / b + 1 - 8 * j / b)).any fun i => (el.getD (8 * j / b + i) (0, false, 0)).2.1),
    el.foldl (fun g e => g ||| e.2.2) 0)

end Sys2Proof.Machine
end

