-- ==== Sys2Proof/Machine/Matrix.lean ====
section
/-! DEFINITION. Machine/Matrix.lean: matrix instructions as a block fires them (R340, R343, R357, R359, R361), the MXE that
runs their commands (R343 to R346, R351 to R360, R362, R489, R494), and the answers of its drains. -/
namespace Sys2Proof.Machine
open Sys2Proof

/-! ### Firing -/

/-- Tokens of an instruction outside the MMA family (Table 15-8). -/
def mxCharge : Instr → Nat
  | .mtrn .. => 32
  | .mcomb .. => 32
  | .mscl .. => 32
  | .macc .. => 32
  | .mcvt .. => 32
  | .mdrn .. => 48
  | .mdrnt .. => 48
  | _ => 0

/-- An instruction whose operands need no check. -/
def fireX (i : Instr) (s : State) : Host.Outcome State Fault Refusal := fireE i true (mxCharge i) (fun e m => e.engine i m) s

/-- Tokens of an MMA family instruction, by the row of Table 15-5 that the pair of its format word names, also where R340 refuses the
word (R361). -/
def mmaCharge (i : Instr) (w : Word) : Nat :=
  match dpOf (fld w 0 5) (fld w 8 5) with
  | none => 0
  | some d => match i with
    | .mmasp .. => d.chargeSp
    | _ => d.charge
/-- The MMA family: the format word is checked when the instruction fires (R340). -/
def fireMma (i : Instr) (s : State) : Host.Outcome State Fault Refusal :=
  run s <| fireM i (fun e => e.engOk true (mmaCharge i (e.tok .a).v)) (fun e s => s.charge e.cell true (mmaCharge i (e.tok .a).v))
    fun e m =>
      let w := (e.tok .a).v
      if e.pa then (m, effFault cPoison w)
      else if (mmaPath i w).isNone then (m, effFault cIllegal w)
      else e.engine i m

/-- The route of a drain piece (Table 7-1, R48, R60). -/
def State.mxRoute (s : State) (cell x : Nat) (sup : Bool) (addr : Word) (n : Nat) : Route :=
  closeRoute (fun r => match r with
    | .engine _ => false
    | .hst _ => false
    | .mmio _ => false
    | .here p => !s.codeWrite p n sup
    | _ => true) (s.route cell x addr n)

/-- The fields of a drain. -/
def drainOf : Instr → Option (LayD × Bool)
  | .mdrn _ l => some (l, false)
  | .mdrnt _ l => some (l, true)
  | _ => none

/-- Bytes of a row of the image (R356). -/
def rowBytes (l : LayD) : Nat := 4 * codeBits l.fmt.toNat

/-- The checks of a drain's ports at issue (R357, R359); a wake word's tag is checked as a SEND's is (R307). -/
def Env.drainChk (e : Env) (l : LayD) (wakes : Bool) : Option (Cause × Word) :=
  match effAddr (e.tok .a) 0 with
  | .error f => some f
  | .ok d =>
      let b := (e.tok .b).v
      let p := b.toNat
      match e.s.mxRoute e.cell e.x e.blk.sup d 8 with
      | .bad c => some (c, d)
      | _ =>
          if d.toNat % 64 ≠ 0 then some (cAlign, d)
          else if e.pb then some (cPoison, b)
          else if wakes then
            (if fld b 27 5 ≠ 0 ∨ fld b 0 4 ≠ 0 ∨ fld b 24 3 = 6 then some (cSpace, b)
             else if (e.s.ftab.get 0 (fld b 17 7)).getLsbD 15 = false then some (cTrans, b)
             else if fld b 24 3 = 7 ∧ e.blk.sup = false then some (cPrivilege, e.n.word) else none)
          else if p % 64 ≠ 0 ∨ (p ≠ 0 ∧ p < rowBytes l) then some (cSpace, b) else none

def fireDrain (i : Instr) (l : LayD) (wakes : Bool) (s : State) : Host.Outcome State Fault Refusal :=
  fireE i true (mxCharge i) (fun e m => match e.drainChk l wakes with
    | some (c, v) => (m, effFault c v)
    | none => e.engine i m) s

def execMclaim (h : Hdr) (seq ot : BitVec 5) (exp : BitVec 7) (s : State) : Host.Outcome State Fault Refusal :=
  fireX (.mclaim h seq ot exp) s
def execMrel (h : Hdr) (seq ot : BitVec 5) (s : State) : Host.Outcome State Fault Refusal := fireX (.mrel h seq ot) s
def execMclr (h : Hdr) (seq at_ : BitVec 5) (lf : LaneFmt) (s : State) : Host.Outcome State Fault Refusal :=
  fireX (.mclr h seq at_ lf) s
def execMma (h : Hdr) (l : LayM) (s : State) : Host.Outcome State Fault Refusal := fireMma (.mma h l) s
def execMmasp (h : Hdr) (l : LayM) (om : BitVec 5) (s : State) : Host.Outcome State Fault Refusal := fireMma (.mmasp h l om) s
def execMmsc (h : Hdr) (l : LayM) (os : BitVec 5) (s : State) : Host.Outcome State Fault Refusal := fireMma (.mmsc h l os) s
def execMscl (h : Hdr) (seq at_ : BitVec 5) (by_ : ScaleBy) (s : State) : Host.Outcome State Fault Refusal :=
  fireX (.mscl h seq at_ by_) s
def execMcomb (h : Hdr) (seq atd ats : BitVec 5) (op : Comb) (s : State) : Host.Outcome State Fault Refusal :=
  fireX (.mcomb h seq atd ats op) s
def execMdrn (h : Hdr) (l : LayD) (s : State) : Host.Outcome State Fault Refusal := fireDrain (.mdrn h l) l false s
def execMdrnt (h : Hdr) (l : LayD) (s : State) : Host.Outcome State Fault Refusal := fireDrain (.mdrnt h l) l true s
def execMtrn (h : Hdr) (seq at_ : BitVec 5) (s : State) : Host.Outcome State Fault Refusal := fireX (.mtrn h seq at_) s
def execMcvt (h : Hdr) (seq at_ : BitVec 5) (toA40 : Bool) (mode : Rm) (s : State) : Host.Outcome State Fault Refusal :=
  fireX (.mcvt h seq at_ toA40 mode) s
def execMacc (h : Hdr) (seq at_ ot f : BitVec 5) (s : State) : Host.Outcome State Fault Refusal :=
  fireX (.macc h seq at_ ot f) s
def execMstat (h : Hdr) (seq : BitVec 5) (s : State) : Host.Outcome State Fault Refusal := fireX (.mstat h seq) s

/-! ### Checks at the queue head (R345, R346, R352 to R357, R494) -/

/-- What the head command finds: it waits, is refused with a code, a tile, a cause and a TVAL, or runs. -/
inductive MxCheck
  | wait
  | refuse (code : Nat) (tile : Option Nat) (cause : Cause) (tval : Word)
  | run
  deriving DecidableEq, Repr, Inhabited

/-- The multiply-accumulate that a command names. -/
def mmaOf (c : Cmd) : Option Mma :=
  let mk (l : LayM) (om : Option Nat) (os : Option Nat) : Option Mma :=
    match fmtWord c.a.v, mmaPath c.i c.a.v with
    | some (fa, fb, w), some d =>
        some { d := d, fa := fa, fb := fb, oa := l.oa.toNat, ob := l.ob.toNat, om := om, os := os.getD w, at_ := l.at_.toNat, z := l.z }
    | _, _ => none
  match c.i with
  | .mma _ l => mk l none none
  | .mmasp _ l om => mk l (some om.toNat) none
  | .mmsc _ l os => mk l none (some os.toNat)
  | _ => none

/-- Operand tiles a command reads (R346). -/
def opTiles (c : Cmd) : List Nat :=
  match c.i with
  | .mscl _ _ _ (.row t) => [t.toNat]
  | .mscl _ _ _ (.col t) => [t.toNat]
  | .macc _ _ _ t _ => [t.toNat]
  | _ =>
    match mmaOf c with
    | some a => [a.oa, a.ob] ++ (match a.om with
        | some om => [a.ob + 1, om]
        | none => []) ++ (if a.d.scaled then [a.os] else [])
    | none => []

/-- Accumulator tiles named by a command that R494 governs. -/
def named (i : Instr) : List Nat :=
  match i with
  | .mtrn _ _ t => [t.toNat]
  | .mcomb _ _ d s _ => [d.toNat, s.toNat]
  | .mscl _ _ t _ => [t.toNat]
  | .macc _ _ t _ _ => [t.toNat]
  | .mdrn _ l => [l.at_.toNat]
  | .mdrnt _ l => [l.at_.toNat]
  | _ => []

/-- A named tile that breaks R494. -/
def Cell.badPair (k : Cell) (t : Nat) : Bool := k.tag t == 2 && (t % 2 == 1 || k.tag (t + 1) != 2)

/-- Accumulator tiles a command reads or writes, and those it writes. -/
def Cell.accUse (k : Cell) (c : Cmd) : List Nat × List Nat :=
  let ts (l : List Nat) : List Nat := l.flatMap fun t => accTiles t (k.tag t)
  match c.i with
  | .mclr _ _ t lf => let l := accTiles t.toNat (if lf = .a80 then 2 else 0); (l, l)
  | .mcvt _ _ t _ _ => ([t.toNat], [t.toNat])
  | .mdrn .. => (ts (named c.i), [])
  | .mdrnt .. => (ts (named c.i), [])
  | .mcomb _ _ d _ _ => (ts (named c.i), ts [d.toNat])
  | _ =>
    match mmaOf c with
    | some a => let l := accTiles a.at_ a.d.tag; (l, l)
    | none => (ts (named c.i), ts (named c.i))

/-- A tile marked busy (R146); a chained command does not wait for the marks of the MXE itself (R360). -/
def Cell.accBusy (k : Cell) (chain : Bool) (t : Nat) : Bool :=
  k.busy.any fun e => e.1 == t && !(chain && k.mxRun.any fun r => r.cmd.id == e.2)

/-- A multiply-accumulate into the tile of the one just before it, under the same datapath (R360). -/
def Cell.chained (k : Cell) (c : Cmd) : Bool :=
  match mmaOf c with
  | some a => k.mxChain == some (a.at_, a.d.row)
  | none => false

/-- The lane tag a command does not accept: code and tile (Table 15-7). -/
def Cell.tagRefusal (k : Cell) (c : Cmd) : Option (Nat × Nat) :=
  match (named c.i).find? k.badPair with
  | some t => some (2, t)
  | none =>
    match c.i with
    | .mcomb _ _ d s _ => if k.tag d.toNat = k.tag s.toNat then none else some (2, d.toNat)
    | .mscl _ _ t _ => if k.tag t.toNat = 0 then some (3, t.toNat) else none
    | .macc _ _ t _ f => if (k.tag t.toNat = 0) = ((floatCode f.toNat).isNone = true) then none else some (2, t.toNat)
    | .mcvt _ _ t _ _ => if k.tag t.toNat = 2 then some (2, t.toNat) else none
    | i =>
      match drainOf i, mmaOf c with
      | some (l, _), _ => if k.tag l.at_.toNat = 2 ∧ 1 < l.fmt.toNat then some (2, l.at_.toNat) else none
      | none, some a =>
          if a.z then none else ((accTiles a.at_ a.d.tag).find? fun t => k.tag t != a.d.tag).map fun t => (2, t)
      | none, none => none

/-- Put a piece among pieces in ascending address order. -/
def putPiece (p : Nat × Nat × Nat) : List (Nat × Nat × Nat) → List (Nat × Nat × Nat)
  | [] => [p]
  | q :: t => if p.1 ≤ q.1 then p :: q :: t else q :: putPiece p t
/-- The pieces of a drain in ascending address order: address, unbounded (R9), offset in the image, bytes (R357, R358). -/
def drainPieces (c : Cmd) (l : LayD) (wakes : Bool) : List (Nat × Nat × Nat) :=
  let n := rowBytes l
  let at_ (o : Nat) : Nat := c.a.v.toNat + o
  if wakes ∨ c.b.v = 0 then (List.range (n / 2)).map fun i => (at_ (64 * i), 64 * i, 64)
  else ((List.range 32).flatMap fun r =>
    (List.range ((n + 63) / 64)).map fun i => (at_ (r * c.b.v.toNat + 64 * i), r * n + 64 * i, min 64 (n - 64 * i))).foldr putPiece []

/-- The first piece that fails a check in execution. -/
def State.pieceFault (s : State) (c : Cmd) (l : LayD) (wakes : Bool) : Option (Cause × Word) :=
  let top (a : Nat) : Nat := a / 2 ^ offsetBits (fld c.a.v 61 3)
  (drainPieces c l wakes).findSome? fun p =>
    let a : Word := BitVec.ofNat 64 p.1
    if top p.1 ≠ top c.a.v.toNat then some (cSpace, a)
    else match s.mxRoute c.cell c.x c.sup a p.2.2 with
      | .bad e => some (e, a)
      | _ => none
/-- Whether a piece of a drain would meet the injection hold. -/
def State.piecesHeld (s : State) (c : Cmd) (l : LayD) (wakes : Bool) : Bool :=
  (drainPieces c l wakes).any fun p => s.routeHeld (s.mxRoute c.cell c.x c.sup (BitVec.ofNat 64 p.1) p.2.2)

/-- The checks of the head command, in order. -/
def State.mxCheck (s : State) (c : Cmd) : MxCheck :=
  let k := s.cellAt c.cell
  let ots := opTiles c
  match ots.find? fun t => decide (31 < t) with
  | some _ => .refuse 1 (some 31) cSchedule 31
  | none =>
    match ots.find? fun t => (k.otAt t).st != 0 && (k.otAt t).owner.toNat != c.x with
    | some t => .refuse 1 (some t) cSchedule (BitVec.ofNat 64 t)
    | none =>
        if ots.any (fun t => (k.otAt t).st != 2) then .wait
        else if (k.accUse c).1.any (k.accBusy (k.chained c)) then .wait
        else
          match k.tagRefusal c with
          | some (code, t) => .refuse code (some t) cSchedule (BitVec.ofNat 64 t)
          | none =>
            match drainOf c.i with
            | none => .run
            | some (l, w) =>
                match s.pieceFault c l w with
                | some (e, a) => .refuse 4 (some l.at_.toNat) e a
                | none => if s.piecesHeld c l w then .wait else .run

/-! ### Refusal (R362) -/

/-- A refused command changes nothing but MXSTAT's record; the later queued commands of its context are discarded, and its
context is told; the statuses of their claims land within their bound (R156).  The tile of a refusal that names none is not stated. -/
def State.mxRefuse (s : State) (c : Cmd) (code : Nat) (tile : Option Nat) (cause : Cause) (tval : Word) : State :=
  let (w, s) := match tile with
    | some t => (BitVec.ofNat 64 t, s)
    | none => s.takeFree
  let gone := c :: (s.cellAt c.cell).mxq.filter fun q => q.x == c.x
  let s := s.onCell c.cell fun k => { k with mxq := k.mxq.filter fun q => q.x != c.x }
  let s := s.onCtx c.cell c.x fun q =>
    let q := { q with mxstat := firstCause q.mxstat cause fun v => putFld (putFld v 52 4 code) 47 5 w.toNat }
    gone.foldl (fun q g => (q.result g.id { v := 0, poi := true }).dueBy g.id (s.tickOf c.cell + 4)) q
  s.report c.cell c.x { cause := cause, detail := BitVec.ofNat 8 code, src := 2, tval := tval }

/-! ### Running a command -/

/-- A tile's claim and release (Table 7-3). -/
def OtSt.claim (o : OtSt) (x e : Nat) : OtSt × Bool :=
  if o.st = 0 ∨ o.owner.toNat = x then
    ({ o with st := if e = 0 then 2 else 1, owner := BitVec.ofNat 2 x, exp := BitVec.ofNat 8 e, fill := 0 }, true)
  else (o, false)
def OtSt.release (o : OtSt) (x : Nat) : OtSt × Bool :=
  if o.st = 2 ∧ o.owner.toNat = x then ({ o with st := 0, owner := 0 }, true) else (o, false)

/-- An element of an operand tile that scales row r and column c. -/
def State.factor (s : State) (cell : Nat) (by_ : ScaleBy) (b : Tok) (r c : Nat) : Nat × Bool :=
  match by_ with
  | .scalar => (zextN b.v.toNat 32, b.poi)
  | .row t => s.opmBits cell t.toNat 0 32 r
  | .col t => s.opmBits cell t.toNat 0 32 c

/-- What a command does to accumulator lanes and tags, with its flags. -/
def M.mxLanes (m : M) (c : Cmd) : M × MxFlags :=
  let s := m.s
  let k := s.cellAt c.cell
  match c.i with
  | .mclr _ _ t lf =>
      let g := match lf with
        | .i40 => 0
        | .a40 => 1
        | .a80 => 2
      let (m, f) := m.accUpdate c.cell t.toNat g fun _ => (0, false, 0)
      (m.on fun s => s.onCell c.cell fun k => k.setTags (accTiles t.toNat g) g, f)
  | .mtrn _ _ t =>
      let g := k.tag t.toNat
      (m.write ((List.range 1024).flatMap fun l =>
        (accLanesOf t.toNat g l).zip (accLanesOf t.toNat g (32 * (l % 32) + l / 32)) |>.flatMap fun e =>
          let v := s.accLane c.cell e.2
          laneOps c.cell e.1 v.1 v.2), 0)
  | .mcomb _ _ d t op =>
      let g := k.tag d.toNat
      m.accUpdate c.cell d.toNat g fun l =>
        let x := s.accGet c.cell d.toNat g l
        let y := s.accGet c.cell t.toNat g l
        let r := combLane g op x.1 y.1
        (r.1, x.2 || y.2, r.2)
  | .mscl _ _ t b =>
      let g := k.tag t.toNat
      m.accUpdate c.cell t.toNat g fun l =>
        let x := s.accGet c.cell t.toNat g l
        let f := s.factor c.cell b c.b (l / 32) (l % 32)
        let r := scaleLane g x.1 f.1
        (r.1, x.2 || f.2, r.2)
  | .macc _ _ t o f =>
      let g := k.tag t.toNat
      m.accUpdate c.cell t.toNat g fun l =>
        let x := s.accGet c.cell t.toNat g l
        let e := s.opmBits c.cell o.toNat 0 (codeBits f.toNat) l
        let r := maccLane g x.1 f.toNat e.1
        (r.1, x.2 || e.2, r.2)
  | .mcvt _ _ t dst mode =>
      let g := k.tag t.toNat
      let (m, f) := m.accUpdate c.cell t.toNat g fun l =>
        let x := s.accGet c.cell t.toNat g l
        let r := mcvtLane g dst (rmMode c.frm mode) (laneDraw c.seed l) x.1
        (r.1, x.2, r.2)
      (m.on fun s => s.onCell c.cell fun k => k.setTags [t.toNat] (ofBool dst), f)
  | _ =>
    match mmaOf c with
    | some a => m.mma c.cell a
    | none => (m, 0)

/-- Issue the pieces of a drain in ascending order (R358). -/
def M.drainIssue : M → Cmd → List (Byte × Bool) → List (Nat × Nat × Nat) → M × List Fly
  | m, _, _, [] => (m, [])
  | m, c, img, p :: t =>
      let a : Word := BitVec.ofNat 64 p.1
      let r := m.s.mxRoute c.cell c.x c.sup a p.2.2
      let (m, f) := m.issue (.mxe c.cell c.x) c a r p.2.2 (.engWrite ((img.drop p.2.1).take p.2.2) []) (Back.mxe c.cell) true p.2.1
      let (m, fs) := M.drainIssue m c img t
      (m, f :: fs)

/-- MSTATs whose earlier commands have all completed land MXSTAT (R344). -/
def landMstat : List Nat → List MxRun → Ctx × Nat → List MxRun × (Ctx × Nat)
  | _, [], e => ([], e)
  | open_, r :: t, (c, x) =>
      match r.cmd.i with
      | .mstat .. =>
          if r.cmd.x = x ∧ open_.contains x = false then landMstat open_ t (c.result r.cmd.id { v := c.mxstat }, x)
          else
            let q := landMstat open_ t (c, x)
            (r :: q.1, q.2)
      | _ =>
          let q := landMstat (r.cmd.x :: open_) t (c, x)
          (r :: q.1, q.2)
def State.mstats (s : State) (cell : Nat) : State :=
  (List.range 4).foldl (fun s x =>
    let q := landMstat [] (s.cellAt cell).mxRun (s.ctxAt cell x, x)
    (s.onCell cell fun k => { k with mxRun := q.1 }).setCtx cell x q.2.1) s

/-- Run a command that has left the queue. -/
def M.mxBegin (m : M) (c : Cmd) : M :=
  let k := m.s.cellAt c.cell
  let add (s : State) (r : MxRun) : State := s.onCell c.cell fun k => { k with mxRun := k.mxRun ++ [r] }
  let chain : Option (Nat × Nat) := (mmaOf c).map fun a => (a.at_, a.d.row)
  let m := m.on fun s => s.onCell c.cell fun k => { k with mxChain := chain }
  match c.i with
  | .mclaim _ _ t e =>
      let r := (k.otAt t.toNat).claim c.x e.toNat
      m.on fun s => (s.onCell c.cell fun k => k.setOt t.toNat r.1).onCtx c.cell c.x fun q =>
        (q.result c.id { v := BitVec.ofNat 64 (ofBool r.2) }).dueBy c.id (s.tickOf c.cell + 4)
  | .mrel _ _ t =>
      let r := (k.otAt t.toNat).release c.x
      m.on fun s => (s.onCell c.cell fun k => k.setOt t.toNat r.1).onCtx c.cell c.x fun q =>
        if r.2 then q else { q with mxstat := countUp q.mxstat 16 1 }
  | .mstat .. => m.on fun s => (add s { cmd := c }).mstats c.cell
  | i =>
    match drainOf i with
    | some (l, w) =>
        let mode := bitsMode c.frm l.mode
        let (img, f) := m.s.drainImage c.cell l.at_.toNat (k.tag l.at_.toNat) l.fmt.toNat mode c.seed l.sat
        let m := m.on fun s => { s with freeCtr := s.freeCtr + 1024 }
        let (m, fs) := m.drainIssue c img (drainPieces c l w)
        m.on fun s => add s { cmd := c, flying := fs, drain := true, flags := f }
    | none =>
        let marks := (k.accUse c).2
        let (m, f) := m.mxLanes c
        m.on fun s => (add s { cmd := c, flags := f }).onCell c.cell fun k =>
          { k with busy := k.busy ++ marks.map fun t => (t, c.id) }

/-- MXE_COMMAND_START: the head command starts, waits or is refused (R137, R173, R338, R345, R346, R360). -/
def M.mxStart (m : M) (cell : Nat) : M :=
  let s := m.s
  let k := s.cellAt cell
  match k.mxq with
  | [] => m
  | c :: t =>
      if !s.engRuns cell || !s.sqPast c then m
      else
        let pop (s : State) : State := s.setCell cell { k with mxq := t }
        match s.waitOf c.wait with
        | .waiting => m
        | .error cause a => m.on fun s => (pop s).mxRefuse c 5 none cause a
        | .emitted =>
          match s.mxCheck c with
          | .wait => m
          | .refuse code tile cause tval => m.on fun s => (pop s).mxRefuse c code tile cause tval
          | .run => (m.on pop).mxBegin c
def execMxeCommandStart (cell : Nat) (s : State) : Host.Outcome State Fault Refusal := run s fun m => m.mxStart cell

/-! ### Completion -/

/-- Take a run out, its flags ORed into MXSTAT and its marks cleared (R146, R337). -/
def State.mxFinish (s : State) (cell n : Nat) (r : MxRun) : State :=
  (s.onCell cell fun k => { k with mxRun := k.mxRun.eraseIdx n, busy := k.busy.filter fun e => e.2 != r.cmd.id }).onCtx cell
    r.cmd.x fun q => q.raiseMx r.flags

/-- ACCUMULATOR_WRITE_DONE: the oldest command that computes has written its tile (R360). -/
def execAccumulatorWriteDone (cell : Nat) (s : State) : Host.Outcome State Fault Refusal :=
  run s fun m => m.on fun s =>
    let rs := (s.cellAt cell).mxRun
    match rs.findIdx? fun r => !r.drain && (match r.cmd.i with
        | .mstat .. => false
        | _ => true) with
    | none => s
    | some n => match rs[n]? with
      | none => s
      | some r => (s.mxFinish cell n r).mstats cell

/-- The answer of a drain piece: one that failed at a remote home is dropped and recorded (R41, R357). -/
def M.mxAnswer (m : M) (cell id : Nat) (err : Option Cause) (addr : Word) : M :=
  m.on fun s =>
    match (s.cellAt cell).mxRun.find? fun r => r.flying.any fun f => f.id == id with
    | none => s
    | some r =>
        let c := r.cmd
        let d := ((r.flying.find? fun f => f.id == id).map fun f => f.dist).getD .waf
        let s := match err with
          | some e => s.recordDrop cell c.x c.id c.hno e addr d
          | none => s
        s.onCell cell fun k => { k with mxRun := k.mxRun.map fun q =>
          if q.cmd.id = c.id then { q with flying := q.flying.filter fun f => f.id != id } else q }

/-- The WAKE of an MDRNT (R359, Table 15-6). -/
def State.drainWake (s : State) (c : Cmd) : State :=
  let w := c.b.v
  let (id, s) := s.takeId
  s.inject { id := id, who := .mxe c.cell c.x, cell := c.cell, vc := fld w 24 3, addr := putFld 0 0 24 (fld w 0 24),
             op := .message { vc := fld w 24 3, tag := w.setWidth 24, words := [{ v := BitVec.ofNat 64 (fld w 32 32) }], wake := true },
             back := .store c.cell c.x id, sup := c.sup, hno := c.hno }

/-- DRAIN_COMPLETE: every piece of the n-th running command is performed or dropped: its semaphore is released, then its
WAKE is sent (R359), by a cell whose engines run (R363). -/
def execDrainComplete (cell n : Nat) (s : State) : Host.Outcome State Fault Refusal :=
  run s fun m => m.on fun s =>
    match (s.cellAt cell).mxRun[n]? with
    | none => s
    | some r =>
      match drainOf r.cmd.i with
      | none => s
      | some (l, w) =>
          if !s.engRuns cell || !r.flying.isEmpty || !r.drain || (w && s.holds.contains (fld r.cmd.b.v 17 7)) then s
          else
            let s := s.mxFinish cell n r
            let s := match l.q with
              | some q => s.onCell cell fun k => k.semRelease q.toNat 1
              | none => s
            (if w then s.drainWake r.cmd else s).mstats cell

end Sys2Proof.Machine
end

