-- ==== Sys2Proof/Machine/Vault.lean ====
section
/-! DEFINITION. Machine/Vault.lean: the vault interface (chapter 5): the timing rules of Table 6-5 and the bank state they
read (R94, R126), refresh debts, classes and the refresh guard (R95 to R99, R123, R124), the untimed path (R101, R102)
and row remapping (R104). -/
namespace Sys2Proof.Machine
open Sys2Proof

/-! ### Bank commands and Table 6-5 -/

/-- A command on the bank bus (Table 6-2). -/
inductive BankCmd
  | act (b row : Nat)
  | rd (b : Nat)
  | wr (b : Nat)
  | pre (b : Nat)
  | preAll
  | refAll
  | ref (b : Nat)
  deriving DecidableEq, Repr, Inhabited

/-- The live banks in ascending number. -/
def Cell.liveBanks (c : Cell) : List Nat := (List.range 8).filter fun b => c.vltLive.getLsbD b
/-- The bank group of a bank (R90). -/
def groupOf (b : Nat) : Nat := b / 2

/-- The first clock a distance after a time, if there was one. -/
def since (x : Option Nat) (d : Nat) : Nat :=
  match x with
  | some t => t + d
  | none => 0

/-- The rules of Table 6-5 that a command meets, by number: the first vault clock that satisfies each, or none when no
clock can while the banks stand as they do. -/
def Vault.rules (v : Vault) (T : Timing) (live : List Nat) (c : BankCmd) : List (Nat × Option Nat) :=
  let bus : List (Nat × Option Nat) := [(1, some (since v.last 1))]
  let ref (b : Nat) : List (Nat × Option Nat) :=
    [(7, some (since v.lastRefA T.trfcab)), (7, some (since (v.bank b).ref T.trfcpb))]
  let opened (b : Nat) : Nat × Option Nat :=
    (8, if (v.bank b).row.isSome then some (since (v.bank b).act T.trcd) else none)
  let near (b k s l : Nat) : Nat := if groupOf b = groupOf k then l else s
  let shut (b : Nat) : Nat × Option Nat := (13, if (v.bank b).row.isSome then none else some (since (v.bank b).pre T.trp))
  let close (b : Nat) : List (Nat × Option Nat) :=
    if (v.bank b).row.isNone then []
    else [(12, some (since (v.bank b).act T.tras)), (12, some (since (v.bank b).rd T.trtp)),
          (12, some (since (v.bank b).wr (T.wl + 2 + T.twr)))]
  bus ++
  match c with
  | .act b _ =>
      [(2, if (v.bank b).row.isSome then none else some 0), (3, some (since (v.bank b).act T.trc)),
       (4, some (since (v.bank b).pre T.trp))] ++
      ((live.filter fun k => k != b).map fun k => (5, some (since (v.bank k).act (near b k T.trrds T.trrdl)))) ++
      [(6, some (since v.acts[3]? T.tfaw))] ++ ref b
  | .rd b =>
      ref b ++ [opened b] ++ (live.map fun k => (9, some (since (v.bank k).rd (near b k T.tccds T.tccdl)))) ++
      (live.map fun k => (11, some (since (v.bank k).wr (T.wl + 2 + near b k T.twtrs T.twtrl))))
  | .wr b =>
      ref b ++ [opened b] ++ (live.map fun k => (9, some (since (v.bank k).wr (near b k T.tccds T.tccdl)))) ++
      (live.map fun k => (10, some (since (v.bank k).rd T.trtw)))
  | .pre b => ref b ++ close b
  | .preAll => (live.filter fun b => (v.bank b).row.isSome).flatMap fun b => ref b ++ close b
  | .refAll => (live.flatMap ref) ++ live.map shut
  | .ref b => ref b ++ [shut b]

/-- The lowest-numbered rule broken at a vault clock; 0 when none is (R126). -/
def brokenAt (l : List (Nat × Option Nat)) (t : Nat) : Nat :=
  (l.filter fun e => match e.2 with
    | some n => decide (t < n)
    | none => true).foldl (fun r e => if r = 0 then e.1 else min r e.1) 0

/-- The first vault clock from t on that breaks no rule. -/
def earliest (l : List (Nat × Option Nat)) (t : Nat) : Option Nat :=
  l.foldl (fun r e => match r, e.2 with
    | some a, some b => some (max a b)
    | _, _ => none) (some t)

/-- Rule 13 for DEND. -/
def Vault.endRule (v : Vault) (live : List Nat) : Nat := if live.any fun b => (v.bank b).row.isSome then 13 else 0

def Vault.setBank (v : Vault) (b : Nat) (k : BankSt) : Vault := { v with banks := v.banks.set b k }
def Vault.onBank (v : Vault) (b : Nat) (f : BankSt → BankSt) : Vault := v.setBank b (f (v.bank b))

/-- What a command issued at t leaves of the timing state, and of the debts a refresh lowers (R94, R97, R114). -/
def Vault.issue (v : Vault) (live : List Nat) (c : BankCmd) (t : Nat) : Vault :=
  let v := { v with last := some t }
  let close (v : Vault) (b : Nat) : Vault :=
    if (v.bank b).row.isSome then v.onBank b fun k => { k with row := none, pre := some t } else v
  match c with
  | .act b row => { v.onBank b (fun k => { k with row := some row, act := some t }) with acts := (t :: v.acts).take 4 }
  | .rd b => v.onBank b fun k => { k with rd := some t }
  | .wr b => v.onBank b fun k => { k with wr := some t }
  | .pre b => close v b
  | .preAll => live.foldl close v
  | .refAll => live.foldl (fun v b => v.onBank b fun k => { k with debt := k.debt - 1 }) { v with lastRefA := some t }
  | .ref b => v.onBank b fun k => { k with ref := some t, debt := k.debt - 1 }

/-- Issue a command on the first clock from t on that Table 6-5 allows. -/
def Vault.issueFrom (v : Vault) (T : Timing) (live : List Nat) (c : BankCmd) (t : Nat) : Option (Vault × Nat) :=
  (earliest (v.rules T live c) t).map fun e => (v.issue live c e, e)

/-- The timing state at the start of a program: earlier commands constrain nothing from T0 on (R102, R126). -/
def Vault.fresh (v : Vault) : Vault :=
  { v with
    banks := v.banks.map fun e => (e.1, { debt := e.2.debt, target := e.2.target })
    acts := [], lastRefA := none, last := none }

/-! ### Refresh debt, classes, the guard -/

/-- Whether a tick raises the debts of a vault of a sensed class (R96). -/
def tickRaises (scls : BitVec 2) (t : Nat) : Bool :=
  match scls.toNat with
  | 0 => t % 6000 == 0
  | 1 => t % 3000 == 0
  | _ => t % 1500 == 0

/-- A tick's effect on the debts: +9 only in a vault a program owns (R97). -/
def Vault.accrue (v : Vault) (live : List Nat) (scls : BitVec 2) (t : Nat) : Vault :=
  if tickRaises scls t then
    live.foldl (fun v b => v.onBank b fun k =>
      { k with debt := if k.debt < 8 ∨ (v.owned ∧ k.debt = 8) then k.debt + 1 else k.debt }) v
  else v

/-- The guard's next refresh (R99): none when every live bank is at or below its target, `ahead` lower while a tick that it could not
answer is to come (R124), but never below -8. -/
def Vault.pick (v : Vault) (live : List Nat) (ahead : Int) : Option BankCmd :=
  match live.filter fun b => decide (max (-8) ((v.bank b).target - ahead) < (v.bank b).debt) with
  | [] => none
  | b :: _ => if live.any fun b => (v.bank b).debt == -8 then some (.ref b) else some .refAll

/-- Set the targets of every bank. -/
def Vault.aim (v : Vault) (live : List Nat) (f : Nat → Int) : Vault :=
  live.foldl (fun v b => v.onBank b fun k => { k with target := f b }) v

/-- The tick, next after a clock, that raises debts so shortly before a silence from the clock q on that the guard might not be able to
answer it; 0 for none.  DESIGN CHOICE (log 74): R124 asks for debts of -1 or below before the silence and does not say how; before such a
tick, one within two TRFCAB of the silence, the guard goes one refresh lower. -/
def edgeTick (T : Timing) (scls : BitVec 2) (now q : Nat) : Nat :=
  let e := (q - 1) / 1500 * 1500
  if now < e ∧ e ≤ now + 1500 ∧ tickRaises scls e = true ∧ q ≤ e + 2 * T.trfcab then e else 0
/-- How far below the targets the guard goes on a clock. -/
def aheadOf (edge now : Nat) : Int := if now < edge then 1 else 0

/-- G of R123 and R134: the vault clock after the guard's last refresh, from a clock `now` whose tick has been applied, a
first clock c for a refresh and a value g for when none is left, with a tick to be answered beforehand.  Ticks that fall meanwhile are
counted. -/
def Vault.guardEnd (T : Timing) (live : List Nat) (scls : BitVec 2) (edge : Nat) : Nat → Vault → Nat → Nat → Nat → Nat
  | 0, _, _, _, g => g
  | n + 1, v, now, c, g =>
      match v.pick live (aheadOf edge now) with
      | none => g
      | some r =>
          match earliest (v.rules T live r) c with
          | none => g
          | some e =>
              let tick := (now / 1500 + 1) * 1500
              if tick ≤ e then
                guardEnd T live scls edge n (v.accrue live scls tick) tick (if tickRaises scls tick then max c (tick + 1) else c) g
              else guardEnd T live scls edge n (v.issue live r e) e (e + 1) (e + 1)

def State.sclsOf (s : State) (cell : Nat) : BitVec 2 := (s.fieldAt (fieldOf cell)).scls
/-- The timing of the vault interface itself. -/
def fusedTiming : Timing := timingOf Config.fusedClassB

/-- The clock from which the guard and the untimed path are silent for an armed program (R102). -/
def Cell.silentFrom (k : Cell) : Option Nat := if k.seq.st = .armed then some (k.seq.startAt - 160) else none
def Cell.silentAt (k : Cell) (t : Nat) : Bool :=
  match k.silentFrom with
  | some q => decide (q ≤ t)
  | none => false

/-- The guard's next refresh on a clock. -/
def Cell.pickAt (k : Cell) (scls : BitVec 2) (t : Nat) : Option BankCmd :=
  k.vault.pick k.liveBanks (match k.silentFrom with
    | some q => aheadOf (edgeTick fusedTiming scls t q) t
    | none => 0)

/-- The guard and the untimed path act: no program owns the vault and no precharge of R128 is to come. -/
def Cell.pathFree (k : Cell) : Bool := !k.vault.owned && k.seq.precharge.isNone && !k.vifDead

def Cell.onVault (k : Cell) (f : Vault → Vault) : Cell := { k with vault := f k.vault }
def State.onVault (s : State) (cell : Nat) (f : Vault → Vault) : State := s.onCell cell fun k => k.onVault f

/-- One refresh of the guard, if one is due now (R99): not on the clock of a tick that raises debts. -/
def State.guard (s : State) (cell : Nat) : State :=
  let k := s.cellAt cell
  let t := s.vtime.toNat
  if k.pathFree && !k.silentAt t && !tickRaises (s.sclsOf cell) t then
    match k.pickAt (s.sclsOf cell) t with
    | some c => if brokenAt (k.vault.rules fusedTiming k.liveBanks c) t = 0 then s.onVault cell fun v => v.issue k.liveBanks c t else s
    | none => s
  else s

/-- The falling threshold of a class in 1/16 °C (Table 5-2). -/
def fallsBelow (scls : BitVec 2) : Option Int :=
  match scls.toNat with
  | 1 => some (16 * 80)
  | 2 => some (16 * 90)
  | _ => none

/-- The class of a field falls by one (R95). -/
def State.classFall (s : State) (f : Nat) : State :=
  let fl := s.fieldAt f
  match fallsBelow fl.scls with
  | some th =>
      if fl.estD < th ∧ fl.dflt = 0 ∧ fl.sclsSince + 2 ^ 20 ≤ s.vtime.toNat then
        s.setField f { fl with scls := fl.scls - 1, sclsSince := s.vtime.toNat }
      else s
  | none => s

/-- REFRESH_CLASS_FALL. -/
def execRefreshClassFall (f : Nat) (s : State) : Host.Outcome State Fault Refusal := run s fun m => m.on fun s => s.classFall f

/-! ### The untimed path -/

/-- Whether the chosen bytes of a write are whole aligned 8-byte words. -/
def wholeWords (off len : Nat) (mask : List Bool) : Bool :=
  let on (j : Nat) : Bool := j < len && mask.getD j mask.isEmpty
  (List.range len).all fun i => !on i || (List.range 8).all fun b =>
    let j := (off + i) / 8 * 8 + b
    decide (off ≤ j) && on (j - off)

/-- The column commands of an access (R101): whether it reads, whether it writes; none for an operation that has no business
in a vault. -/
def Op.columns (o : Op) (off len : Nat) : Bool × Bool :=
  match o with
  | .read => (true, false)
  | .write _ => (!wholeWords off len [], true)
  | .engWrite _ mask => (!wholeWords off len mask, true)
  | .atomic _ => (true, true)
  | _ => (false, false)

/-- An access of the untimed path that activates its row now: the timing it leaves and the clock its data is through.
DESIGN CHOICE (log 49): the write of a read-modify-write issues as soon as Table 6-5 allows after its read command; the
spec says only that the two are one access. -/
def Vault.untimed (v : Vault) (T : Timing) (live : List Nat) (b row : Nat) (cols : Bool × Bool) (t : Nat)
    (silent : Option Nat) : Option (Vault × Nat) :=
  if brokenAt (v.rules T live (.act b row)) t ≠ 0 then none
  else
    let v := v.issue live (.act b row) t
    let col (on : Bool) (c : BankCmd) (lat : Nat) (x : Vault × Nat × Nat) : Option (Vault × Nat × Nat) :=
      if on then (x.1.issueFrom T live c x.2.1).map fun (w, e) => (w, e, max x.2.2 (e + lat)) else some x
    match (col cols.1 (.rd b) (T.rl + 2) (v, t, t)).bind (col cols.2 (.wr b) (T.wl + 2)) with
    | none => none
    | some (v, e, ready) =>
        match v.issueFrom T live (.pre b) e with
        | none => none
        | some (v, p) =>
            match silent with
            | some q => if p < q then some (v, ready) else none
            | none => some (v, ready)

/-- The untimed path starts an access to a column now, if it may (R99, R101, R102); the clock its data is through.  A column
with a correctable error that the access reads is written back in the same access (R103). -/
def State.startColumn (s : State) (cell b row col : Nat) (cols : Bool × Bool) : Option (State × Nat) :=
  let k := s.cellAt cell
  let t := s.vtime.toNat
  if k.pathFree && !k.silentAt t && (k.pickAt (s.sclsOf cell) t).isNone then
    let fix := cols.1 && k.vault.flawed.contains (b, row, col)
    (k.vault.untimed fusedTiming k.liveBanks b row (cols.1, cols.2 || fix) t k.silentFrom).map fun (v, r) =>
      (s.setCell cell { k with vault := { v with flawed := if fix then v.flawed.filter fun e => e != (b, row, col) else v.flawed } }, r)
  else none
/-- The same at a vault offset. -/
def State.startUntimed (s : State) (cell off : Nat) (cols : Bool × Bool) : Option (State × Nat) :=
  ((s.cellAt cell).vplace off).bind fun e => s.startColumn cell e.1 e.2.2.1 e.2.1 cols

/-- Perform an access whole. -/
def M.performWhole : Nat → M → Acc → Place → M
  | 0, m, _, _ => m
  | n + 1, m, a, p =>
      match m.performAt a p with
      | (m, none) => m
      | (m, some a) => M.performWhole n m a p

/-- The field manager scrubs the first column with a correctable error that is still to be written back (R103). -/
def State.scrub (s : State) (cell : Nat) : State :=
  match (s.cellAt cell).vault.flawed with
  | (b, row, col) :: _ => ((s.startColumn cell b row col (true, true)).map fun e => e.1).getD s
  | [] => s

/-! ### Row remapping (R104) -/

/-- A cell whose configuration may change: every launch that holds it is pre-empted, its cells scanned and recorded (R47, R423). -/
def State.quiesced (s : State) (cell : Nat) : Bool := s.launches.all fun l => !l.2.cells.contains cell || l.2.snap

/-- The spare for a row: the first free one after the spare that serves it now. -/
def Vault.spareFor (v : Vault) (b row : Nat) : Option Nat :=
  let used (i : Nat) : Bool := (v.vrmap.get 0 (b * 128 + i)).getLsbD 15
  let now := (List.range 128).find? fun i => used i && fld (v.vrmap.get 0 (b * 128 + i)) 0 13 == row
  (List.range 128).find? fun i => !used i && (match now with
    | some j => decide (j < i)
    | none => true)

/-- The accesses of the untimed path that copy a row to another, column by column, each on the first clock that Table 6-5
allows: each column is read from the one row and written whole to the other. -/
def Vault.copyRow (v : Vault) (T : Timing) (live : List Nat) (b old new t : Nat) : Vault :=
  (List.range 16).foldl (fun v _ =>
    let acc (v : Vault) (row : Nat) (cols : Bool × Bool) : Vault :=
      match earliest (v.rules T live (.act b row)) t with
      | some e => ((v.untimed T live b row cols e none).map fun x => x.1).getD v
      | none => v
    acc (acc v old (true, false)) new (false, true)) v

end Sys2Proof.Machine
end

