-- ==== Sys2Proof/Machine/Sequencer.lean ====
section
/-! DEFINITION. Machine/Sequencer.lean: the vault sequencer (chapter 6): fetch and its checks (R108 to R113, R492), the
twelve entries (R114 to R122), deliveries and staging (R115, R116, R127), faults (R98, R128 to R133), DRUN, DSTOP and
DPOS (R123 to R125, R379 to R381), resumption (R134), refresh ticks (R96, R97) and the guard's take-over (R99, R102). -/
namespace Sys2Proof.Machine
open Sys2Proof

/-! ### The program -/

def State.onSeq (s : State) (cell : Nat) (f : Seq → Seq) : State := s.onCell cell fun k => { k with seq := f k.seq }
def M.onSeq (m : M) (cell : Nat) (f : Seq → Seq) : M := m.on fun s => s.onSeq cell f
def State.now (s : State) : Nat := s.vtime.toNat

/-- Fields of the header (Table 6-1). -/
def Seq.count (q : Seq) : Nat := fld q.header 32 12
def Seq.rcls (q : Seq) : Nat := fld q.header 54 2
/-- The timing a program is checked against (R109). -/
def Seq.timing (q : Seq) : Timing := timingOf (q.header.getLsbD 53)

/-- The word of an entry as TCM holds it now (R108).  DESIGN CHOICE (log 50): a poisoned word is taken at its value, here and
in `headerAt`; the spec does not say what a fetch of one does. -/
def State.entryWord (s : State) (cell i : Nat) : Word :=
  BitVec.ofNat 64 (s.numAt { r := .tcm cell, off := (s.cellAt cell).seq.image + 8 + 8 * i } 8)

/-- DELTA of an entry. -/
def deltaOf : Instr → Nat
  | .dact d _ _ _ => d.toNat
  | .drd d _ _ _ _ _ => d.toNat
  | .dwr d _ _ _ _ _ => d.toNat
  | .dpre d _ => d.toNat
  | .dprea d => d.toNat
  | .drefa d _ => d.toNat
  | .drefb d _ _ => d.toNat
  | .dwait d _ => d.toNat
  | .dchk d _ _ _ _ => d.toNat
  | .dsig d _ _ _ => d.toNat
  | .drpt d _ _ => d.toNat
  | .dend d => d.toNat
  | _ => 0

/-- DELTA of the next entry, fetched or not. -/
def State.nextDelta (s : State) (cell : Nat) : Nat :=
  let q := (s.cellAt cell).seq
  match q.fetched with
  | f :: _ => deltaOf f.entry
  | [] => fld (s.entryWord cell q.index.toNat) 48 12

/-! ### Stops (R128, R130, R132, R133) -/

/-- Rows of four banks as VSQROWL and VSQROWH hold them; a bank that the preamble has still to reopen keeps its own. -/
def seqRows (v : Vault) (pre : List Nat) (old : Word) (lo : Nat) : Word :=
  BitVec.ofNat 64 (packFields ((List.range 4).map fun i =>
    (match (v.bank (lo + i)).row with
     | some r => 2 ^ 15 + r
     | none => if pre.contains (lo + i) then fld old (16 * i) 16 else 0, 16 * i)))

/-- The guard takes over with every target 0 (R99). -/
def Cell.takeOver (k : Cell) : Cell :=
  { k with vault := { k.vault.aim k.liveBanks (fun _ => 0) with owned := false, dcls := 0 } }

/-- The program is suspended or stopped: position, rows and debts are recorded, open banks wait for their precharge, and
a fault is reported to the field manager and to the context that issued the DRUN. -/
def State.seqStop (s : State) (cell : Nat) (cause : Cause) (detail : Nat) (stopped : Bool) : State :=
  let k := s.cellAt cell
  let q := k.seq
  let v := k.vault
  let run := q.st == .running
  let open_ := run && k.liveBanks.any fun b => (v.bank b).row.isSome
  let rep : Report := { cause := cause, detail := BitVec.ofNat 8 detail, src := 4, tval := BitVec.ofNat 64 q.posn }
  let q' : Seq := { q with
    st := if stopped then .stopped else .suspended
    cause := cause, detail := BitVec.ofNat 8 detail
    rowl := if run then seqRows v q.pre q.rowl 0 else q.rowl
    rowh := if run then seqRows v q.pre q.rowh 4 else q.rowh
    debt := BitVec.ofNat 40 v.debtBits
    fetchNext := none, fetched := [], pre := [], precharge := if open_ then some s.now else none
    faultAt := if cause = 0 then q.faultAt else some s.now }
  let s := s.setCell cell ({ k with seq := q' } : Cell).takeOver
  if cause = 0 then s else ({ s with reports := s.reports ++ [(cell, q.owner, rep)] }).report cell q.owner rep

/-- A fault of the sequencer (Table 6-6). -/
def State.seqFault (s : State) (cell : Nat) (f : Cause × Nat) : State := s.seqStop cell f.1 f.2 (f.1 == cVFormat)

/-! ### The steps of one vault clock before the entries (R129) -/

/-- T0 is rebased so that entry INDEX issues at a given clock (R134 step 4). -/
def State.rebase (s : State) (cell te : Nat) : State :=
  let d := s.nextDelta cell
  s.onSeq cell fun q =>
    let r : Int := (te : Int) - d
    { q with ref := r, refb := r, t0 := BitVec.ofInt 64 r - q.elap, pre := [] }

/-- An armed program reaches its start: it owns the vault from this clock on (R102, R123, R134). -/
def State.seqStart (s : State) (cell : Nat) : State :=
  let k := s.cellAt cell
  let q := k.seq
  if q.st = .armed ∧ q.startAt ≤ s.now then
    let q' : Seq := { q with st := .running, ref := q.t0.toNat, refb := q.t0.toNat }
    let s := s.setCell cell { k with seq := q', vault := { k.vault.fresh with owned := true, dcls := BitVec.ofNat 2 q.rcls } }
    if q.resume && q.pre.isEmpty then s.rebase cell q.startAt else s
  else s

/-- The refresh tick, once on its clock (R96, R97). -/
def State.tick (s : State) (cell : Nat) : State :=
  let k := s.cellAt cell
  let t := s.now
  if t % 1500 = 0 ∧ k.vault.ticked ≠ some t then
    let v := { k.vault.accrue k.liveBanks (s.sclsOf cell) t with ticked := some t }
    let s := s.setCell cell { k with vault := v }
    if v.owned && tickRaises (s.sclsOf cell) t && k.liveBanks.any fun b => decide (8 < (v.bank b).debt) then
      s.seqFault cell (cDebt, 2)
    else s
  else s

/-- What a DSTOP does once it takes effect (R132, R381). -/
def State.stopNow (s : State) (cell : Nat) (end_ : Bool) : State :=
  let q := (s.cellAt cell).seq
  match q.st with
  | .armed => s.seqStop cell 0 0 end_
  | .running => if q.ended then s else s.seqStop cell 0 0 end_
  | .suspended => if end_ then s.onSeq cell fun q => { q with st := .stopped } else s
  | _ => s

/-- DSTOPs whose clock has come; none takes effect on the clock of a fault that came before it (R129). -/
def State.stopsDue (s : State) (cell : Nat) : State :=
  let q := (s.cellAt cell).seq
  let due := q.stops.filter fun e => decide (e.1 ≤ s.now)
  if due.isEmpty || q.faultAt == some s.now then s
  else due.foldl (fun s e => s.stopNow cell e.2)
    (s.onSeq cell fun q => { q with stops := q.stops.filter fun e => decide (s.now < e.1) })

/-- The row that VSQROWL or VSQROWH records for a bank. -/
def Seq.savedRow (q : Seq) (b : Nat) : Nat := fld (if b < 4 then q.rowl else q.rowh) (16 * (b % 4)) 13

/-- The next DACT of the preamble, on the first clock that Table 6-5 allows (R134 step 3). -/
def State.preamble (s : State) (cell : Nat) : State :=
  let k := s.cellAt cell
  let q := k.seq
  match q.st, q.pre with
  | .running, b :: rest =>
      let c := BankCmd.act b (q.savedRow b)
      if brokenAt (k.vault.rules q.timing k.liveBanks c) s.now = 0 then
        let s := s.setCell cell { k with vault := k.vault.issue k.liveBanks c s.now, seq := { q with pre := rest } }
        if rest.isEmpty then s.rebase cell (s.now + q.timing.tras) else s
      else s
  | _, _ => s

/-! ### Issue (R98, R111, R129) -/

/-- An entry at its issue time: thermal-refresh, then its own checks, else its effect; the next entry is known. -/
def M.entry (m : M) (cell : Nat) (i : Instr) (chk : State → Cell → Fetched → Option (Cause × Nat))
    (eff : M → Fetched → M) : M :=
  let k := m.s.cellAt cell
  let q := k.seq
  match q.fetched with
  | [] => m
  | f :: rest =>
      if q.st = .running ∧ q.pre = [] ∧ q.ended = false ∧ f.entry = i ∧ q.ref + deltaOf i ≤ (m.s.now : Int) then
        if q.rcls < (m.s.sclsOf cell).toNat then m.on fun s => s.seqFault cell (cThermal, 0)
        else
          match chk m.s k f with
          | some e => m.on fun s => s.seqFault cell e
          | none =>
              let t : Int := m.s.now
              eff (m.onSeq cell fun q =>
                { q with fetched := rest, ref := t, refb := t, elap := BitVec.ofInt 64 t - q.t0,
                         index := BitVec.ofNat 12 (f.index + 1), iter := BitVec.ofNat 32 f.iter }) f
      else m

/-- The check of a bank command against Table 6-5. -/
def timingCheck (s : State) (k : Cell) (c : BankCmd) : Option (Cause × Nat) :=
  match brokenAt (k.vault.rules k.seq.timing k.liveBanks c) s.now with
  | 0 => none
  | n => some (cVTiming, n)

/-- The bank command issues. -/
def M.bank (m : M) (cell : Nat) (c : BankCmd) : M :=
  let t := m.s.now
  m.on fun s => s.onCell cell fun k => k.onVault fun v => v.issue k.liveBanks c t

/-- A signed field times ITER. -/
def stepBy {n : Nat} (x : BitVec n) (it : Nat) : Int := x.toInt * it

/-- The effective offset of a target in 128-byte units (R113). -/
def tgtEffective (t : VTgt) (step : BitVec 11) (it : Nat) : Int :=
  (match t with
   | .loc o => (o.toNat : Int)
   | .csp o => (o.toNat : Int)
   | .rng _ _ _ o => (o.toNat : Int)
   | .opm tile o => ((tile.toNat * 64 + o.toNat : Nat) : Int)) + stepBy step it

/-- The ring a target names. -/
def tgtRing (t : VTgt) (cell : Nat) : Option RingRef :=
  match t with
  | .rng r _ _ _ => some (ringRef cell r.toNat)
  | _ => none

/-- Where a target is now (R69, R115). -/
def State.tgtPlace (s : State) (cell : Nat) (t : VTgt) (step : BitVec 11) (it : Nat) : Place :=
  let o := (tgtEffective t step it).toNat * 128
  match t with
  | .loc _ => { r := .tcm cell, off := o }
  | .csp _ => { r := .csp (clusterOf cell), off := o }
  | .rng r k _ _ => s.ringPlace (ringRef cell r.toNat) k.toInt o
  | .opm _ _ => { r := .opm cell, off := o }

/-- Whether the sequencer's accesses to a target's ring are held (R72). -/
def State.tgtHeld (s : State) (cell : Nat) (t : VTgt) : Bool :=
  match tgtRing t cell with
  | some r => s.ringHeld r (ringBitSeq r cell)
  | none => false

/-- The place of a column of a bank's open row (R91). -/
def Cell.column (k : Cell) (cell b col : Nat) : Place :=
  let row := ((k.vault.bank b).row).getD 0
  let pos := (k.vbanks.findIdx? fun x => x == b).getD 0
  { r := .vault cell, off := ((row * 16 + col) * k.vbanks.length + pos) * 128 }

/-- The effective column. -/
def colOf (col cinc : BitVec 4) (it : Nat) : Nat := (col.toNat + it * cinc.toNat) % 16

/-! ### Deliveries, signals, the end -/

/-- DSIGs whose deliveries are through: a semaphore release takes effect at once (R121, R148); an ended program with
nothing left is done (R122). -/
def State.seqSettle (s : State) (cell : Nat) : State :=
  let q := (s.cellAt cell).seq
  let s := q.dsigs.foldl (fun s e => match e.1, e.2.1 with
    | .dsig _ true idx n, 0 => s.onCell cell fun k => k.semRelease idx.toNat n.toNat
    | _, _ => s) s
  let s := s.onSeq cell fun q => { q with dsigs := q.dsigs.filter fun e => match e.1, e.2.1 with
    | .dsig _ true _ _, 0 => false
    | _, _ => true }
  s.onSeq cell fun q =>
    if q.ended && q.st == .running && q.dsigs.all (fun e => e.2.2 != q.prog) && q.elastic.all (fun d => d.prog != q.prog) then { q with st := .done } else q

/-- Room at a ring's barrier for one more arrival of the sequencer, counting its program's DSIGs on their way (R70, R121). -/
def State.sigRoom (s : State) (cell : Nat) (idx : BitVec 6) : Bool :=
  let r := ringRef cell idx.toNat
  let d := s.ringAt r
  let bit := ringBitSeq r cell
  let mine := (s.cellAt cell).seq.dsigs.filter fun e => match e.1 with
    | .dsig _ false j _ => j == idx && e.2.2 == (s.cellAt cell).seq.prog
    | _ => false
  !d.mask.getLsbD bit || decide ((if d.arr.getLsbD bit then 1 else 0) + (if d.pend.getLsbD bit then 1 else 0) + mine.length < 2)

/-- What is left of a delivery once its next unit has been written, if anything is: nothing moves while it is not due, its ring
holds it, or its tile is not FILLING.  Units of a local memory may be written in different steps (R62); a column of a tile goes
whole. -/
def M.deliverUnit (m : M) (cell : Nat) (d : Deliv) : Option (M × Option Deliv) :=
  if m.s.now < d.due then none
  else match d.entry with
    | .drd _ _ _ t step _ =>
        if m.s.tgtHeld cell t then none
        else
          let p := m.s.tgtPlace cell t step d.iter
          (match p.r with
           | .opm _ => (m.tileWrite cell p.off (0, 0) d.data).map fun m => (m, none)
           | _ =>
               let e := wordEnd p.off 128 (unitEnd d.fmode false p.off 128 d.done)
               some (m.engStore { p with off := p.off + d.done } ((d.data.drop d.done).take (e - d.done)),
                 if e < 128 then some { d with done := e } else none))
    | _ => some (m, none)

/-- The next unit of the first delivery: the sequencer's deliveries are performed in issue order (R115, R175). -/
def M.deliver (m : M) (cell : Nat) : M :=
  match (m.s.cellAt cell).seq.elastic with
  | [] => m
  | d :: rest =>
      match m.deliverUnit cell d with
      | none => m
      | some (m, some d) => m.onSeq cell fun q => { q with elastic := d :: rest }
      | some (m, none) =>
          (m.onSeq cell fun q => { q with
            elastic := rest
            dsigs := q.dsigs.map fun e => if e.2.2 = d.prog then (e.1, e.2.1 - 1, e.2.2) else e }).on fun s => s.seqSettle cell

/-- VAULT_DELIVERY. -/
def execVaultDelivery (cell : Nat) (s : State) : Host.Outcome State Fault Refusal := run s fun m => m.deliver cell

/-- The first fetched DWR that is not staged, with no DRD of its program before it still to be performed: its position. -/
def Seq.toStage (q : Seq) : Option Nat :=
  if q.elastic.any fun d => d.prog == q.prog then none
  else (q.fetched.findIdx? fun f => match f.entry with
    | .drd .. => true
    | .dwr .. => f.staged.isNone
    | _ => false).bind fun n => match q.fetched[n]? with
      | some f => (match f.entry with
          | .dwr .. => some n
          | _ => none)
      | none => none

/-- DWR_STAGING: a column is reserved when staging begins, and the next unit of the source is read unless its ring holds it
(R62, R116, R127). -/
def execDwrStaging (cell : Nat) (s : State) : Host.Outcome State Fault Refusal :=
  run s fun m => m.on fun s =>
    let k := s.cellAt cell
    let q := k.seq
    match q.toStage with
    | none => s
    | some n =>
        match q.fetched[n]? with
        | none => s
        | some f =>
            if !f.began && decide (64 ≤ q.ebuf s.now) then s
            else
              match f.entry with
              | .dwr _ _ _ t step _ =>
                  let f := if f.began then f else { f with began := true, fmode := k.atom }
                  let p := s.tgtPlace cell t step f.iter
                  let done := f.got.length
                  let got := if s.tgtHeld cell t then f.got
                    else f.got ++ s.bytesAt { p with off := p.off + done } (unitEnd f.fmode false p.off 128 done - done)
                  let f := { f with got := got, staged := if got.length = 128 then some got else none }
                  s.onSeq cell fun q => { q with fetched := q.fetched.set n f }
              | _ => s

/-! ### The entries (R114 to R122) -/

def M.dact (m : M) (cell : Nat) (d : BitVec 12) (bank : BitVec 3) (row : BitVec 13) (rinc : BitVec 8) : M :=
  let c (f : Fetched) := BankCmd.act bank.toNat ((row.toNat : Int) + stepBy rinc f.iter).toNat
  m.entry cell (.dact d bank row rinc) (fun s k f => timingCheck s k (c f)) fun m f => m.bank cell (c f)

def M.drd (m : M) (cell : Nat) (d : BitVec 12) (bank : BitVec 3) (col : BitVec 4) (t : VTgt) (step : BitVec 11) (cinc : BitVec 4) : M :=
  let i := Instr.drd d bank col t step cinc
  m.entry cell i
    (fun s k _ => (timingCheck s k (.rd bank.toNat)).orElse fun _ => if 64 ≤ k.seq.ebuf s.now then some (cOverrun, 1) else none)
    fun m f =>
      let k := m.s.cellAt cell
      let data := m.s.bytesAt (k.column cell bank.toNat (colOf col cinc f.iter)) 128
      let due := m.s.now + k.seq.timing.rl + 2
      (m.bank cell (.rd bank.toNat)).onSeq cell fun q =>
        { q with elastic := q.elastic ++ [{ entry := i, iter := f.iter, due := due, data := data, prog := q.prog, fmode := k.atom }] }

def M.dwr (m : M) (cell : Nat) (d : BitVec 12) (bank : BitVec 3) (col : BitVec 4) (t : VTgt) (step : BitVec 11) (cinc : BitVec 4) : M :=
  m.entry cell (Instr.dwr d bank col t step cinc)
    (fun s k f => (timingCheck s k (.wr bank.toNat)).orElse fun _ => if f.staged.isNone then some (cOverrun, 2) else none)
    fun m f =>
      let k := m.s.cellAt cell
      let t := m.s.now
      let m := m.write (m.s.writeOps (k.column cell bank.toNat (colOf col cinc f.iter)) (f.staged.getD []))
      (m.bank cell (.wr bank.toNat)).onSeq cell fun q =>
        { q with writes := (q.writes.filter fun w => decide (t < w)) ++ [t + q.timing.wl + 2] }

def M.dpre (m : M) (cell : Nat) (d : BitVec 12) (bank : BitVec 3) : M :=
  m.entry cell (.dpre d bank) (fun s k _ => timingCheck s k (.pre bank.toNat)) fun m _ => m.bank cell (.pre bank.toNat)
def M.dprea (m : M) (cell : Nat) (d : BitVec 12) : M :=
  m.entry cell (.dprea d) (fun s k _ => timingCheck s k .preAll) fun m _ => m.bank cell .preAll

/-- The lowest debt that a refresh meets. -/
def Cell.lowDebt (k : Cell) (bank : Option Nat) : Int :=
  match bank with
  | some b => (k.vault.bank b).debt
  | none => k.liveBanks.foldl (fun r b => min r (k.vault.bank b).debt) 9

/-- A refresh, or a skipped one, which holds the bus for its clock only (R97, R117). -/
def M.refresh (m : M) (cell : Nat) (i : Instr) (bank : Option Nat) (th : Option (BitVec 4)) : M :=
  let c := match bank with
    | some b => BankCmd.ref b
    | none => BankCmd.refAll
  m.entry cell i
    (fun s k _ => if th.isNone && decide (k.lowDebt bank ≤ -8) then some (cDebt, 1) else timingCheck s k c)
    fun m _ =>
      let k := m.s.cellAt cell
      let doIt := match th with
        | some v => decide (v.toInt < k.lowDebt bank)
        | none => true
      if doIt then m.bank cell c
      else
        let t := m.s.now
        m.on fun s => s.onVault cell fun v => { v with last := some t }

def M.drefa (m : M) (cell : Nat) (d : BitVec 12) (th : Option (BitVec 4)) : M := m.refresh cell (.drefa d th) none th
def M.drefb (m : M) (cell : Nat) (d : BitVec 12) (bank : BitVec 3) (th : Option (BitVec 4)) : M :=
  m.refresh cell (.drefb d bank th) (some bank.toNat) th

def M.dwait (m : M) (cell : Nat) (d : BitVec 12) (count : BitVec 32) : M :=
  m.entry cell (.dwait d count) (fun _ _ _ => none) fun m _ => m.onSeq cell fun q => { q with ref := q.ref + count.toNat }

/-- The generation of a ring that a sequencer sees: a rotation shows 3 vault clocks after the edge that ends its core cycle (R73). -/
def Ring.genSeen (r : Ring) (t : Nat) : BitVec 32 :=
  r.gen - BitVec.ofNat 32 ((r.seenAt.filter fun e => decide (t < e)).length + if r.turned then 1 else 0)
/-- The condition of a DCHK (R119).  DESIGN CHOICE (log 75): a semaphore and a sync word are seen at once, a rotation at the last clock that
R73 allows, as R473 counts it. -/
def State.dchkHolds (s : State) (cell : Nat) (kind : ChkKind) (idx : BitVec 6) (ginc : BitVec 8) (value : BitVec 32) (it : Nat) : Bool :=
  let v := (value.toNat + it * ginc.toNat) % 2 ^ 32
  let k := s.cellAt cell
  match kind with
  | .sem => decide (v ≤ (k.sem.get 0 idx.toNat).toNat)
  | .ring => reached ((s.ringAt (ringRef cell idx.toNat)).genSeen s.now).toNat v
  | .sync =>
      let w := k.vsw.get 0 idx.toNat
      reached (s.syncGen { r := if fld w 61 3 = 1 then .tcm cell else .csp (clusterOf cell), off := fld w 0 21 }) v

def M.dchk (m : M) (cell : Nat) (d : BitVec 12) (kind : ChkKind) (idx : BitVec 6) (ginc : BitVec 8) (value : BitVec 32) : M :=
  m.entry cell (.dchk d kind idx ginc value)
    (fun s _ f => if s.dchkHolds cell kind idx ginc value f.iter then none else some (cVDep, 1)) fun m _ => m

def M.dsig (m : M) (cell : Nat) (d : BitVec 12) (sem : Bool) (idx : BitVec 6) (n : BitVec 32) : M :=
  m.entry cell (.dsig d sem idx n)
    (fun s _ _ => if sem || s.sigRoom cell idx then none else some (cVDep, 2))
    fun m _ => (m.onSeq cell fun q =>
      { q with dsigs := q.dsigs ++ [(.dsig d sem idx n, (q.elastic.filter fun e => e.prog == q.prog).length, q.prog)] }).on
        fun s => s.seqSettle cell

def M.drpt (m : M) (cell : Nat) (d back : BitVec 12) (count : BitVec 32) : M :=
  m.entry cell (.drpt d back count) (fun _ _ _ => none) fun m f => m.onSeq cell fun q =>
    if f.iter + 1 < count.toNat then
      { q with index := BitVec.ofNat 12 (f.index - back.toNat), iter := BitVec.ofNat 32 (f.iter + 1) }
    else { q with index := BitVec.ofNat 12 (f.index + 1), iter := 0 }

/-- DEND: ownership ends on its clock; INDEX keeps naming it. -/
def M.dend (m : M) (cell : Nat) (d : BitVec 12) : M :=
  m.entry cell (.dend d)
    (fun _ k _ => match k.vault.endRule k.liveBanks with
      | 0 => none
      | n => some (cVTiming, n))
    fun m f => m.on fun s =>
      (s.onCell cell fun k => ({ k with seq := { k.seq with ended := true, index := BitVec.ofNat 12 f.index, fetchNext := none } } : Cell).takeOver).seqSettle
        cell

/-- An entry by name. -/
def M.issueEntry (m : M) (cell : Nat) (i : Instr) : M :=
  match i with
  | .dact d b r n => m.dact cell d b r n
  | .drd d b c t s n => m.drd cell d b c t s n
  | .dwr d b c t s n => m.dwr cell d b c t s n
  | .dpre d b => m.dpre cell d b
  | .dprea d => m.dprea cell d
  | .drefa d t => m.drefa cell d t
  | .drefb d b t => m.drefb cell d b t
  | .dwait d n => m.dwait cell d n
  | .dchk d k i g v => m.dchk cell d k i g v
  | .dsig d s i n => m.dsig cell d s i n
  | .drpt d b n => m.drpt cell d b n
  | .dend d => m.dend cell d
  | _ => m

/-- The entries due on this clock; one not fetched by its issue time is a fault (R492). -/
def M.entriesDue : Nat → M → Nat → M
  | 0, m, _ => m
  | n + 1, m, cell =>
      let q := (m.s.cellAt cell).seq
      if q.st = .running ∧ q.pre = [] ∧ q.ended = false ∧ q.ref + m.s.nextDelta cell ≤ (m.s.now : Int) then
        match q.fetched with
        | f :: _ => M.entriesDue n (m.issueEntry cell f.entry) cell
        | [] =>
            if q.fetchNext.isNone then m
            else if q.rcls < (m.s.sclsOf cell).toNat then m.on fun s => s.seqFault cell (cThermal, 0)
            else m.on fun s => s.seqFault cell (cVDep, 3)
      else m

/-! ### DRUN, DSTOP, DPOS at the sequencer -/

/-- The forms of DRUN: whether it resumes, whether it names INDEX and ITER, whether its start is absolute. -/
def drunForm : Instr → Option (Bool × Bool × Bool)
  | .drun _ => some (false, false, true)
  | .drunRel _ => some (false, false, false)
  | .drunRes _ => some (true, false, false)
  | .drunResp _ => some (true, true, false)
  | _ => none

/-- Whether a range of TCM lies in the code region of a cell (R59). -/
def State.inCodeRegion (s : State) (cell off len : Nat) : Bool :=
  let k := s.cellAt cell
  k.whollyCode off len && decide (off + len ≤ s.tcmBytes cell)

/-- The header of an image. -/
def State.headerAt (s : State) (cell off : Nat) : Word := BitVec.ofNat 64 (s.numAt { r := .tcm cell, off := off } 8)

/-- R109 and R94. -/
def headerOk (h : Word) : Bool :=
  fld h 56 8 == 1 && fld h 54 2 != 3 && fld h 44 9 == 0 && fld h 32 12 != 0 && fld h 0 32 == 0 && (h.getLsbD 53 || !Config.fusedClassB)

/-- G for targets, from this clock on (R123, R134).  DEDUCED (log 51): it also lies after every command of an untimed access in
flight, since none may issue at or after the start minus 160 (R102); `quiet` gives the clock from which the guard is to be silent, for a
G, whose ticks it must answer beforehand (R124). -/
def State.guardClear (s : State) (cell : Nat) (aim : Nat → Int) (quiet : Nat → Nat) : Nat :=
  let k := s.cellAt cell
  let t := s.now
  let v := k.vault.aim k.liveBanks aim
  let v := match k.seq.precharge with
    | some f => (match v.issueFrom k.seq.timing k.liveBanks .preAll (f + 1) with
        | some (w, _) => w
        | none => v)
    | none => v
  let c := if tickRaises (s.sclsOf cell) t then t + 1 else t
  let g (edge : Nat) : Nat := Vault.guardEnd fusedTiming k.liveBanks (s.sclsOf cell) edge 256 v t c (max t (since v.last 1))
  match edgeTick fusedTiming (s.sclsOf cell) (g 0) (quiet (g 0)) with
  | 0 => g 0
  | e => g e

/-- The targets of a start and of a resume (R124, R134 step 1). -/
def Seq.aim (q : Seq) (resume : Bool) (b : Nat) : Int :=
  if resume then max (-8) (min (-1) (sfld q.debt (5 * b) 5 - 1)) else -1

/-- The code with which a DRUN is refused, 0 when it is accepted (R380), lowest code first. -/
def State.drunCode (s : State) (cell : Nat) (c : Cmd) (form : Bool × Bool × Bool) : Nat :=
  let k := s.cellAt cell
  let q := k.seq
  let off := fld c.a.v 0 32
  let here := fld c.a.v 61 3 == 1 && fld c.a.v 32 29 == 0 && off % 8 == 0 && s.inCodeRegion cell off 8
  let h := s.headerAt cell off
  let busy := match q.st with
    | .armed => true
    | .running => true
    | .suspended => true
    | _ => false
  if (if form.1 then q.st != .suspended else busy) then 1
  else if !here || (headerOk h && !s.inCodeRegion cell off (8 + 8 * fld h 32 12)) then 2
  else if !headerOk h then 3
  else if k.dead || k.vifDead then 4
  else if form.2.2 then (if c.b.v.toNat < s.guardClear cell (q.aim false) (fun _ => c.b.v.toNat - 160) + 160 then 5 else 0)
  else if 2 ^ 32 ≤ c.b.v.toNat ∨ (form.2.1 ∧ (fld c.c.v 44 20 ≠ 0 ∨ fld h 32 12 ≤ fld c.c.v 32 12)) then 6
  else 0

/-- The banks with O = 1, in ascending order. -/
def Seq.openRows (q : Seq) : List Nat := (List.range 8).filter fun b => (if b < 4 then q.rowl else q.rowh).getLsbD (16 * (b % 4) + 15)

/-- A DRUN is accepted: the program is armed (R123, R134). -/
def State.arm (s : State) (cell : Nat) (c : Cmd) (form : Bool × Bool × Bool) : State :=
  let k := s.cellAt cell
  let q := k.seq
  let off := fld c.a.v 0 32
  let aim := q.aim form.1
  let start := if form.2.2 then c.b.v.toNat else s.guardClear cell aim (fun g => g + c.b.v.toNat) + 160 + c.b.v.toNat
  let index := if form.2.1 then c.c.v.extractLsb' 32 12 else if form.1 then q.index else 0
  let iter := if form.2.1 then c.c.v.extractLsb' 0 32 else if form.1 then q.iter else 0
  let q' : Seq := { q with
    st := .armed, image := off, header := s.headerAt cell off, owner := c.x, index := index, iter := iter
    elap := if form.1 then q.elap else 0
    t0 := if form.1 then q.t0 else BitVec.ofNat 64 start
    rowl := if form.1 then q.rowl else 0
    rowh := if form.1 then q.rowh else 0
    startAt := start, resume := form.1, pre := if form.1 then q.openRows else [], ended := false
    fetchNext := some (index.toNat, iter.toNat), fetched := []
    prog := if form.1 then q.prog else q.prog + 1 }
  s.setCell cell { k with seq := q', vault := k.vault.aim k.liveBanks aim }

/-- One command of a block at the sequencer (R379 to R381). -/
def State.vaultCommand (s : State) (cell : Nat) (c : Cmd) : State :=
  let q := (s.cellAt cell).seq
  let land (s : State) (v : Nat) : State := s.onCtx cell c.x fun x => x.result c.id { v := BitVec.ofNat 64 v }
  let stop (end_ : Bool) : State :=
    match q.st with
    | .idle => s
    | .done => s
    | .stopped => s
    | _ => if q.ended then s else s.onSeq cell fun q => { q with stops := q.stops ++ [(s.now + 2, end_)] }
  match c.i with
  | .dstop _ => stop false
  | .dstopEnd _ => stop true
  | .dpos _ => land s (packFields [(seqCode q.st, 48), (q.index.toNat, 32), (q.iter.toNat, 0)])
  | .dposElap _ => land s q.elap.toNat
  | .dposT0 _ => land s q.t0.toNat
  | i =>
      match drunForm i with
      | some f =>
          let code := s.drunCode cell c f
          land (if code = 0 then s.arm cell c f else s) code
      | none => s

/-- The commands whose clock has come, in order; one whose block commits in the present core cycle has none yet (R379). -/
def State.commandsDue (s : State) (cell : Nat) : State :=
  let due := (s.cellAt cell).seq.cmds.filter fun c => decide (c.len ≠ 0 ∧ c.len ≤ s.now)
  if due.isEmpty then s
  else due.foldl (fun s c => s.vaultCommand cell c)
    (s.onSeq cell fun q => { q with cmds := q.cmds.filter fun c => decide (c.len = 0 ∨ s.now < c.len) })

/-- A sequencer at the gate: what its clock does before a pre-emption (R129), then commands and stops sent to it are performed, then it
is suspended (R132, R430). -/
def State.gateSeq (s : State) (cell : Nat) : State :=
  let s := ((s.seqStart cell).tick cell).stopsDue cell
  let q := (s.cellAt cell).seq
  let s := s.onSeq cell fun q => { q with cmds := [] }
  let s := q.cmds.foldl (fun s c => s.vaultCommand cell c) s
  let stops := (s.cellAt cell).seq.stops
  let s := s.onSeq cell fun q => { q with stops := [] }
  (stops.foldl (fun s e => s.stopNow cell e.2) s).stopNow cell false

/-- The precharge after a fault, on the first clock after it that Table 6-5 allows (R128). -/
def State.prechargeDue (s : State) (cell : Nat) : State :=
  let k := s.cellAt cell
  match k.seq.precharge with
  | some f =>
      if f < s.now ∧ brokenAt (k.vault.rules k.seq.timing k.liveBanks .preAll) s.now = 0 then
        s.setCell cell { k with vault := k.vault.issue k.liveBanks .preAll s.now, seq := { k.seq with precharge := none } }
      else s
  | none => s

/-! ### One vault clock, in the order of R129; each event brings what precedes it forward -/

/-- Start, tick, DSTOP. -/
def M.clockTo (m : M) (cell : Nat) : M := m.on fun s => ((s.seqStart cell).tick cell).stopsDue cell
/-- Also the preamble and the entries due. -/
def M.clockEntries (m : M) (cell : Nat) : M := ((m.clockTo cell).on fun s => s.preamble cell).entriesDue 64 cell
/-- All that a vault and its sequencer do on the present vault clock. -/
def M.vaultWork (m : M) (cell : Nat) : M :=
  (m.clockEntries cell).on fun s => ((s.commandsDue cell).prechargeDue cell).guard cell

/-- PROGRAM_START. -/
def execProgramStart (cell : Nat) (s : State) : Host.Outcome State Fault Refusal :=
  run s fun m => m.on fun s => if (s.cellAt cell).seq.resume then s else s.seqStart cell
/-- REFRESH_TICK. -/
def execRefreshTick (cell : Nat) (s : State) : Host.Outcome State Fault Refusal :=
  run s fun m => m.on fun s => (s.seqStart cell).tick cell
/-- DSTOP_EFFECT. -/
def execDstopEffect (cell : Nat) (s : State) : Host.Outcome State Fault Refusal := run s fun m => m.clockTo cell
/-- RESUME_PREAMBLE. -/
def execResumePreamble (cell : Nat) (s : State) : Host.Outcome State Fault Refusal :=
  run s fun m => (m.clockTo cell).on fun s => s.preamble cell
/-- DRUN_ACCEPT: the commands of blocks that have reached the sequencer, after the steps of R129. -/
def execDrunAccept (cell : Nat) (s : State) : Host.Outcome State Fault Refusal :=
  run s fun m => (m.clockEntries cell).on fun s => s.commandsDue cell
/-- FAULT_PRECHARGE. -/
def execFaultPrecharge (cell : Nat) (s : State) : Host.Outcome State Fault Refusal :=
  run s fun m => (m.clockEntries cell).on fun s => (s.commandsDue cell).prechargeDue cell
/-- GUARD_REFRESH. -/
def execGuardRefresh (cell : Nat) (s : State) : Host.Outcome State Fault Refusal := run s fun m => m.vaultWork cell

/-- An `entry` move: what precedes the entry on its clock, then the entry. -/
def vaultEntry (s : State) (f : Nat → M → M) : Host.Outcome State Fault Refusal :=
  let cell := s.cur.cell
  run s fun m => f cell ((m.clockTo cell).on fun s => s.preamble cell)

def execDact (d : BitVec 12) (bank : BitVec 3) (row : BitVec 13) (rinc : BitVec 8) (s : State) : Host.Outcome State Fault Refusal :=
  vaultEntry s fun cell m => m.dact cell d bank row rinc
def execDrd (d : BitVec 12) (bank : BitVec 3) (col : BitVec 4) (t : VTgt) (step : BitVec 11) (cinc : BitVec 4) (s : State) :
    Host.Outcome State Fault Refusal := vaultEntry s fun cell m => m.drd cell d bank col t step cinc
def execDwr (d : BitVec 12) (bank : BitVec 3) (col : BitVec 4) (t : VTgt) (step : BitVec 11) (cinc : BitVec 4) (s : State) :
    Host.Outcome State Fault Refusal := vaultEntry s fun cell m => m.dwr cell d bank col t step cinc
def execDpre (d : BitVec 12) (bank : BitVec 3) (s : State) : Host.Outcome State Fault Refusal :=
  vaultEntry s fun cell m => m.dpre cell d bank
def execDprea (d : BitVec 12) (s : State) : Host.Outcome State Fault Refusal := vaultEntry s fun cell m => m.dprea cell d
def execDrefa (d : BitVec 12) (th : Option (BitVec 4)) (s : State) : Host.Outcome State Fault Refusal :=
  vaultEntry s fun cell m => m.drefa cell d th
def execDrefb (d : BitVec 12) (bank : BitVec 3) (th : Option (BitVec 4)) (s : State) : Host.Outcome State Fault Refusal :=
  vaultEntry s fun cell m => m.drefb cell d bank th
def execDwait (d : BitVec 12) (count : BitVec 32) (s : State) : Host.Outcome State Fault Refusal :=
  vaultEntry s fun cell m => m.dwait cell d count
def execDchk (d : BitVec 12) (kind : ChkKind) (idx : BitVec 6) (ginc : BitVec 8) (value : BitVec 32) (s : State) :
    Host.Outcome State Fault Refusal := vaultEntry s fun cell m => m.dchk cell d kind idx ginc value
def execDsig (d : BitVec 12) (sem : Bool) (idx : BitVec 6) (n : BitVec 32) (s : State) : Host.Outcome State Fault Refusal :=
  vaultEntry s fun cell m => m.dsig cell d sem idx n
def execDrpt (d back : BitVec 12) (count : BitVec 32) (s : State) : Host.Outcome State Fault Refusal :=
  vaultEntry s fun cell m => m.drpt cell d back count
def execDend (d : BitVec 12) (s : State) : Host.Outcome State Fault Refusal := vaultEntry s fun cell m => m.dend cell d

/-! ### Fetch (R108 to R113, R120, R492) -/

/-- A ring that is configured. -/
def State.ringOk (s : State) (cell n : Nat) : Bool := decide (n < 20) && (s.ringAt (ringRef cell n)).valid

/-- The limits of Table 6-4 on an effective target. -/
def State.tgtOk (s : State) (cell : Nat) (t : VTgt) (step : BitVec 11) (it : Nat) (isRead : Bool) : Bool :=
  let e := tgtEffective t step it
  let o := e.toNat * 128
  decide (0 ≤ e) && match t with
  | .loc _ => decide (o < s.tcmBytes cell) && !(isRead && (s.cellAt cell).inCode o 128)
  | .csp _ => decide (o < s.cspBytes (clusterOf cell))
  | .rng r k c _ =>
      let d := s.ringAt (ringRef cell r.toNat)
      s.ringOk cell r.toNat && decide (128 ≤ d.slotSize) && d.inWindow c k.toInt && decide (o < d.slotSize)
  | .opm _ _ => decide (e < 2048)

/-- Whether a row of a bank holds a byte of a bound cache range (R84). -/
def State.rowBound (s : State) (cell row : Nat) : Bool :=
  let f := fieldOf cell
  let l := (s.cellAt cell).vbanks.length
  (List.range 8).any fun i =>
    let e := (s.fieldAt f).fcb.get 0 i
    e.getLsbD 63 && fld e 48 8 == cell % 192 && decide (fld e 16 11 * 65536 < (row + 1) * l * 2048) &&
      decide (row * l * 2048 < (fld e 16 11 + fld e 32 11) * 65536)

/-- The checks of Tables 6-3 and 6-4 that depend on the machine and on ITER: DETAIL, 0 when they hold.  DESIGN CHOICE (log 50):
the body of a loop is judged as TCM holds it when its DRPT is fetched. -/
def State.entryDetail (s : State) (cell i it : Nat) (e : Instr) : Nat :=
  let k := s.cellAt cell
  let live (b : BitVec 3) : Bool := k.vltLive.getLsbD b.toNat
  let limit (ok : Bool) : Nat := if ok then 0 else 3
  match e with
  | .dact _ b row rinc =>
      let r := (row.toNat : Int) + stepBy rinc it
      limit (live b && decide (0 ≤ r) && decide (r < k.progRows) && !s.rowBound cell r.toNat)
  | .drd _ b _ t step _ => limit (live b && s.tgtOk cell t step it true)
  | .dwr _ b _ t step _ => limit (live b && s.tgtOk cell t step it false)
  | .dpre _ b => limit (live b)
  | .drefb _ b _ => limit (live b)
  | .dchk _ .ring n _ _ => limit (s.ringOk cell n.toNat)
  | .dchk _ .sync n _ _ => limit (decide (n.toNat < 8) && (fld (k.vsw.get 0 n.toNat) 61 3 == 1 || fld (k.vsw.get 0 n.toNat) 61 3 == 2))
  | .dsig _ false n _ => limit (s.ringOk cell n.toNat)
  | .drpt _ back _ =>
      if i < back.toNat then 3
      else if (List.range back.toNat).any fun j =>
        let c := fld (s.entryWord cell (i - 1 - j)) 60 4
        c == 10 || c == 11 then 5
      else 0
  | _ => 0

/-- Where the fetch goes after an entry: nowhere after DEND, and whether a back edge ends the yield (R120, R492). -/
def fetchAfter (i it : Nat) (e : Instr) : Option (Nat × Nat) × Bool :=
  match e with
  | .dend _ => (none, true)
  | .drpt _ back count =>
      if it + 1 < count.toNat then (some (i - back.toNat, it + 1), true) else (some (i + 1, 0), false)
  | _ => (some (i + 1, it), false)

/-- Take entries of one line, each checked, up to 16 ahead. -/
def State.fetchLine : Nat → State → Nat → Nat → State
  | 0, s, _, _ => s
  | n + 1, s, cell, line =>
      let q := (s.cellAt cell).seq
      match q.fetchNext with
      | none => s
      | some (i, it) =>
          if 16 ≤ q.fetched.length ∨ (q.image + 8 + 8 * i) / 64 ≠ line then s
          else if q.count ≤ i then s.seqFault cell (cVFormat, 6)
          else
            match decodeVault (s.entryWord cell i) with
            | .error d => s.seqFault cell (cVFormat, d)
            | .ok e =>
                match s.entryDetail cell i it e with
                | 0 =>
                    let (next, stop) := fetchAfter i it e
                    let s := s.onSeq cell fun q =>
                      { q with fetched := q.fetched ++ [{ index := i, iter := it, entry := e }], fetchNext := next }
                    if stop then s else State.fetchLine n s cell line
                | d => s.seqFault cell (cVFormat, d)

/-- SEQ_FETCH: the line that holds the next entry not yet fetched. -/
def execSeqFetch (cell : Nat) (s : State) : Host.Outcome State Fault Refusal :=
  run s fun m => m.on fun s =>
    let q := (s.cellAt cell).seq
    match q.fetchNext with
    | some (i, _) => s.fetchLine 8 cell ((q.image + 8 + 8 * i) / 64)
    | none => s

end Sys2Proof.Machine
end

