-- ==== Sys2Proof/Machine/Txe.lean ====
section
/-! DEFINITION. Machine/Txe.lean: transfer-engine instructions as a block fires them (R367), the TXE that runs their
commands (R366 to R373), and the answers of its accesses. -/
namespace Sys2Proof.Machine
open Sys2Proof

/-! ### Firing -/

/-- A moving command: a poisoned address port or command word faults; a pattern is data (R367). -/
def fireT (i : Instr) (pattern : Bool) (s : State) : Host.Outcome State Fault Refusal :=
  fireS i (fun e m =>
    match ((if pattern then [] else [PortId.a]) ++ [PortId.b, PortId.hi]).find? fun q => (e.tok q).poi with
    | some q => (m, effFault cPoison (e.tok q).v)
    | none => e.engine i m) s
def execXcpy (h : Hdr) (seq : BitVec 5) (s : State) : Host.Outcome State Fault Refusal := fireT (.xcpy h seq) false s
def execXc2d (h : Hdr) (seq : BitVec 5) (sp dp : BitVec 10) (s : State) : Host.Outcome State Fault Refusal :=
  fireT (.xc2d h seq sp dp) false s
def execXgath (h : Hdr) (seq : BitVec 5) (cntm1 : BitVec 16) (s : State) : Host.Outcome State Fault Refusal :=
  fireT (.xgath h seq cntm1) false s
def execXscat (h : Hdr) (seq : BitVec 5) (cntm1 : BitVec 16) (s : State) : Host.Outcome State Fault Refusal :=
  fireT (.xscat h seq cntm1) false s
def execXfill (h : Hdr) (seq : BitVec 5) (s : State) : Host.Outcome State Fault Refusal := fireT (.xfill h seq) true s
def execXarr (h : Hdr) (seq ring : BitVec 5) (s : State) : Host.Outcome State Fault Refusal :=
  fireS (.xarr h seq ring) (fun e m => e.engine (.xarr h seq ring) m) s
def execXqry (h : Hdr) (seq : BitVec 5) (s : State) : Host.Outcome State Fault Refusal :=
  fireS (.xqry h seq) (fun e m => e.engine (.xqry h seq) m) s

/-! ### The command word (Table 16-2) -/

/-- Why a command is refused or stops: code, cause, TVAL when the spec gives one. -/
abbrev TxErr := Nat × Cause × Option Word

def Cmd.txLen (c : Cmd) : Nat := fld c.hi.v 0 28
/-- The semaphore released on completion, and the ring arrived at. -/
def Cmd.txSem (c : Cmd) : Option Nat := if c.hi.v.getLsbD 40 then some (fld c.hi.v 34 6) else none
def Cmd.txRing (c : Cmd) : Option Nat :=
  match c.i with
  | .xarr _ _ r => some r.toNat
  | _ => if c.hi.v.getLsbD 33 then some (fld c.hi.v 28 5) else none
/-- The offset of the sync word in units of 16 bytes. -/
def Cmd.txSync (c : Cmd) : Option Nat := if c.hi.v.getLsbD 61 then some (fld c.hi.v 44 17) else none

/-- Elements or rows of a command, and the bytes of each. -/
def Cmd.txElems (c : Cmd) : Nat × Nat :=
  match c.i with
  | .xc2d .. => (fld c.hi.v 14 14 + 1, fld c.hi.v 0 14)
  | .xgath _ _ n => (n.toNat + 1, c.txLen)
  | .xscat _ _ n => (n.toNat + 1, c.txLen)
  | _ => (1, c.txLen)
/-- The list of XGATH or XSCAT. -/
def Cmd.txList (c : Cmd) : Option Word :=
  match c.i with
  | .xgath .. => some c.a.v
  | .xscat .. => some c.b.v
  | _ => none
/-- Where element or row e reads and writes; `x` is the list entry. -/
def Cmd.txEnds (c : Cmd) (e : Nat) (x : Word) : Option Word × Word :=
  let n := c.txElems.2
  let at_ (a : Word) (k : Nat) : Word := a + BitVec.ofNat 64 k
  match c.i with
  | .xc2d _ _ sp dp => (some (at_ c.a.v (e * sp.toNat * 64)), at_ c.b.v (e * dp.toNat * 64))
  | .xgath .. => (some x, at_ c.b.v (e * n))
  | .xscat .. => (some (at_ c.a.v (e * n)), x)
  | .xfill .. => (none, c.b.v)
  | _ => (some c.a.v, c.b.v)

/-- A field out of range (code 7). -/
def Cmd.txBadField (c : Cmd) : Bool :=
  let w := c.hi.v
  let len := c.txElems.2
  fld w 62 2 != 0 || decide (5 < fld w 41 3) || (w.getLsbD 40 && fld w 41 3 == 0) || (w.getLsbD 33 && decide (20 ≤ fld w 28 5)) ||
  len == 0 || (c.txList.isSome && decide (4096 < len)) ||
  (match c.i with
   | .xc2d _ _ _ dp => decide (1 < c.txElems.1 ∧ dp.toNat * 64 < len)
   | _ => false)

/-! ### Checks of ranges (R28 to R36, R60, R69, R144) -/

/-- Bits of the offset part of an address. -/
def txOffBits (space : Nat) : Nat :=
  match space with
  | 4 => 18
  | 5 => 18
  | 6 => 57
  | n => offsetBits n
/-- The code of a cause (Table 16-3). -/
def txCode (c : Cause) : Nat := if c = cTrans then 6 else if c = cRingWin then 5 else if c = cAlign then 3 else 2

/-- A row whose first byte, k bytes after the base of the rows, leaves the offset part of the base: addresses are unbounded (R9), and no
layout has such an offset (R29); DEDUCED (log 94): it is refused with code 2. -/
def rowPast (base : Word) (k : Nat) : Option TxErr :=
  let n := 2 ^ txOffBits (fld base 61 3)
  if n ≤ base.toNat % n + k then some (2, cSpace, some (base + BitVec.ofNat 64 k)) else none
/-- The route of some bytes of a range that starts at `base`. -/
def State.txRoute (s : State) (c : Cmd) (base addr : Word) (n : Nat) (wr : Bool) : Except TxErr Route :=
  let top (a : Word) : Nat := a.toNat / 2 ^ txOffBits (fld base 61 3)
  if top addr ≠ top base then .error (2, cSpace, some addr)
  else match s.route c.cell c.x addr n with
    | .bad e => .error (txCode e, e, some addr)
    | .mmio _ => .error (2, cSpace, some addr)
    | .here p => if wr && s.codeWrite p n false then .error (4, cSpace, some addr) else .ok (.here p)
    | r => .ok r

/-- The 64-byte lines that a range touches: offset in the range, bytes. -/
def lineCuts (a len : Nat) : List (Nat × Nat) :=
  (List.range ((a % 64 + len + 63) / 64)).map fun i =>
    let lo := 64 * i - a % 64
    (lo, min len (64 * (i + 1) - a % 64) - lo)

/-- Whole lines in OPM, whole lanes in ACM. -/
def txWhole (addr : Word) (len : Nat) : Bool :=
  match fld addr 61 3 with
  | 4 => fld addr 0 13 % 5 == 0 && len % 5 == 0
  | 5 => addr.toNat % 128 == 0 && len % 128 == 0
  | _ => true

/-- The first failing check of a range. -/
def State.txRange (s : State) (c : Cmd) (addr : Word) (len : Nat) (wr : Bool) : Option TxErr :=
  if !txWhole addr len then some (3, cAlign, some addr)
  else (lineCuts addr.toNat len).findSome? fun p =>
    match s.txRoute c addr (addr + BitVec.ofNat 64 p.1) p.2 wr with
    | .error e => some e
    | .ok _ => none

/-! ### Sync words (R371) -/

/-- The sync word of a destination address. -/
def swAddr (swoff : Nat) (d : Word) : Option Word :=
  match fld d 61 3 with
  | 0 => some (putFld d 0 35 (16 * swoff))
  | 1 => some (putFld d 0 32 (16 * swoff))
  | 2 => some (putFld d 0 35 (16 * swoff))
  | 3 => some (BitVec.ofNat 64 ((if 16 ≤ fld d 21 5 then 2 ^ 61 else 2 ^ 62) + 16 * swoff))
  | 7 => some (putFld d 0 27 (16 * swoff))
  | _ => none

/-- The route of a sync word: TCM or cluster scratchpad. -/
def State.swRoute (s : State) (c : Cmd) (a : Word) : Option Route :=
  match s.route c.cell c.x a 16 with
  | .here p => (match p.r with
      | .tcm _ => some (.here p)
      | .csp _ => some (.here p)
      | _ => none)
  | .tag t =>
      let region := if fld t 61 3 = 7 then fld t 27 2 else fld t 35 2
      if region = 0 ∨ region = 2 then some (.tag t) else none
  | _ => none

/-- The span of bytes that a route may touch: a ring's whole region (R371). -/
def State.spanOf (s : State) (c : Cmd) (r : Route) (n : Nat) : Option (Place × Nat) :=
  match r with
  | .ring q _ _ => some ({ r := ringRegion q, off := (s.ringAt q).base }, (s.ringAt q).slots * (s.ringAt q).slotSize)
  | .tag t => (s.homePlace c.sup t n).toOption.map fun p => (p, n)
  | r => (s.routePlace r).map fun p => (p, n)

/-- Whether the sync word of a destination range is refused; `apart`: it must lie outside the range.  DESIGN CHOICE (log 55): one
that lies in a code region is not refused, and counts there (R60, R371). -/
def State.swBad (s : State) (c : Cmd) (d : Word) (len : Nat) (apart : Bool) : Option TxErr :=
  match c.txSync with
  | none => none
  | some o =>
    match swAddr o d with
    | none => some (2, cSpace, some d)
    | some a =>
      match s.swRoute c a with
      | none => some (2, cSpace, some a)
      | some r =>
          if !apart then none
          else (lineCuts d.toNat len).findSome? fun p =>
            match s.spanOf c (s.route c.cell c.x (d + BitVec.ofNat 64 p.1) p.2) p.2, s.spanOf c r 16 with
            | some (q, n), some (w, _) => if q.r = w.r ∧ q.off < w.off + 16 ∧ w.off < q.off + n then some (2, cSpace, some a) else none
            | _, _ => none

/-! ### Acceptance (R367) -/

/-- The first failing check at acceptance. -/
def State.txCheck (s : State) (c : Cmd) : Option TxErr :=
  let (cnt, len) := c.txElems
  if c.txBadField then some (7, cIllegal, none)
  else if (match c.txRing with
    | some r => !(s.ringAt (ringRef c.cell r)).valid
    | none => false) then some (2, cSpace, none)
  else
    match c.i with
    | .xgath .. =>
        if fld c.a.v 61 3 ≠ 1 ∧ fld c.a.v 61 3 ≠ 2 then some (1, cSpace, some c.a.v)
        else if c.a.v.toNat % 8 ≠ 0 then some (3, cAlign, some c.a.v)
        else ((s.txRange c c.a.v (8 * cnt) false).orElse fun _ => s.txRange c c.b.v (cnt * len) true).orElse fun _ =>
          s.swBad c c.b.v len false
    | .xscat .. =>
        if fld c.b.v 61 3 ≠ 1 ∧ fld c.b.v 61 3 ≠ 2 then some (1, cSpace, some c.b.v)
        else if c.b.v.toNat % 8 ≠ 0 then some (3, cAlign, some c.b.v)
        else (s.txRange c c.b.v (8 * cnt) false).orElse fun _ => s.txRange c c.a.v (cnt * len) false
    | i =>
        if (match i with
          | .xfill .. => c.b.v.toNat % 8 != 0 || len % 8 != 0
          | _ => false) then some (3, cAlign, some c.b.v)
        else (List.range cnt).findSome? fun e =>
          let (src, dst) := c.txEnds e 0
          let past := match c.i with
            | .xc2d _ _ sp dp => (rowPast c.a.v (e * sp.toNat * 64)).orElse fun _ => rowPast c.b.v (e * dp.toNat * 64)
            | _ => none
          past.orElse fun _ => ((src.bind fun a => s.txRange c a len false).orElse fun _ => s.txRange c dst len true).orElse fun _ =>
            s.swBad c dst len true

/-- A refusal or a stop: TXSTAT records it, the status lands, and the context is told when the command has no status
target or the command stopped (R367, R368). -/
def State.txFail (s : State) (c : Cmd) (e : TxErr) (dropped : Nat) : State :=
  let (v, s) := match e.2.2 with
    | some v => (v, s)
    | none => s.takeFree
  let s := s.onCtx c.cell c.x fun q =>
    { q with txstat := countUp (firstCause q.txstat e.2.1 fun t => putFld t 48 8 e.1) 32 1 }.result c.id
      { v := BitVec.ofNat 64 (e.1 + 2 ^ 32 * min dropped (2 ^ 32 - 1)) }
  if 9 ≤ e.1 ∨ c.slots.isEmpty then s.report c.cell c.x { cause := e.2.1, detail := BitVec.ofNat 8 e.1, src := 3, tval := v } else s

/-- The accumulator tile that an address lies in. -/
def accTile (a : Word) : List Nat := if fld a 61 3 = 4 then [fld a 13 5] else []
/-- Accumulator tiles a command names by its ports; those it writes. -/
def Cmd.txAcc (c : Cmd) : List Nat × List Nat :=
  let (cnt, _) := c.txElems
  let tile := accTile
  let listed := c.txList.isSome
  let ends := if listed then [] else (List.range cnt).map fun e => c.txEnds e 0
  let gath := match c.i with
    | .xgath .. => tile c.b.v
    | _ => []
  let scat := match c.i with
    | .xscat .. => tile c.a.v
    | _ => []
  let w := (ends.flatMap fun e => tile e.2) ++ gath
  (((ends.flatMap fun e => (e.1.toList).flatMap tile) ++ scat ++ w).eraseDups, w.eraseDups)

def txLocal : Route → Bool
  | .here _ => true
  | .ring _ _ _ => true
  | .engine _ => true
  | _ => false
/-- The entries of a list as they stand at a home of the cell's own; they are read again, one by one, as the command runs (R370). -/
def State.txPeek (s : State) (c : Cmd) : List Word :=
  match c.txList with
  | none => []
  | some l => (List.range c.txElems.1).filterMap fun i =>
      let r := s.route c.cell c.x (l + BitVec.ofNat 64 (8 * i)) 8
      if txLocal r then (s.routePlace r).map fun p => (tokOfBytes false (s.fetchBytes p 8)).v else none
/-- Accumulator tiles a command reads or writes and those it writes, its list's among them: they are marked from its start (R146). -/
def State.txTiles (s : State) (c : Cmd) : List Nat × List Nat :=
  let t := (s.txPeek c).flatMap accTile
  match c.i with
  | .xscat .. => ((c.txAcc.1 ++ t).eraseDups, (c.txAcc.2 ++ t).eraseDups)
  | .xgath .. => ((c.txAcc.1 ++ t).eraseDups, c.txAcc.2)
  | _ => c.txAcc
/-- Whether a command may read accumulator memory. -/
def State.readsAcc (s : State) (c : Cmd) : Bool :=
  match c.i with
  | .xgath .. => !((s.txPeek c).flatMap accTile).isEmpty
  | .xfill .. => false
  | _ => fld c.a.v 61 3 == 4

/-- Whether an earlier piece of the TXE is held at its home. -/
def State.txBlocked (s : State) (cell : Nat) : Bool :=
  s.net.any fun a => a.who == .txe cell && a.op.writes && (s.accHeld a || (match a.place with
    | some p => (match p.r with
        | .opm _ => (((s.cellAt cell).otAt (p.off / 8192)).st != 1)
        | _ => false)
    | none => false))

/-- Try to record an arrival of the TXE (R70). -/
def State.txArrive (s : State) (cell ring : Nat) : Option State :=
  let r := ringRef cell ring
  ((s.ringAt r).arrive (ringBitTxe r cell)).map fun d => s.setRing r d

/-- TXE_ACCEPT: the head command leaves the queue once the one before it has issued its pieces and none of them is held (R145), its
CFENCE is over, and its accumulator tiles are not busy; it is refused, or starts (R139, R146, R172, R367, R372). -/
def State.txAccept (s : State) (cell : Nat) : State :=
  let k := s.cellAt cell
  match k.txq with
  | [] => s
  | c :: t =>
      if !s.engRuns cell || (k.txRun.any fun r => r.issuing || r.arrive) || s.txBlocked cell || !s.fencePast c then s
      else
        let s' := s.setCell cell { k with txq := t }
        let mine := k.txRun.any fun r => r.cmd.x == c.x
        match c.i with
        | .xqry .. => if mine then s else s'.onCtx cell c.x fun q => q.result c.id { v := q.txstat }
        | .xarr _ _ ring =>
            if mine then s
            else if !(s.ringAt (ringRef cell ring.toNat)).valid then s'.txFail c (2, cSpace, none) 0
            else match s'.txArrive cell ring.toNat with
              | some s => s
              | none => s'.onCell cell fun k => { k with txRun := k.txRun ++ [{ cmd := c, issuing := false, arrive := true }] }
        | _ =>
          match s.txCheck c with
          | some e => s'.txFail c e 0
          | none =>
              let acc := s.txTiles c
              if acc.1.any fun t => k.busy.any fun e => e.1 == t then s
              else
                let r : TxRun := { cmd := c, acm := if s.readsAcc c then s.bytesAt { r := .acm cell, off := 0 } 122880 else [] }
                s'.onCell cell fun k => { k with txRun := k.txRun ++ [r], busy := k.busy ++ acc.2.map fun t => (t, c.id) }
def execTxeAccept (cell : Nat) (s : State) : Host.Outcome State Fault Refusal := run s fun m => m.on fun s => s.txAccept cell

/-! ### Pieces (R369, R370) -/

/-- Replace the run of a command. -/
def State.onTx (s : State) (cell id : Nat) (f : TxRun → TxRun) : State :=
  s.onCell cell fun k => { k with txRun := k.txRun.map fun r => if r.cmd.id = id then f r else r }
/-- A run stops: no further piece issues. -/
def TxRun.stop (r : TxRun) (e : TxErr) : TxRun :=
  if r.code = 0 then { r with issuing := false, code := e.1, cause := e.2.1, tval := e.2.2 } else r

/-- Write a piece that has its data; poisoned data does not go to host memory (R373). -/
def M.txWrite (m : M) (cell id : Nat) (f : TxFly) (data : List (Byte × Bool)) : M :=
  match (m.s.cellAt cell).txRun.find? fun r => r.cmd.id == id with
  | none => m
  | some r =>
      let c := r.cmd
      match m.s.route cell c.x f.daddr f.len, anyPoi data with
      | .hst _, true => m.on fun s => s.onTx cell id fun r =>
          r.stop (10, cPoison, some (BitVec.ofNat 64 (numOf (data.take 8))))
      | rt, poi =>
          let rt := closeRoute (fun r => match r with
            | .mmio _ => false
            | _ => true) rt
          let (m, g) := m.issue (.txe cell) c f.daddr rt f.len (.engWrite data []) (Back.txWrite cell) true 0
          m.on fun s => s.onTx cell id fun r => { r with flying := r.flying ++ [{ f with id := g.id, wr := true, poi := poi }] }

/-- Whether a piece would be held at a local home (R72, R145, R146) or by the injection hold (R437). -/
def State.txHeld (s : State) (cell id : Nat) (wr : Bool) (r : Route) : Bool :=
  let k := s.cellAt cell
  match r with
  | .ring q _ _ => s.ringHeld q (ringBitTxe q cell)
  | .engine p => (match p.r with
      | .opm _ => wr && (k.otAt (p.off / 8192)).st != 1
      | _ => k.busy.any fun e => e.1 == p.off / 5120 && e.2 != id)
  | r => s.routeHeld r

/-- Whether a local source is read in one single-copy atomic unit, or is operand or accumulator memory. -/
def State.txOneUnit (s : State) (c : Cmd) (rt : Route) (n : Nat) : Bool :=
  match s.routePlace rt with
  | none => true
  | some p => !p.r.hasFull || unitEnd c.fmode false p.off n 0 == n

/-- The bytes of a local source now. -/
def State.txSource (s : State) (r : TxRun) (rt : Route) (n : Nat) : List (Byte × Bool) :=
  match s.routePlace rt with
  | none => []
  | some p => match p.r with
    | .acm _ => if r.acm.isEmpty then s.bytesAt p n else (r.acm.drop p.off).take n
    | _ => s.fetchBytes p n

/-- Issue the next piece of an element whose ends are known: a local source of one unit is read at once, one of several unit by
unit at its home (R53, R62), a remote one by a request. -/
def M.txPiece (m : M) (cell : Nat) (r : TxRun) (src : Option Word) (dst : Word) (len : Nat) : M :=
  let s := m.s
  let c := r.cmd
  let id := c.id
  let route (a : Word) (n : Nat) : Route := s.route cell c.x (a + BitVec.ofNat 64 r.off) n
  let room (a : Word) : Nat := 64 - (a.toNat + r.off) % 64
  let n := min (len - r.off) (min (room dst) (match src with
    | some a => room a
    | none => 64))
  let n := if txLocal (route dst n) && (match src with
    | some a => txLocal (route a n)
    | none => true) then n else min n 32
  let da := dst + BitVec.ofNat 64 r.off
  let f : TxFly := { id := 0, elem := r.elem, daddr := da, len := n, sw := c.txSync.bind fun o => swAddr o da }
  let held := s.txBlocked cell || s.txHeld cell id true (route dst n) || (match src with
    | some a => s.txHeld cell id false (if r.acm.isEmpty then route a n else .bad 0)
    | none => false)
  if held then m
  else
    let next (s : State) : State := s.onTx cell id fun r =>
      if r.off + n < len then { r with off := r.off + n } else { r with off := 0, elem := r.elem + 1, entry := none }
    match src with
    | none => (m.on next).txWrite cell id f ((List.range (n / 8)).flatMap fun _ => bytesOf 8 c.a.v.toNat c.a.poi)
    | some a =>
        let sa := a + BitVec.ofNat 64 r.off
        let rt := s.route cell c.x sa n
        if txLocal rt && s.txOneUnit c rt n then (m.on next).txWrite cell id f (s.txSource r rt n)
        else
          let rt := closeRoute (fun r => match r with
            | .mmio _ => false
            | _ => true) rt
          let (m, g) := (m.on next).issue (.txe cell) c sa rt n .read (Back.txRead cell) false 0
          m.on fun s => s.onTx cell id fun r => { r with flying := r.flying ++ [{ f with id := g.id, loc := txLocal rt }] }
/-- A piece from a local source is written in the order in which the TXE issued its pieces from local sources (R369).  DEDUCED (log 91):
R486 needs it of a source that is read unit by unit; pieces from remote sources are written as their reads come back. -/
def State.txInTurn (s : State) (cell id : Nat) : Bool :=
  let l := (s.cellAt cell).txRun.flatMap fun r => r.flying.filter fun f => f.loc && !f.wr
  !(l.any fun f => f.id == id) || (l.head?.any fun f => f.id == id)

/-- The checks of a list entry when it is read (R370, R371). -/
def State.entryErr (s : State) (c : Cmd) (v : Tok) : Option TxErr :=
  let len := c.txElems.2
  if v.poi then some (9, cPoison, some v.v)
  else
    let e := match c.i with
      | .xscat .. => (s.txRange c v.v len true).orElse fun _ => s.swBad c v.v len false
      | _ => s.txRange c v.v len false
    e.map fun e => (9, e.2.1, e.2.2)
/-- Take a list entry; a tile of accumulator memory that it writes is busy from then on. -/
def State.takeEntry (s : State) (cell : Nat) (c : Cmd) (v : Tok) : State :=
  match s.entryErr c v with
  | some e => s.onTx cell c.id fun r => r.stop e
  | none =>
      let s := s.onTx cell c.id fun r => { r with entry := some v.v }
      match c.i with
      | .xscat .. =>
          if fld v.v 61 3 = 4 && !((s.cellAt cell).busy.contains (fld v.v 13 5, c.id)) then s.onCell cell fun k => { k with busy := k.busy ++ [(fld v.v 13 5, c.id)] } else s
      | _ => s

/-- TXE_PIECE_ISSUE: the command that issues reads its next list entry or issues its next piece. -/
def M.txIssue (m : M) (cell : Nat) : M :=
  let s := m.s
  match (s.cellAt cell).txRun.find? fun r => r.issuing with
  | none => m
  | some r =>
      let c := r.cmd
      let (cnt, len) := c.txElems
      if !s.engRuns cell then m
      else if cnt ≤ r.elem then m.on fun s => s.onTx cell c.id fun r => { r with issuing := false }
      else
        match c.txList, r.entry with
        | some l, none =>
            let a := l + BitVec.ofNat 64 (8 * r.elem)
            if r.flying.any fun f => f.entry then m
            else
              let rt := s.route cell c.x a 8
              (match s.routePlace rt, txLocal rt && s.txOneUnit c rt 8 with
               | some p, true => m.on fun s => s.takeEntry cell c (tokOfBytes false (s.fetchBytes p 8))
               | _, _ =>
                   if s.routeHeld rt then m
                   else
                     let (m, g) := m.issue (.txe cell) c a rt 8 .read (Back.txRead cell) false 0
                     m.on fun s => s.onTx cell c.id fun r => { r with flying := r.flying ++ [{ id := g.id, entry := true }] })
        | _, _ =>
            let (src, dst) := c.txEnds r.elem (r.entry.getD 0)
            m.txPiece cell r src dst len
def execTxePieceIssue (cell : Nat) (s : State) : Host.Outcome State Fault Refusal := run s fun m => m.txIssue cell

/-! ### Answers and completion (R368, R371, R372) -/

/-- The answer of a read: its piece is written, or dropped and counted; a list entry is checked. -/
def M.txRead (m : M) (cell id : Nat) (data : List (Byte × Bool)) (err : Option Cause) (addr : Word) : M :=
  match (m.s.cellAt cell).txRun.find? fun r => r.flying.any fun f => f.id == id with
  | none => m
  | some r =>
    match r.flying.find? fun f => f.id == id with
    | none => m
    | some f =>
        let c := r.cmd
        let m := m.on fun s => s.onTx cell c.id fun r => { r with flying := r.flying.filter fun f => f.id != id }
        match err, f.entry with
        | some e, true => m.on fun s => s.onTx cell c.id fun r => r.stop (9, e, some addr)
        | some _, false => m.on fun s => s.onTx cell c.id fun r => { r with dropped := r.dropped + 1 }
        | none, true => m.on fun s => s.takeEntry cell c (tokOfBytes false data)
        | none, false => m.txWrite cell c.id f data

/-- The answer of a write: the piece is counted at its sync word, or dropped and counted in the status. -/
def M.txWrote (m : M) (cell id : Nat) (err : Option Cause) : M :=
  match (m.s.cellAt cell).txRun.find? fun r => r.flying.any fun f => f.id == id with
  | none => m
  | some r =>
    match r.flying.find? fun f => f.id == id with
    | none => m
    | some f =>
        let c := r.cmd
        let m := m.on fun s => s.onTx cell c.id fun r => { r with
          flying := r.flying.filter fun f => f.id != id
          dropped := r.dropped + ofBool err.isSome }
        match err, f.sw with
        | none, some a =>
            (match m.s.swRoute c a with
             | some rt => (m.issue (.txe cell) c a rt 16 (.count f.len f.poi) (fun _ => Back.none) true 0).1
             | none => m)
        | _, _ => m

/-- A command has ended: the lines and lanes it has written in part are not completed by another (R144, R336). -/
def State.txForget (s : State) (cell id : Nat) : State :=
  s.onCell cell fun k => { k with laneParts := k.laneParts.filter (fun e => e.1 != id), txRun := k.txRun.filter (fun q => q.cmd.id != id),
                                  ot := k.ot.map fun e => (e.1, { e.2 with parts := e.2.parts.filter fun p => p.1 != id }) }
/-- The status of a command that has completed. -/
def State.txDone (s : State) (cell : Nat) (r : TxRun) : State :=
  (s.txForget cell r.cmd.id).onCtx cell r.cmd.x fun q =>
    q.result r.cmd.id { v := BitVec.ofNat 64 ((if r.dropped = 0 then 0 else 8) + 2 ^ 32 * min r.dropped (2 ^ 32 - 1)) }

/-- TXE_COMPLETE: the n-th running command, its pieces all performed or dropped, releases its semaphore, arrives at its
ring, and its status lands; one that stopped does neither. -/
def execTxeComplete (cell n : Nat) (s : State) : Host.Outcome State Fault Refusal :=
  run s fun m => m.on fun s =>
    match (s.cellAt cell).txRun[n]? with
    | none => s
    | some r =>
        let c := r.cmd
        if r.issuing || !r.flying.isEmpty || r.arrive then s
        else
          let s := s.onCell cell fun k => { k with busy := k.busy.filter fun e => e.2 != c.id }
          if r.code ≠ 0 then
            (s.txForget cell c.id).txFail c (r.code, r.cause, r.tval) r.dropped
          else
            let s := match c.txSem with
              | some q => s.onCell cell fun k => k.semRelease q 1
              | none => s
            match c.txRing with
            | none => s.txDone cell r
            | some ring => match s.txArrive cell ring with
              | some s => s.txDone cell r
              | none => s.onTx cell c.id fun r => { r with arrive := true }

/-- A TXE arrival that waits is recorded (R70). -/
def State.txRingArrival (s : State) (cell : Nat) (ring : RingRef) : State :=
  match (s.cellAt cell).txRun.find? fun r => r.arrive && (r.cmd.txRing.map (ringRef cell)) == some ring with
  | none => s
  | some r => match (s.ringAt ring).arrive (ringBitTxe ring cell) with
    | some d => (s.setRing ring d).txDone cell r
    | none => s

end Sys2Proof.Machine
end

