-- ==== Sys2Proof/Machine/Vector.lean ====
section
/-! DEFINITION. Machine/Vector.lean: vector instructions as a block fires them (R311, R312, R317, R319 to R333), the VXE
that runs their commands (R313 to R318, R322, R489), and the answers of its accesses. -/
namespace Sys2Proof.Machine
open Sys2Proof

/-! ### Lane addresses (R317, R319 to R321) -/

/-- The route of a vector access: ACM, OPM and HST are closed, user code regions and MMIO locations that are read-only, or not
listed, are not written (R28, R48, R60). -/
def State.vxRoute (s : State) (cell x : Nat) (sup : Bool) (addr : Word) (n : Nat) (wr : Bool) : Route :=
  closeRoute (fun r => match r with
    | .engine _ => false
    | .hst _ => false
    | .here p => !(wr && s.codeWrite p n sup)
    | .mmio o => if wr then treeInj o else (treeExt o).isSome || (s.mmioRead cell x o).isSome
    | _ => true) (s.route cell x addr n)

/-- An aligned access of n bytes at an address whose space bits are those of a base: its route, or a fault.  In the MMIO window
the width and alignment come first (R48). -/
def State.vxAccess (s : State) (cell x : Nat) (sup : Bool) (base addr : Word) (n : Nat) (wr : Bool) :
    Except (Cause × Word) Route :=
  if fld addr 61 3 ≠ fld base 61 3 then .error (cSpace, addr)
  else
    let unfit := match s.route cell x addr n with
      | .mmio _ => decide (n ≠ 8 ∨ addr.toNat % 8 ≠ 0)
      | _ => false
    if unfit then .error (cAlign, addr)
    else match s.vxRoute cell x sup addr n wr with
      | .bad c => .error (c, addr)
      | r => if addr.toNat % n = 0 then .ok r else .error (cAlign, addr)

/-- The scope that holds a cell and the home that an address names, whether or not the access may be made there (R159). -/
def State.addrDist (s : State) (cell : Nat) (addr : Word) : Scope :=
  match fld addr 61 3 with
  | 0 => s.tagDistance cell addr
  | 2 => .clu
  | 3 => s.distance cell { r := ringRegion (ringRef cell (fld addr 21 5)), off := 0 }
  | 7 => if fld addr 53 8 = s.waferId.toNat then s.tagDistance cell (glbForm addr) else .sys
  | _ => .cel

/-- The address of lane i of a strided access. -/
def strided (ea : Word) (stride : Word) (i : Nat) : Word := ea + stride * BitVec.ofNat 64 i
/-- The address of lane i of an indexed access (R321). -/
def Ctx.indexed (c : Ctx) (a : Word) (w : Nat) (l : LayX) (i : Nat) : Word :=
  let x := (c.lane l.vi.toNat w i).1
  a + BitVec.ofInt 64 ((if l.u then (x : Int) else sextN x w) * 2 ^ l.sc.toNat)

def dispL (l : LayL) : Int := l.disp.toInt * 64

/-! ### Firing -/

/-- Tokens per instruction (Table 19-2). -/
def vxCharge : Instr → Nat
  | .vred .. => 2
  | .vscan .. => 2
  | .vbms .. => 2
  | .vsrch .. => 2
  | .vexp .. => 3
  | .vlog .. => 3
  | .vrsq .. => 3
  | .vtanh .. => 3
  | .vdiv .. => 4
  | .vsqrt .. => 4
  | _ => 1

/-- A register instruction queues its command. -/
def fireV (i : Instr) (s : State) : Host.Outcome State Fault Refusal := fireE i false (vxCharge i) (fun e m => e.engine i m) s

/-- A memory instruction queues its command unless a check at issue fails. -/
def fireVM (i : Instr) (chk : Env → Option (Cause × Word)) (s : State) : Host.Outcome State Fault Refusal :=
  fireE i false (vxCharge i) (fun e m => match chk e with
    | some (c, v) => (m, effFault c v)
    | none => e.engine i m) s

/-- The fault of an address check, if any. -/
def faultOf {α : Type} : Except (Cause × Word) α → Option (Cause × Word)
  | .error f => some f
  | .ok _ => none

/-- VLD and VST: one aligned line (R319). -/
def Env.lineChk (e : Env) (l : LayL) (wr : Bool) : Option (Cause × Word) :=
  match effAddr (e.tok .a) (dispL l) with
  | .error f => some f
  | .ok ea => faultOf (e.s.vxAccess e.cell e.x e.blk.sup ea ea 64 wr)
/-- VLDS and VSTS: every lane, whatever the mask, each with the bits above the offset part of a (R294, R317, R320). -/
def Env.strideChk (e : Env) (w : Width) (l : LayL) (wr : Bool) : Option (Cause × Word) :=
  let n := w.bits / 8
  match effAddr (e.tok .a) (dispL l) with
  | .error f => some f
  | .ok ea =>
      if e.pb then some (cPoison, (e.tok .b).v)
      else if ea.toNat % n ≠ 0 then some (cAlign, ea)
      else if (e.tok .b).v.toNat % n ≠ 0 then some (cAlign, (e.tok .b).v)
      else (List.range (nLanes w.bits)).findSome? fun i =>
        let v := strided ea (e.tok .b).v i
        let top (a : Int) : Int := a / 2 ^ offsetBits (fld ea 61 3)
        if top (ea.toNat + (e.tok .b).v.toInt * i) ≠ top ea.toNat then some (cSpace, v) else faultOf (e.s.vxAccess e.cell e.x e.blk.sup ea v n wr)
/-- VGATH and VSCAT: the base alone, as an address: its space, its layout and limit, its ring window (R294, R317). -/
def Env.baseChk (e : Env) : Option (Cause × Word) :=
  match effAddr (e.tok .a) 0 with
  | .error f => some f
  | .ok ea =>
      match e.s.blockRoute e.cell e.x ea 1 with
      | .bad c => some (c, ea)
      | _ => none
/-- VCST: HEAD, and the space of the base (R322). -/
def Env.cstChk (e : Env) : Option (Cause × Word) :=
  match effAddr (e.tok .a) 0 with
  | .error f => some f
  | .ok ea =>
      match e.s.vxAccess e.cell e.x e.blk.sup ea ea 8 true with
      | .error f => some f
      | .ok (.mmio _) => some (cSpace, ea)
      | .ok _ =>
          let sp := fld (e.tok .b).v 61 3
          if e.pb then some (cPoison, (e.tok .b).v)
          else if sp = 4 ∨ sp = 5 ∨ sp = 6 then some (cSpace, (e.tok .b).v) else none

def execVld (h : Hdr) (w : Width) (l : LayL) (s : State) : Host.Outcome State Fault Refusal :=
  fireVM (.vld h w l) (fun e => e.lineChk l false) s
def execVst (h : Hdr) (w : Width) (l : LayL) (s : State) : Host.Outcome State Fault Refusal :=
  fireVM (.vst h w l) (fun e => e.lineChk l true) s
def execVlds (h : Hdr) (w : Width) (l : LayL) (s : State) : Host.Outcome State Fault Refusal :=
  fireVM (.vlds h w l) (fun e => e.strideChk w l false) s
def execVsts (h : Hdr) (w : Width) (l : LayL) (s : State) : Host.Outcome State Fault Refusal :=
  fireVM (.vsts h w l) (fun e => e.strideChk w l true) s
def execVgath (h : Hdr) (w : Width) (l : LayX) (s : State) : Host.Outcome State Fault Refusal :=
  fireVM (.vgath h w l) Env.baseChk s
def execVscat (h : Hdr) (w : Width) (l : LayX) (s : State) : Host.Outcome State Fault Refusal :=
  fireVM (.vscat h w l) Env.baseChk s
def execVcst (h : Hdr) (w : Width) (l : LayL) (s : State) : Host.Outcome State Fault Refusal :=
  fireVM (.vcst h w l) Env.cstChk s
def execVmov (h : Hdr) (w : Width) (l : LayR) (s : State) : Host.Outcome State Fault Refusal := fireV (.vmov h w l) s
def execVadd (h : Hdr) (o : VOp) (l : LayR) (s : State) : Host.Outcome State Fault Refusal := fireV (.vadd h o l) s
def execVsub (h : Hdr) (o : VOp) (l : LayR) (s : State) : Host.Outcome State Fault Refusal := fireV (.vsub h o l) s
def execVmul (h : Hdr) (o : VOp) (l : LayR) (s : State) : Host.Outcome State Fault Refusal := fireV (.vmul h o l) s
def execVfma (h : Hdr) (o : VOp) (l : LayR) (s : State) : Host.Outcome State Fault Refusal := fireV (.vfma h o l) s
def execVdiv (h : Hdr) (o : VOp) (l : LayR) (s : State) : Host.Outcome State Fault Refusal := fireV (.vdiv h o l) s
def execVsqrt (h : Hdr) (o : VOp) (l : LayR) (s : State) : Host.Outcome State Fault Refusal := fireV (.vsqrt h o l) s
def execVmin (h : Hdr) (o : VOp) (l : LayR) (s : State) : Host.Outcome State Fault Refusal := fireV (.vmin h o l) s
def execVmax (h : Hdr) (o : VOp) (l : LayR) (s : State) : Host.Outcome State Fault Refusal := fireV (.vmax h o l) s
def execVabs (h : Hdr) (o : VOp) (l : LayR) (s : State) : Host.Outcome State Fault Refusal := fireV (.vabs h o l) s
def execVneg (h : Hdr) (o : VOp) (l : LayR) (s : State) : Host.Outcome State Fault Refusal := fireV (.vneg h o l) s
def execVand (h : Hdr) (w : Width) (l : LayR) (s : State) : Host.Outcome State Fault Refusal := fireV (.vand h w l) s
def execVor (h : Hdr) (w : Width) (l : LayR) (s : State) : Host.Outcome State Fault Refusal := fireV (.vor h w l) s
def execVxor (h : Hdr) (w : Width) (l : LayR) (s : State) : Host.Outcome State Fault Refusal := fireV (.vxor h w l) s
def execVshl (h : Hdr) (w : Width) (sc1 : Bool) (l : LayR) (s : State) : Host.Outcome State Fault Refusal :=
  fireV (.vshl h w sc1 l) s
def execVshr (h : Hdr) (w : Width) (sc1 : Bool) (l : LayR) (s : State) : Host.Outcome State Fault Refusal :=
  fireV (.vshr h w sc1 l) s
def execVsar (h : Hdr) (w : Width) (sc1 : Bool) (l : LayR) (s : State) : Host.Outcome State Fault Refusal :=
  fireV (.vsar h w sc1 l) s
/-- VCVT checks its conversion word when it fires (R326). -/
def execVcvt (h : Hdr) (l : LayR) (s : State) : Host.Outcome State Fault Refusal :=
  fireVM (.vcvt h l) (fun e => match convWordOf (e.tok .b).v with
    | some k => if vcvtOk k l.vb.toNat then none else some (cIllegal, (e.tok .b).v)
    | none => some (cIllegal, (e.tok .b).v)) s
def execVcmp (h : Hdr) (o : VOp) (l : LayR) (s : State) : Host.Outcome State Fault Refusal := fireV (.vcmp h o l) s
def execVmask (h : Hdr) (w : Width) (k : BitVec 3) (l : LayR) (s : State) : Host.Outcome State Fault Refusal :=
  fireV (.vmask h w k l) s
def execVsel (h : Hdr) (w : Width) (l : LayR) (s : State) : Host.Outcome State Fault Refusal := fireV (.vsel h w l) s
def execVred (h : Hdr) (o : VOp) (l : LayR) (s : State) : Host.Outcome State Fault Refusal := fireV (.vred h o l) s
def execVscan (h : Hdr) (o : VOp) (l : LayR) (s : State) : Host.Outcome State Fault Refusal := fireV (.vscan h o l) s
def execVperm (h : Hdr) (w : Width) (two : Bool) (l : LayR) (s : State) : Host.Outcome State Fault Refusal :=
  fireV (.vperm h w two l) s
def execVbcast (h : Hdr) (w : Width) (lane : Bool) (l : LayR) (s : State) : Host.Outcome State Fault Refusal :=
  fireV (.vbcast h w lane l) s
def execVext (h : Hdr) (w : Width) (l : LayR) (s : State) : Host.Outcome State Fault Refusal := fireV (.vext h w l) s
def execVins (h : Hdr) (w : Width) (l : LayR) (s : State) : Host.Outcome State Fault Refusal := fireV (.vins h w l) s
def execVexp (h : Hdr) (o : VOp) (l : LayR) (s : State) : Host.Outcome State Fault Refusal := fireV (.vexp h o l) s
def execVlog (h : Hdr) (o : VOp) (l : LayR) (s : State) : Host.Outcome State Fault Refusal := fireV (.vlog h o l) s
def execVrsq (h : Hdr) (o : VOp) (l : LayR) (s : State) : Host.Outcome State Fault Refusal := fireV (.vrsq h o l) s
def execVtanh (h : Hdr) (o : VOp) (l : LayR) (s : State) : Host.Outcome State Fault Refusal := fireV (.vtanh h o l) s
def execVbms (h : Hdr) (o : VOp) (l : LayB) (s : State) : Host.Outcome State Fault Refusal := fireV (.vbms h o l) s
def execVsrch (h : Hdr) (o : VOp) (l : LayR) (s : State) : Host.Outcome State Fault Refusal := fireV (.vsrch h o l) s

/-! ### A command's accesses -/

/-- A vector command that writes a register from memory. -/
def isVLoad : Instr → Bool
  | .vld .. => true
  | .vlds .. => true
  | .vgath .. => true
  | _ => false

/-- One access to make: address, route, bytes, offset of those bytes in the register, what is written. -/
structure VAcc where
  addr : Word
  r : Route
  n : Nat
  off : Nat
  op : Op
  wr : Bool
  deriving DecidableEq, Repr, Inhabited

/-- Bytes of a register with their poison. -/
def Ctx.regBytes (c : Ctx) (r : Nat) : List (Byte × Bool) :=
  (List.range 64).map fun i => (BitVec.ofNat 8 (fld (c.vr r) (8 * i) 8), (c.vp r).getLsbD (i / 8))
/-- The bytes of lane i. -/
def Ctx.laneBytes (c : Ctx) (r w i : Nat) : List (Byte × Bool) := ((c.regBytes r).drop (i * (w / 8))).take (w / 8)

/-- The accesses of a command, in lane order, or the first failing lane with its cause and TVAL (R317). -/
def State.vxAccs (s : State) (k : Cmd) : Except (Nat × Cause × Word) (List VAcc) :=
  let c := s.ctxAt k.cell k.x
  let line (w : Width) (l : LayL) (wr : Bool) : List VAcc :=
    let on := (List.range (nLanes w.bits)).map (c.active l.km)
    let e := w.bits / 8
    let ea := k.a.v + BitVec.ofInt 64 (dispL l)
    let op : Op := if wr then .engWrite (c.regBytes l.vr.toNat) ((List.range 64).map fun i => on.getD (i / e) false) else .read
    if on.any id then [{ addr := ea, r := s.vxRoute k.cell k.x k.sup ea 64 wr, n := 64, off := 0, op := op, wr := wr }] else []
  let stride (w : Width) (l : LayL) (wr : Bool) : List VAcc :=
    let e := w.bits / 8
    let ea := k.a.v + BitVec.ofInt 64 (dispL l)
    (List.range (nLanes w.bits)).filterMap fun i =>
      if c.active l.km i then
        let a := strided ea k.b.v i
        some { addr := a, r := s.vxRoute k.cell k.x k.sup a e wr, n := e, off := i * e,
               op := if wr then .engWrite (c.laneBytes l.vr.toNat w.bits i) [] else .read, wr := wr }
      else none
  let index (w : Width) (l : LayX) (wr : Bool) : Except (Nat × Cause × Word) (List VAcc) :=
    let e := w.bits / 8
    (List.range (nLanes w.bits)).foldl (fun r i => match r with
      | .error f => .error f
      | .ok t =>
          if c.active l.km i then
            let x := c.lane l.vi.toNat w.bits i
            if x.2 then .error (i, cPoison, BitVec.ofNat 64 x.1)
            else
              let a := c.indexed k.a.v w.bits l i
              match s.vxAccess k.cell k.x k.sup k.a.v a e wr with
              | .error (f, v) => .error (i, f, v)
              | .ok r => .ok (t ++ [{ addr := a, r := r, n := e, off := i * e,
                                      op := if wr then .engWrite (c.laneBytes l.vr.toNat w.bits i) [] else .read, wr := wr }])
          else .ok t) (.ok [])
  match k.i with
  | .vld _ w l => .ok (line w l false)
  | .vst _ w l => .ok (line w l true)
  | .vlds _ w l => .ok (stride w l false)
  | .vsts _ w l => .ok (stride w l true)
  | .vgath _ w l => index w l false
  | .vscat _ w l => index w l true
  | _ => .ok []

/-- Issue accesses in order; what is in flight. -/
def M.vxIssue : M → Cmd → List VAcc → M × List Fly
  | m, _, [] => (m, [])
  | m, k, a :: t =>
      let (m, f) := m.issue (.vxe k.cell k.x) k a.addr a.r a.n a.op (Back.vxe k.cell) a.wr a.off
      let (m, fs) := M.vxIssue m k t
      (m, f :: fs)

/-! ### Tokens and runs -/

/-- Emit a command's done token once every access has been performed, or has left the cell uncovered (R160, R316). -/
def VxRun.token (r : VxRun) (s : State) : State :=
  match r.cmd.tok with
  | none => s
  | some (n, sc) =>
      if r.elems.isEmpty && r.flying.all fun f => !f.open sc then
        match r.terr with
        | some (c, a) => s.emitErr n c a
        | none => s.emit n
      else s

/-- Add a run of the VXE. -/
def State.addRun (s : State) (r : VxRun) : State :=
  r.token (s.onCell r.cmd.cell fun k => { k with vxRun := k.vxRun ++ [r] })

/-- A command that performs nothing: its error is recorded, its token carries it, its context is told (R317, R489). -/
def State.vxFail (s : State) (c : Cmd) (lane : Nat) (cause : Cause) (tval : Word) : State :=
  let s := (s.onCtx c.cell c.x fun q => (q.vxError cause lane).result c.id { v := 0, poi := true }).emitErrOf c.tok cause tval
  s.report c.cell c.x { cause := cause, src := 1, tval := tval }

/-! ### Starting (R313, R316) -/

/-- Core cycles within which a command's result lands (Table 7-5). -/
def vxBound : Instr → Nat
  | .vext .. => 8
  | .vmask .. => 8
  | .vcst .. => 8
  | _ => 24

/-- Whether an access of a command that starts would meet a ring hold (R72, R139) or the injection hold (R437). -/
def State.vxHeld (s : State) (c : Cmd) (as : List VAcc) : Bool :=
  as.any fun a => match a.r with
    | .ring q _ _ => s.ringHeld q (ringBitCtx q c.cell c.x)
    | r => s.routeHeld r

/-- The compressing store's lanes, packed (R322). -/
def Ctx.packed (c : Ctx) (w : Width) (l : LayL) : List (List (Byte × Bool)) :=
  ((List.range (nLanes w.bits)).filter (c.active l.km)).map fun i => c.laneBytes l.vr.toNat w.bits i

/-- The route of a VCST's HEAD. -/
def State.headRoute (s : State) (c : Cmd) : Route := s.vxRoute c.cell c.x c.sup c.a.v 8 true
/-- A VCST that has lanes to store accesses HEAD first. -/
def State.cstHeldBack (s : State) (c : Cmd) : Bool :=
  match c.i with
  | .vcst _ w l => !((s.ctxAt c.cell c.x).packed w l).isEmpty && s.vxHeld c [{ addr := c.a.v, r := s.headRoute c, n := 8, off := 0, op := .read, wr := true }]
  | _ => false

/-- Run a command that leaves the queue. -/
def M.vxBegin (m : M) (c : Cmd) : M :=
  let m := m.on fun s => s.onCtx c.cell c.x fun q => q.dueBy c.id (s.tickOf c.cell + vxBound c.i)
  let q := m.s.ctxAt c.cell c.x
  match vxCompute q c with
  | some o => m.on fun s => (s.setCtx c.cell c.x o.c).addRun { cmd := c, flags := o.flags, res := o.res }
  | none =>
      match c.i with
      | .vcst h w l =>
          let es := q.packed w l
          let n := es.length
          let m := m.on fun s => s.onCtx c.cell c.x fun q => q.result c.id { v := BitVec.ofNat 64 n }
          if n = 0 then m.on fun s => s.addRun { cmd := c }
          else
            let add : Cmd := { c with i := .aadd h .w64 { seq := 0, tsc := .none, disp := 0 },
                                      b := { v := BitVec.ofNat 64 (n * (w.bits / 8)) }, len := 8 }
            let (m, f) := m.issue (.vxe c.cell c.x) c c.a.v (m.s.headRoute c) 8 (.atomic add) (Back.vxe c.cell) true 0
            m.on fun s => s.addRun { cmd := c, flying := [f], elems := es }
      | _ =>
          match m.s.vxAccs c with
          | .error (lane, cause, v) => m.on fun s => s.vxFail c lane cause v
          | .ok as =>
              let (m, fs) := m.vxIssue c as
              m.on fun s => s.addRun { cmd := c, flying := fs }

/-- VXE_COMMAND_START: the head command starts once the entries before it have left, its token is emitted, the
registers it reads are written, and every access of the commands before it has issued (R316): a VCST's stores wait for its
reservation. -/
def M.vxStart (m : M) (cell : Nat) : M :=
  let s := m.s
  let k := s.cellAt cell
  match k.vxq with
  | [] => m
  | c :: t =>
      let ringed := match s.vxAccs c with
        | .ok as => s.vxHeld c as
        | .error _ => false
      let unsent := cmdAccesses c && k.vxRun.any fun r => !r.elems.isEmpty
      if !s.engRuns cell || !s.sqPast c || ringed || s.cstHeldBack c || unsent || k.vxRun.any (fun r => r.cmd.x == c.x && isVLoad r.cmd.i) then m
      else
        let pop (s : State) : State := s.setCell cell { k with vxq := t }
        match s.waitOf c.wait with
        | .waiting => m
        | .error cause a => m.on fun s =>
            ((pop s).onCtx c.cell c.x fun q => q.dueBy c.id (s.tickOf c.cell + vxBound c.i)).vxFail c 0 cause a
        | .emitted => (m.on pop).vxBegin c
def execVxeCommandStart (cell : Nat) (s : State) : Host.Outcome State Fault Refusal := run s fun m => m.vxStart cell

/-! ### Answers of accesses (R318, R322) -/

/-- Element stores of a VCST whose reservation returned `old`; one that fails its checks is dropped (R322), and the first that does
is the error of the command's token (R41). -/
def M.cstStores (m : M) (c : Cmd) (n : Nat) : Word → List (List (Byte × Bool)) → M × List Fly × Option (Cause × Word)
  | _, [] => (m, [], none)
  | a, d :: t =>
      match m.s.vxAccess c.cell c.x c.sup c.b.v a n true with
      | .error (cause, v) =>
          let (m, fs, _) := M.cstStores (m.on fun s => s.recordDrop c.cell c.x c.id c.hno cause v (s.addrDist c.cell v)) c n (a + BitVec.ofNat 64 n) t
          (m, fs, some (cause, v))
      | .ok r =>
          let (m, f) := m.issue (.vxe c.cell c.x) c a r n (.engWrite d []) (Back.vxe c.cell) true 0
          let (m, fs, e) := M.cstStores m c n (a + BitVec.ofNat 64 n) t
          (m, f :: fs, e)

/-- Replace the run that holds an access. -/
def State.onRun (s : State) (cell id : Nat) (f : VxRun → VxRun) : State :=
  s.onCell cell fun k => { k with vxRun := k.vxRun.map fun r => if r.flying.any fun y => y.id == id then f r else r }

/-- The lanes that one load access of a command brings: every active one of a VLD, else one (R318, R319). -/
def Ctx.lanesOf (c : Ctx) (i : Instr) : Nat :=
  match i with
  | .vld _ w l => ((List.range (nLanes w.bits)).filter (c.active l.km)).length
  | _ => 1

/-- The answer of an access of the VXE: bytes of a load, the old value of a reservation, or an error. -/
def M.vxAnswer (m : M) (cell id : Nat) (data : List (Byte × Bool)) (err : Option Cause) (addr : Word) : M :=
  match (m.s.cellAt cell).vxRun.find? fun r => r.flying.any fun y => y.id == id with
  | none => m
  | some r =>
      match r.flying.find? fun y => y.id == id with
      | none => m
      | some f =>
          let c := r.cmd
          let rest := r.flying.filter fun y => y.id != id
          let (m, r') : M × VxRun :=
            match err, f.wr with
            | none, false =>
                (m, { r with flying := rest, got := r.got ++ (List.range data.length).map fun i =>
                  (f.off + i, (data.getD i (0, false)).1, (data.getD i (0, false)).2) })
            | some _, false =>
                (m.on fun s => s.onCtx cell c.x fun q => q.vxCount (q.lanesOf c.i),
                  { r with flying := rest, got := r.got ++ (List.range f.len).map fun i => (f.off + i, 0, true) })
            | some e, true =>
                (m.on fun s => s.recordDrop cell c.x c.id c.hno e addr f.dist,
                  { r with flying := rest, elems := [], terr := some (r.terr.getD (e, addr)) })
            | none, true =>
                if r.elems.isEmpty then (m, { r with flying := rest })
                else
                  let n := (r.elems.headD []).length
                  let (m, fs, e) := m.cstStores c n (c.b.v + BitVec.ofNat 64 (numOf data)) r.elems
                  (m, { r with flying := rest ++ fs, elems := [], terr := r.terr.orElse fun _ => e })
          m.on fun s => r'.token (s.onRun cell id fun _ => r')

/-- A load lane from the bytes that came. -/
def VxRun.lane (r : VxRun) (e i : Nat) : Lane :=
  let bs := (List.range e).map fun j => match r.got.find? fun g => g.1 == i * e + j with
    | some (_, b, p) => (b, p)
    | none => ((0 : Byte), false)
  (numOf bs, anyPoi bs)

/-- A run whose accesses are all done ends: it writes its register (R314, R318), ORs its flags into VXSTAT, its result comes. -/
def State.vxEnd (s : State) (cell n : Nat) : State :=
  let k := s.cellAt cell
  match k.vxRun[n]? with
  | none => s
  | some r =>
      let c := r.cmd
      let put (q : Ctx) : Ctx := match c.i with
        | .vld _ w l => q.frame l.vr.toNat w.bits l.km l.z (r.lane (w.bits / 8))
        | .vlds _ w l => q.frame l.vr.toNat w.bits l.km l.z (r.lane (w.bits / 8))
        | .vgath _ w l => q.frame l.vr.toNat w.bits l.km l.z (r.lane (w.bits / 8))
        | _ => q
      (s.setCell cell { k with vxRun := k.vxRun.eraseIdx n }).onCtx cell c.x fun q =>
        let q := (put q).raiseVx r.flags
        match r.res with
        | some t => q.result c.id t
        | none => q

/-- VXE_COMMAND_COMPLETE: the oldest command whose accesses are all done ends. -/
def execVxeCommandComplete (cell : Nat) (s : State) : Host.Outcome State Fault Refusal :=
  run s fun m => m.on fun s =>
    match (s.cellAt cell).vxRun.findIdx? fun r => r.flying.isEmpty && r.elems.isEmpty with
    | none => s
    | some n => s.vxEnd cell n
/-- Runs of the VXE whose results must land end (R156). -/
def State.vxDue (s : State) (cell : Nat) (cycle : Nat) : State :=
  let late (s : State) (r : VxRun) : Bool := r.res.isSome && r.flying.isEmpty &&
    (s.ctxAt cell r.cmd.x).lands.any fun l => l.id == r.cmd.id && (l.due.any fun d => decide (d ≤ cycle))
  (s.cellAt cell).vxRun.foldl (fun s _ => match (s.cellAt cell).vxRun.findIdx? (late s) with
    | some n => s.vxEnd cell n
    | none => s) s

end Sys2Proof.Machine
end

