-- ==== Sys2Proof/Machine/Tree.lean ====
section
/-! DEFINITION. Machine/Tree.lean: the Anise tree (R390 to R400): its nodes, levels 0 cluster, 1 field, 2 gateway and 3 root,
the fold of a round in ascending virtual index, and the result's way down to the leaves. -/
namespace Sys2Proof.Machine
open Sys2Proof

/-- The key of a channel at a node. -/
def nodeKey (level node chan : Nat) : Nat := (level * 2 ^ 16 + node) * 32 + chan
/-- ANMASK of a node and channel (Table 17-2). -/
def State.nodeMask (s : State) (level node chan : Nat) : BitVec 16 := s.anmask.get 0 (nodeKey level node chan)

/-- The tree clock at a vault clock: 1.25 GHz (R390). -/
def treeClock (vtime : Word) : Nat := vtime.toNat * 5 / 4

/-- The unit under a node that a child's virtual index names (R39, R395): a cell, a cluster, a field, a gateway. -/
def State.childUnit (s : State) (level node v : Nat) : Option Nat :=
  match level with
  | 0 =>
      let l := s.ltab.get 0 (node * 16 + v)
      if l.getLsbD 15 then some (node * 16 + fld l 0 4) else none
  | 1 =>
      let c := (s.fieldAt node).ctab.get 0 v
      if c.getLsbD 15 then some (node * 12 + fld c 0 4) else none
  | 2 =>
      let f := s.ftab.get 0 (16 * node + v)
      if f.getLsbD 15 then some (fld f 0 7) else none
  | _ => some v

/-- A node's parent and its own virtual index there. -/
def State.parentOf (s : State) (level node : Nat) : Option (Nat × Nat) :=
  match level with
  | 0 => ((List.range 16).find? fun v => s.childUnit 1 (fieldOfCluster node) v == some node).map fun v => (fieldOfCluster node, v)
  | 1 => ((List.range 128).find? fun v => s.childUnit 2 (v / 16) (v % 16) == some node).map fun v => (v / 16, v % 16)
  | 2 => some (0, node)
  | _ => none

/-- combine(x, y) of Table 17-3: values only, no flag is raised (R396). -/
def treeCombine (op x y : Nat) : Nat :=
  match op with
  | 0 => aluAdd 64 x y
  | 1 => aluAdds 64 x y
  | 2 => aluMin 64 x y
  | 3 => aluMax 64 x y
  | 4 => min x y
  | 5 => max x y
  | 6 => x &&& y
  | 7 => x ||| y
  | 8 => x ^^^ y
  | 9 => (fadd f64 .rne 0 x y).1
  | 10 => (fadd f32 .rne 0 (x % 2 ^ 32) (y % 2 ^ 32)).1 + (fadd f32 .rne 0 (x / 2 ^ 32) (y / 2 ^ 32)).1 * 2 ^ 32
  | 11 => (fminmax f64 false false x y).1
  | 12 => (fminmax f64 true false x y).1
  | _ => x

/-- A left fold over operands in ascending virtual index; poison of any one poisons the result (R395, R396). -/
def foldTree (op : Nat) : List (Nat × Bool) → Nat × Bool
  | [] => (0, false)
  | h :: t => t.foldl (fun a e => (treeCombine op a.1 e.1, a.2 || e.2)) h

/-- A cell's operands of a channel leave its inject queue for its cluster node, in rounds counted from the launch's start
(R393); those of a cell that is scanned out wait for its restore (R400). -/
def State.climb (s : State) (cell chan v : Nat) : State :=
  let k := s.cellAt cell
  let mine := k.inj.filter fun e => e.1 == chan
  let ch := k.treech.get 0 chan
  let n := k.injN.get 0 chan
  let ops : List TreeOp := (List.range mine.length).filterMap fun i => (mine[i]?).map fun e =>
    { level := 0, node := clusterOf cell, chan := chan, child := v, round := n + i, v := e.2.v, poi := e.2.poi, op := fld ch 54 4,
      top := if fld ch 59 2 = 2 then 3 else fld ch 59 2 }
  if mine.isEmpty || s.asleep cell then s
  else { s.setCell cell { k with inj := k.inj.filter (fun e => e.1 != chan), injN := k.injN.set chan (n + mine.length) } with
         treeUp := s.treeUp ++ ops }

/-- Take the operands of a cluster node's children from their inject queues. -/
def State.climbAll (s : State) (level node chan : Nat) : State :=
  if level ≠ 0 then s
  else (List.range 16).foldl (fun s v =>
    match (s.nodeMask 0 node chan).getLsbD v, s.childUnit 0 node v with
    | true, some cell => s.climb cell chan v
    | _, _ => s) s

/-- The leaves of a group below a node: the cells its masks name, level by level (n levels are left). -/
def State.leaves (s : State) (chan : Nat) : Nat → Nat → List Nat
  | 0, node => (List.range 16).filterMap fun v => if (s.nodeMask 0 node chan).getLsbD v then s.childUnit 0 node v else none
  | l + 1, node => (List.range 16).flatMap fun v =>
      if (s.nodeMask (l + 1) node chan).getLsbD v then
        match s.childUnit (l + 1) node v with
        | some u => s.leaves chan l u
        | none => []
      else []

/-- The path latency of a leaf from the root (R397): as last measured, else the part's own. -/
def State.latOf (s : State) (cell : Nat) : Nat := s.leafLat.get (Config.leafLatency cell) cell
/-- MAXPATH of a measurement. -/
def State.maxPath (s : State) : Nat := (List.range Config.nCells).foldl (fun n c => max n (s.latOf c)) 0

/-- The result of a round goes down through the root to every participant, valid after the larger of the padding and the
leaf's path latency (R393, R398). -/
def State.broadcast (s : State) (level node chan round v : Nat) (poi : Bool) : State :=
  let e := treeClock s.vtime + (if level = 3 then 0 else Config.treeUpLatency level node)
  { s with treeDown := s.treeDown ++ (s.leaves chan level node).map fun c =>
      { cell := c, chan := chan, round := round, v := BitVec.ofNat 64 v, poi := poi, due := e + max s.anpadPad.toNat (s.latOf c) } }

/-- TREE_NODE_COMBINE: a node folds its next round once every child that its mask names has delivered it (R393). -/
def State.combine (s : State) (level node chan : Nat) : State :=
  let s := s.climbAll level node chan
  let mask := s.nodeMask level node chan
  let key := nodeKey level node chan
  let r := s.treeRound.get 0 key
  let kids := (List.range 16).filter fun v => mask.getLsbD v
  let mine (v : Nat) (o : TreeOp) : Bool := o.level == level && o.node == node && o.chan == chan && o.round == r && o.child == v
  let got := kids.map fun v => s.treeUp.find? (mine v)
  if kids.isEmpty || got.any Option.isNone then s
  else
    let ops := got.filterMap id
    match ops with
    | [] => s
    | o :: _ =>
        let (v, poi) := foldTree o.op (ops.map fun q => (q.v.toNat, q.poi))
        let s := { s with treeUp := s.treeUp.filter (fun q => !(kids.any fun c => mine c q)), treeRound := s.treeRound.set key (r + 1) }
        if o.top = level then s.broadcast level node chan r v poi
        else
          match s.parentOf level node with
          | some (p, c) =>
              { s with treeUp := s.treeUp ++ [{ o with level := level + 1, node := p, child := c, round := r, v := BitVec.ofNat 64 v, poi := poi }] }
          | none => s

def execTreeNodeCombine (level node chan : Nat) (s : State) : Host.Outcome State Fault Refusal :=
  run s fun m => m.on fun s => s.combine level node chan

/-- Whether the n-th result on its way may become an extract entry: its time has come, and those of earlier rounds have
(R393, R398). -/
def State.extractable (s : State) (n : Nat) : Bool :=
  match s.treeDown[n]? with
  | none => false
  | some d => decide (d.due ≤ treeClock s.vtime) && !s.asleep d.cell && !(s.treeDown.take n).any fun e => e.cell == d.cell && e.chan == d.chan

/-- It becomes one, in the room that its store reserved (R394). -/
def State.extract (s : State) (n : Nat) : State :=
  match s.treeDown[n]? with
  | none => s
  | some d =>
      { s.onCell d.cell (fun k => { k with ext := k.ext ++ [(d.chan, { v := d.v, poi := d.poi })], extRes := k.extRes - 1 }) with
        treeDown := s.treeDown.eraseIdx n }

def execTreeExtractValid (n : Nat) (s : State) : Host.Outcome State Fault Refusal :=
  run s fun m => m.on fun s => if s.extractable n then s.extract n else s

/-- Every result whose time has come, oldest first. -/
def State.extractDue (s : State) : State :=
  (List.range s.treeDown.length).foldl (fun t _ =>
    match (List.range t.treeDown.length).find? t.extractable with
    | some i => t.extract i
    | none => t) s

end Sys2Proof.Machine
end

