-- ==== Sys2Proof/Machine/Collective.lean ====
section
/-! DEFINITION. Machine/Collective.lean: collective ports and nodes at the gateways (R376 to R378, R401 to R406), and what a
frame that arrives on a link does (R408, R410). -/
namespace Sys2Proof.Machine
open Sys2Proof

/-! ### Ports (R376, R377) -/

/-- The gateway, instance and length of a port (R375, Table 16-6). -/
def Cell.portAt (k : Cell) (cp : Nat) : Nat × Nat × Nat :=
  let v := k.cpcfg.get 0 cp
  (fld v 58 3, fld v 40 8, fld v 0 32)

/-- A gateway accepts a post: POSTED advances. -/
def Cell.cpPost (k : Cell) (cp : Nat) : Cell :=
  { k with cpstat := k.cpstat.set cp (putFld (k.cpstat.get 0 cp) 24 24 (k.cpPosted cp + 1)) }
/-- A post finishes: DONE advances and LAST is set; nothing to do when none is unfinished. -/
def Cell.cpFinish (k : Cell) (cp status : Nat) : Cell :=
  if k.cpIdle cp then k
  else { k with cpstat := k.cpstat.set cp (putFld (putFld (k.cpstat.get 0 cp) 0 24 (k.cpDone cp + 1)) 56 8 status) }
def State.finishPost (s : State) (p : Post) (status : Nat) : State := s.onCell p.cell fun k => k.cpFinish p.cp status

/-- A piece of a buffer: its bytes by offset and length, its address, and the place of a part that needs no translation. -/
structure BufPiece where
  off : Nat
  len : Nat
  addr : Word
  place : Option Place
  deriving DecidableEq, Repr, Inhabited

/-- The pieces of up to 64 bytes in which a gateway reads or writes a buffer, each where its context's map leads (R54, R56). -/
def State.bufferPieces (s : State) (cell x : Nat) (addr : Word) (n : Nat) : List BufPiece :=
  (List.range ((n + 63) / 64)).flatMap fun i =>
    let o := 64 * i
    let a := addr + BitVec.ofNat 64 o
    let l := min 64 (n - o)
    match s.route cell x a l with
    | .here p => [{ off := o, len := l, addr := a, place := some p }]
    | .tag t => [{ off := o, len := l, addr := t, place := none }]
    | .split p k t => [{ off := o, len := k, addr := a, place := some p }, { off := o + k, len := l - k, addr := t, place := none }]
    | _ => []
/-- Where a piece lies. -/
def State.pieceAt (s : State) (e : BufPiece) : Option Place := e.place.orElse fun _ => (s.homePlace false e.addr e.len).toOption
/-- A gateway refuses a buffer of which a byte has no place, and a destination in a code region (R60, R376). -/
def State.bufferOk (s : State) (cell x : Nat) (addr : Word) (n : Nat) (write : Bool) : Bool :=
  let l := s.bufferPieces cell x addr n
  (l.map fun e => e.len).sum == n &&
  l.all fun e => match s.pieceAt e with
    | some p => !(write && s.codeWrite p e.len false)
    | none => false

/-! ### Instances (R401, R402) -/

def Gate.inst (k : Gate) (i : Nat) : Inst := k.insts.get {} i
def State.instOf (s : State) (g i : Nat) : Inst := (s.gateAt g).inst i
def State.onInst (s : State) (g i : Nat) (f : Inst → Inst) : State :=
  s.onGate g fun k => { k with insts := k.insts.set i (f (k.inst i)) }
/-- The gateway whose engine holds an instance. -/
def State.instGate (s : State) (i : Nat) : Option Nat :=
  (List.range 8).find? fun g => (s.gateAt g).insts.any fun e => e.1 == i

/-- Bytes of an element and its float format, by the FMT code of Table 12-3. -/
def elemBytes (fmt : Nat) : Nat :=
  match fmt with
  | 0x00 => 8
  | 0x01 => 4
  | 0x03 => 2
  | 0x04 => 2
  | 0x20 => 4
  | 0x21 => 4
  | _ => 8
def elemFloat (fmt : Nat) : Option Fmt :=
  match fmt with
  | 0x00 => some f64
  | 0x01 => some f32
  | 0x03 => some bf16
  | 0x04 => some f16
  | _ => none
def elemSigned (fmt : Nat) : Bool := fmt == 0x20 || fmt == 0x22

/-- combine of add (0), min (1) and max (2) (R402). -/
def Inst.combine (n : Inst) (x y : Nat) : Nat :=
  let w := 8 * elemBytes n.fmt
  match elemFloat n.fmt with
  | some F => if n.op = 0 then (fadd F .rne 0 x y).1 else (fminmax F (n.op == 2) false x y).1
  | none =>
      if n.op = 0 then aluAdd w x y
      else if elemSigned n.fmt then (if n.op = 1 then aluMin w x y else aluMax w x y)
      else if n.op = 1 then min x y else max x y
def Inst.join (n : Inst) (a b : Nat × Bool) : Nat × Bool := (n.combine a.1 b.1, a.2 || b.2)

/-- The elements of some bytes, and the bytes of some elements; poison travels with each element. -/
def elemsOf (k n : Nat) (d : List (Byte × Bool)) : List (Nat × Bool) :=
  (List.range n).map fun i => let e := (d.drop (k * i)).take k; (numOf e, anyPoi e)
def elemBytesOf (k : Nat) (l : List (Nat × Bool)) : List (Byte × Bool) := l.flatMap fun e => bytesOf k e.1 e.2

def BufPart.of (e : BufPart) (p : Post) : Bool := e.cell == p.cell && e.cp == p.cp
/-- The elements of a post's source, as its reads have brought them. -/
def Inst.sourceOf (n : Inst) (p : Post) : List (Nat × Bool) :=
  elemsOf (elemBytes n.fmt) n.count ((n.parts.filter fun e => e.of p).flatMap fun e => e.got.getD [])
/-- Every access of the gateway to the buffers has been answered. -/
def Inst.answered (n : Inst) : Bool := n.parts.all fun e => e.got.isSome
/-- An answer to a gateway.  DESIGN CHOICE (log 92): an access that fails at its home makes its post one that finishes with status 2. -/
def Inst.answer (n : Inst) (id : Nat) (data : List (Byte × Bool)) (err : Option Cause) : Inst :=
  match n.parts.find? fun e => e.id == id with
  | none => n
  | some e =>
      { n with parts := n.parts.map (fun k => if k.id = id then { k with got := some data } else k),
               posts := n.posts.map fun p => if e.of p then { p with bad := p.bad || err.isSome } else p }
/-- A gateway sends an access for a piece of a post's buffer.  DESIGN CHOICE (log 92): its source is the gateway, and its VC that
of the posting context. -/
def State.gateAccess (s : State) (g inst : Nat) (p : Post) (e : BufPiece) (op : Op) : State :=
  let id := s.fresh
  let s := { s with fresh := id + 1 }
  let s := s.onInst g inst fun n => { n with moving := true, parts := n.parts ++ [{ id := id, cell := p.cell, cp := p.cp }] }
  s.inject { id := id, who := .gate g, cell := Config.nCells + 2 ^ 23 + g, vc := (s.ctxAt p.cell p.x).rvc.toNat, addr := e.addr, place := e.place,
             len := e.len, op := op, back := .gate g inst id }
/-- A piece whose tag an injection hold keeps (R437). -/
def State.pieceHeld (s : State) (e : BufPiece) : Bool := e.place.isNone && s.heldTag e.addr

/-- The port that a post or an abort names. -/
def Cmd.port (c : Cmd) : Nat :=
  match c.i with
  | .cpost _ _ _ cp => cp.toNat
  | .cabrt _ _ _ cp => cp.toNat
  | _ => 0
/-- What one cell sends a gateway on one VC is taken in order, as at any home (R163, R167). -/
def State.gateFirst (s : State) (c : Cmd) : Bool :=
  let gate (d : Cmd) : Nat := ((s.cellAt d.cell).portAt d.port).1
  match (s.gateIn.find? fun d => d.cell == c.cell && d.rvc == c.rvc && gate d == gate c) with
  | some d => d.id == c.id
  | none => true

/-- COLLECTIVE_POST_ACCEPT: the gateway accepts the first post a context has sent it (R376). -/
def State.acceptPost (s : State) (cell x : Nat) : State :=
  match s.gateIn.find? fun c => c.cell == cell && c.x == x && (match c.i with
      | .cpost .. => true
      | _ => false) with
  | none => s
  | some c =>
    if !s.gateFirst c then s
    else
      let cp := c.port
      let (g, i, n) := (s.cellAt cell).portAt cp
      let s := { s with gateIn := s.gateIn.erase c }
      let s := (s.onCtx cell x fun q => { q with outs := q.outs.filter fun o => o.1 != c.id }).emitOf c.tok
      let s := s.onCell cell fun k => k.cpPost cp
      let p : Post := { cell := cell, x := x, cp := cp, src := c.a.v, dst := c.b.v }
      if (s.instOf g i).aborted then s.finishPost p 1
      else if !s.bufferOk cell x p.src n false || !s.bufferOk cell x p.dst n true then s.finishPost p 2
      else s.onInst g i fun q => { q with posts := q.posts ++ [p] }
def execCollectivePostAccept (cell x : Nat) (s : State) : Host.Outcome State Fault Refusal :=
  run s fun m => m.on fun s => s.acceptPost cell x

/-- The posts of a round in the order of the wafer phase; none while a port has not posted. -/
def Inst.ordered (n : Inst) : Option (List Post) :=
  let l := n.members.map fun e => n.posts.find? fun p => p.cell == e.1 && p.cp == e.2
  if l.isEmpty || l.any Option.isNone then none else some (l.filterMap id)

/-! ### The bucket algorithm (R403, R404) -/

/-- Piece j of a range (offset, length) split among n holders. -/
def pieceOf (r : Nat × Nat) (n j : Nat) : Nat × Nat :=
  let q := r.2 / n
  let e := r.2 % n
  (r.1 + j * q + min j e, q + (if j < e then 1 else 0))

/-- Dimension, ring size and ring position of part i at stage s. -/
def Inst.ringAt (n : Inst) (i s : Nat) : Nat × Nat × Nat :=
  let d := n.dims.length
  (n.dims[if s < d then (i + s) % d else (i + (2 * d - 1 - s)) % d]?).getD (0, 1, 0)
/-- The range of elements that part i works on at reduce-scatter stage s. -/
def Inst.kept (n : Inst) (i : Nat) : Nat → Nat × Nat
  | 0 => pieceOf (0, n.count) n.dims.length i
  | s + 1 => let (_, k, r) := n.ringAt i s; pieceOf (n.kept i s) k ((r + 1) % k)
/-- The range of part i at any stage: the all-gather retraces the reduce-scatter. -/
def Inst.range (n : Inst) (i s : Nat) : Nat × Nat :=
  let d := n.dims.length
  n.kept i (if s < d then s else 2 * d - 1 - s)
/-- Steps of a stage: those of its longest ring. -/
def Inst.steps (n : Inst) (s : Nat) : Nat :=
  (List.range n.dims.length).foldl (fun m i => max m ((n.ringAt i s).2.1 - 1)) 0
/-- The first stage from s on that has a step (u stages are left). -/
def Inst.skip (n : Inst) : Nat → Nat → Nat
  | 0, s => s
  | u + 1, s => if n.steps s = 0 then n.skip u (s + 1) else s
def Inst.settle (n : Inst) : Inst :=
  let t := 2 * n.dims.length
  let st := if n.steps n.stage ≤ n.step then n.stage + 1 else n.stage
  let st := n.skip (t - st) st
  if st = n.stage then n else { n with stage := st, step := 0 }
/-- All stages are done. -/
def Inst.finished (n : Inst) : Bool := n.running && decide (2 * n.dims.length ≤ n.stage)

/-- The pieces that part i sends and receives in the present step; none when its ring has no step left. -/
def Inst.move (n : Inst) (i : Nat) : Option (Nat × (Nat × Nat) × (Nat × Nat)) :=
  let (dim, k, r) := n.ringAt i n.stage
  if k ≤ n.step + 1 then none
  else
    let rng := n.range i n.stage
    let at_ (z : Int) : Nat × Nat := pieceOf rng k (z % k).toNat
    let q : Int := n.step
    if n.stage < n.dims.length then some (dim, at_ (r - q), at_ (r - q - 1)) else some (dim, at_ (r + 1 - q), at_ (r - q))

def piecesAt {α : Type} (l : List α) (r : Nat × Nat) : List α := (l.drop r.1).take r.2
def splice {α : Type} (l : List α) (r : Nat × Nat) (v : List α) : List α := l.take r.1 ++ v ++ l.drop (r.1 + r.2)

/-- What part i receives is folded in, earlier ring positions on the left, or stored (R403). -/
def Inst.receive (n : Inst) (i : Nat) (recv : List (Nat × Bool)) : Inst :=
  match n.move i with
  | none => n
  | some (_, _, r) =>
      let v := if n.stage < n.dims.length then (recv.zip (piecesAt n.acc r)).map fun e => n.join e.1 e.2 else recv
      { n with acc := splice n.acc r v }

/-- Data frames of a piece, 256 bytes each (R409). -/
def dataFrames (own peer inst : Nat) (d : List (Byte × Bool)) : List Frame :=
  (List.range ((d.length + 255) / 256)).map fun i =>
    let p := (d.drop (256 * i)).take 256
    let p := padTo (32 * ((p.length + 31) / 32)) p
    { kind := 3, vc := 0, tag := 0, swafer := own, dwafer := peer, inst := inst, gen := 0, pois := poisOf p, payload := p.map fun e => e.1 }

/-- Send a part's piece to ring position r + 1. -/
def State.sendPiece (s : State) (i : Nat) (n : Inst) (part : Nat) : State :=
  match n.move part with
  | none => s
  | some (dim, r, _) =>
      match s.linkIn dim 0 with
      | none => s
      | some l =>
          (dataFrames s.waferId.toNat (fld (s.gateAt l).slkcfg 52 8) i (elemBytesOf (elemBytes n.fmt) (piecesAt n.acc r))).foldl
            (fun s f => s.pushFrame l f) s

/-- The pieces of a post's source or destination. -/
def State.postPieces (s : State) (n : Inst) (p : Post) (write : Bool) : List BufPiece :=
  s.bufferPieces p.cell p.x (if write then p.dst else p.src) (elemBytes n.fmt * n.count)
/-- The gateway reads every source, as remote accesses (R376). -/
def State.readSources (s : State) (g inst : Nat) (l : List Post) : State :=
  let n := s.instOf g inst
  if n.moving || l.any (fun p => (s.postPieces n p false).any s.pieceHeld) then s
  else
    l.foldl (fun s p => (s.postPieces n p false).foldl (fun s e => s.gateAccess g inst p e .read) s)
      (s.onInst g inst fun n => { n with moving := true })
/-- The sources have come, and are folded left to right (R402). -/
def Inst.fold (n : Inst) (p : Post) (ps : List Post) : Inst :=
  let acc := ps.foldl (fun a q => (a.zip (n.sourceOf q)).map fun e => n.join e.1 e.2) (n.sourceOf p)
  ({ n with running := true, moving := false, parts := [], acc := acc, stage := 0, step := 0 } : Inst).settle

/-- COLLECTIVE_ROUND_START: every port of the wafer has posted; the sources are read, and once all have come they are folded. -/
def execCollectiveRoundStart (g inst : Nat) (s : State) : Host.Outcome State Fault Refusal :=
  run s fun m => m.on fun s =>
    match (s.instOf g inst).ordered with
    | some (p :: ps) =>
        if (s.instOf g inst).running || (s.instOf g inst).aborted || (p :: ps).any (fun q => s.asleep q.cell) then s
        else
          let s := s.readSources g inst (p :: ps)
          let n := s.instOf g inst
          if n.moving && n.answered then s.onInst g inst fun n => n.fold p ps else s
    | _ => s

/-- BUCKET_STEP: each part sends a piece to the next ring position and receives one from the position before; `recv` is
what arrives for each part, from the other wafers. -/
def execBucketStep (g inst : Nat) (recv : List (List (BitVec 64 × Bool))) (s : State) : Host.Outcome State Fault Refusal :=
  run s fun m => m.on fun s =>
    let n := s.instOf g inst
    let parts := List.range n.dims.length
    let got (i : Nat) : List (Nat × Bool) := (recv.getD i []).map fun e => (e.1.toNat % 2 ^ (8 * elemBytes n.fmt), e.2)
    let fits := parts.all fun i => match n.move i with
      | some (_, _, r) => (got i).length == r.2
      | none => true
    if !n.running || n.finished || n.aborted || !fits then s
    else
      let s := parts.foldl (fun s i => s.sendPiece inst n i) s
      let n' := parts.foldl (fun (q : Inst) i => q.receive i (got i)) n
      s.onInst g inst fun _ => ({ n' with step := n.step + 1 } : Inst).settle

/-- The bytes of a round's result. -/
def Inst.result (n : Inst) : List (Byte × Bool) := elemBytesOf (elemBytes n.fmt) n.acc
/-- The gateway writes the result to every destination, as remote accesses (R376, R402). -/
def State.writeResults (s : State) (g inst : Nat) : State :=
  let n := s.instOf g inst
  if n.moving || n.posts.any (fun p => (s.postPieces n p true).any s.pieceHeld) then s
  else
    n.posts.foldl (fun s p => (s.postPieces n p true).foldl (fun s e => s.gateAccess g inst p e (.write ((n.result.drop e.off).take e.len))) s)
      (s.onInst g inst fun n => { n with moving := true })
/-- A round is over. -/
def Inst.nextRound (n : Inst) : Inst :=
  { n with posts := [], running := false, moving := false, parts := [], acc := [], stage := 0, step := 0, round := n.round + 1 }

/-- COLLECTIVE_POST_FINISH: the result is written to every destination buffer of the wafer, and once every write has been performed
at its home every post finishes (R376, R402). -/
def execCollectivePostFinish (g inst : Nat) (s : State) : Host.Outcome State Fault Refusal :=
  run s fun m => m.on fun s =>
    let n := s.instOf g inst
    if !n.finished || n.aborted || n.members.any (fun e => s.asleep e.1) then s
    else
      let s := s.writeResults g inst
      let n := s.instOf g inst
      if n.moving && n.answered then
        (n.posts.foldl (fun s p => s.finishPost p (if p.bad then 2 else 0)) s).onInst g inst Inst.nextRound
      else s

/-! ### Abort (R378, R405, R406) -/

/-- The abort marker of an instance and round. -/
def markerFrame (own peer inst round : Nat) : Frame :=
  { kind := 4, vc := 0, tag := 0, swafer := own, dwafer := peer, inst := inst, gen := 0, pois := 0,
    payload := (bytesOf 8 round).map (fun e => e.1) ++ List.replicate 24 0 }

/-- The links along both directions of every dimension an instance uses. -/
def State.instLinks (s : State) (n : Inst) : List Nat :=
  (n.dims.flatMap fun d => [s.linkIn d.1 0, s.linkIn d.1 1]).filterMap id |>.eraseDups

/-- The first marker of an instance and round aborts it and goes on along every link but the one it came by; a later one is
dropped. -/
def State.abortInst (s : State) (g inst round : Nat) (link : Option Nat) : State :=
  let n := s.instOf g inst
  if n.seen.contains round then s
  else
    let s := ((s.instLinks n).filter fun l => link != some l).foldl (fun s l =>
      s.pushFrame l (markerFrame s.waferId.toNat (fld (s.gateAt l).slkcfg 52 8) inst round)) s
    let s := n.posts.foldl (fun s p => s.finishPost p 1) s
    s.onInst g inst fun q => { q with posts := [], running := false, moving := false, parts := [], acc := [], stage := 0, step := 0,
                                      aborted := true, seen := round :: q.seen }

/-- Each byte of an unfinished destination keeps its value or takes one that the round wrote, either being allowed (R405): a
free choice, byte by byte. -/
def M.partRound (m : M) (g inst : Nat) : M :=
  let n := m.s.instOf g inst
  if n.running = false then m
  else n.posts.foldl (fun (m : M) p => (m.s.postPieces n p true).foldl (fun (m : M) e =>
    match m.s.pieceAt e with
    | some q =>
        let c := m.s.freeCtr
        let old := m.s.fetchBytes q e.len
        let new := (n.result.drop e.off).take e.len
        (m.storeBytes q (new.mapIdx fun i b => if (Config.freeWord (c + i)).getLsbD 0 then b else old.getD i b)).on fun s =>
          { s with freeCtr := c + e.len }
    | none => m) m) m
/-- An abort, with what it leaves of the round. -/
def M.abortInst (m : M) (g inst round : Nat) (link : Option Nat) : M :=
  if (m.s.instOf g inst).seen.contains round then m else (m.partRound g inst).on fun s => s.abortInst g inst round link

/-- The first CABRT that has reached a gateway for an instance, no post of its cell before it (R167, R378). -/
def State.abortCmd (s : State) (g inst : Nat) : Option Cmd :=
  s.gateIn.find? fun c => (match c.i with
    | .cabrt .. => true
    | _ => false) && s.gateFirst c && (let p := (s.cellAt c.cell).portAt c.port; p.1 == g && p.2.1 == inst)
/-- Nothing of an instance is unfinished.  DESIGN CHOICE (log 92): the posts of this wafer decide. -/
def State.instIdle (s : State) (n : Inst) : Bool := n.members.all fun e => (s.cellAt e.1).cpIdle e.2

/-- ABORT_MARKER: a CABRT that has reached the gateway aborts its port's instance when something of it is unfinished; a marker
from a link aborts the instance it names. -/
def execAbortMarker (g inst round : Nat) (link : Option Nat) (s : State) : Host.Outcome State Fault Refusal :=
  run s fun m =>
    match link with
    | some _ => m.abortInst g inst round link
    | none =>
        match m.s.abortCmd g inst with
        | none => m
        | some c =>
            let idle := m.s.instIdle (m.s.instOf g inst)
            let m := m.on fun s => { s with gateIn := s.gateIn.erase c }
            let m := m.on fun s => (s.onCtx c.cell c.x fun q => { q with outs := q.outs.filter fun o => o.1 != c.id }).emitOf c.tok
            if idle then m else m.abortInst g inst (m.s.instOf g inst).round none

/-! ### Frames that arrive (R408 to R410) -/

/-- A message of another wafer: its number of words and WAKE mark in byte 0, words from byte 8. -/
def frameMsg (f : Frame) : Msg :=
  let p := framePayload f
  let b := numOf (p.take 1)
  { vc := f.vc, tag := BitVec.ofNat 24 f.tag, wake := 128 ≤ b,
    words := (List.range (min (b % 128) 4)).map fun i =>
      let d := (p.drop (8 + 8 * i)).take 8
      { v := BitVec.ofNat 64 (numOf d), poi := anyPoi d } }

/-- What a frame does at this wafer. -/
def M.takeFrame (m : M) (g : Nat) (f : Frame) : M :=
  match f.kind with
  | 0 => m.on fun s => { s with net := s.net ++ [s.requestAcc g f], fresh := s.fresh + 1 }
  | 1 => m.farAnswer f
  | 2 => m.on fun s =>
      { s with net := s.net ++ [({ id := s.fresh, who := .link g, cell := Config.nCells + f.swafer * 2 ^ 14, vc := f.vc, addr := 0,
                                   op := .message (frameMsg f), gen := BitVec.ofNat 2 f.gen } : Acc).sealed], fresh := s.fresh + 1 }
  | 4 => (match m.s.instGate f.inst with
      | some k => m.abortInst k f.inst (numOf ((framePayload f).take 8)) (some g)
      | none => m)
  | 5 => m.on fun s => s.beginWake g true
  | _ => m

/-- LINK_FRAME_RECEIVE: a frame for this wafer is taken, one for another goes on; without a route a request's source gets an
error response (R408, R487).  Collective data is taken by BUCKET_STEP. -/
def execLinkFrameReceive (g : Nat) (f : Frame) (s : State) : Host.Outcome State Fault Refusal :=
  run s fun m =>
    if (m.s.gateAt g).slkcfg.getLsbD 63 = false then m
    else if f.dwafer = m.s.waferId.toNat then m.takeFrame g f
    else
      let (s', ok) := m.s.sendFrame f
      if ok then m.on fun _ => s'
      else if f.kind = 0 then m.on fun s => s.toSource f.swafer (numOf ((framePayload f).take 8)) f.tag f.gen (some cTrans) []
      else m

end Sys2Proof.Machine
end

