-- ==== Sys2Proof/Machine/Waits.lean ====
section
/-! DEFINITION. Machine/Waits.lean: the items that wait (Table 9-9), their ages (R218, R417), and the progress fault (R219,
R493). -/
namespace Sys2Proof.Machine
open Sys2Proof

/-- The TAG and VC of an item whose access names an address: those of a home reached through a tag, else those of the
context's node (R219). -/
def State.ageOf (s : State) (cell x q key : Nat) (addr : Option Word) (vc : Nat) : Age :=
  let c := s.ctxAt cell x
  match addr.map fun a => (fld a 61 3, a) with
  | some (0, a) => { q := q, x := x, key := key, age := 0, vc := BitVec.ofNat 3 vc, tag := BitVec.ofNat 24 (fld a 37 24) }
  | some (7, a) => { q := q, x := x, key := key, age := 0, vc := BitVec.ofNat 3 vc, tag := BitVec.ofNat 24 (fld a 29 24) }
  | _ => { q := q, x := x, key := key, age := 0, vc := c.rvc, tag := c.mytag }

/-- What an access that waits is known by: a load of a block by its instruction, which it keeps when a restore makes it again (R182,
R218), another by its number. -/
def Acc.ageKey (a : Acc) : Nat :=
  match a.back with
  | .inst _ _ blk idx => 2 * (blk * 128 + idx) + 1
  | _ => 2 * a.id

/-- The context of a cell for which an access is made. -/
def State.issuer (s : State) (cell : Nat) (a : Acc) : Option Nat :=
  match a.who with
  | .ctx c x => if c = cell then some x else none
  | .vxe c x => if c = cell then some x else none
  | .mxe c x => if c = cell then some x else none
  | .txe c => if c = cell then (s.cellAt c).txRun.head?.map (fun r => r.cmd.x) else none
  | _ => none

/-- QUEUE 1: the head message of a context that is not idle. -/
def State.waitMsg (s : State) (cell x : Nat) : List Age :=
  let c := s.ctxAt cell x
  match c.mq with
  | m :: _ => if c.next = .idle ∧ c.flight.isEmpty then [] else [{ q := 1, x := x, key := 0, age := 0, vc := BitVec.ofNat 3 m.vc, tag := m.tag }]
  | [] => []

/-- QUEUE 2: flits at the head of a VC buffer whose context's queue is full. -/
def State.waitFlits (s : State) (cell : Nat) : List Age :=
  (List.range s.net.length).filterMap fun n =>
    match s.net[n]? with
    | none => none
    | some a =>
      match a.op with
      | .message m =>
          (match s.msgCell m.tag.toNat with
           | .ok (some (k, adpt)) =>
               (match handlerCtx ((s.cellAt k).handler { m with adpt := adpt }) with
                | some x => if k = cell ∧ a.done ≠ 0 ∧ s.firstAtHome n a ∧ ((s.ctxAt cell x).takeMsg m).isNone
                            then some { q := 2, x := x, key := 2 * a.id, age := 0, vc := BitVec.ofNat 3 m.vc, tag := m.tag } else none
                | none => none)
           | _ => none)
      | _ => none

/-- Whether an SBAR at the head of the store queue is held: its arrival cannot be recorded, or accesses must come first. -/
def State.sbarHeld (s : State) (c : Cmd) (ring : BitVec 5) : Bool :=
  let r := ringRef c.cell ring.toNat
  (s.ringAt r).mask.getLsbD (ringBitCtx r c.cell c.x) &&
    (s.engRing c || ((s.ringAt r).arrive (ringBitCtx r c.cell c.x)).isNone)

/-- QUEUE 3 for every store-queue entry that waits on a token and for a head that waits for injection; 5 and 11 for what the head
waits for at its home. -/
def State.waitSq (s : State) (cell x : Nat) : List Age :=
  let item (q : Nat) (c : Cmd) : Age := match c.i, c.route with
    | .send _ l, _ => { q := q, x := x, key := 2 * c.id, age := 0, vc := BitVec.ofNat 3 l.vc.toNat, tag := c.ea.setWidth 24 }
    | .wake _ l, _ => { q := q, x := x, key := 2 * c.id, age := 0, vc := BitVec.ofNat 3 l.vc.toNat, tag := c.ea.setWidth 24 }
    | _, r => s.ageOf cell x q (2 * c.id) r.tagged c.rvc
  let held (q : RingRef) (c : Cmd) : Bool := c.phase == 0 && c.done == 0 && s.ringHeld q (ringBitCtx q cell x)
  let q := (s.ctxAt cell x).sq
  (q.filter fun c => s.waitOf c.wait = .waiting).map (item 3) ++
  match q with
  | [] => []
  | c :: _ =>
      if s.waitOf c.wait = .waiting then []
      else match c.i, c.route with
        | .send .., _ => [item 3 c]
        | .wake .., _ => [item 3 c]
        | .cpost .., _ => [item 3 c]
        | .sbar _ _ _ r, _ => if s.sbarHeld c r then [item 11 c] else []
        | _, .tag _ => [item 3 c]
        | _, .split .. => [item 3 c]
        | _, .ring r _ _ => if held r c then [item 11 c] else []
        | .ldfe .., .mmio _ => [item 5 c]
        | _, _ => []

/-- QUEUE 5 and 12: waiters at words. -/
def State.waitWords (s : State) (cell : Nat) : List Age :=
  s.waits.filterMap fun a => match a.who, a.op with
    | .ctx c x, .syncw _ => if c = cell then some (s.ageOf cell x 12 a.ageKey (some a.addr) a.vc) else none
    | .ctx c x, _ => if c = cell then some (s.ageOf cell x 5 a.ageKey (some a.addr) a.vc) else none
    | _, _ => none

/-- QUEUE 5: an LDF that waits at TREEEXT. -/
def State.waitTree (s : State) (cell x : Nat) : List Age :=
  (s.ctxAt cell x).flight.flatMap fun b => (List.range b.insts.length).filterMap fun i =>
    match b.insts[i]?, b.instr i with
    | some n, some (.ldf ..) =>
        let here (a : Acc) : Bool := match a.back with
          | .inst c y k j => c == cell && y == x && k == b.id && j == i
          | _ => false
        if n.st = .held && !(s.waits.any here) && s.held.any (fun a => here a && a.ring.isNone && a.place.isNone) then some (s.ageOf cell x 5 (2 * (b.id * 128 + i) + 1) none 0) else none
    | _, _ => none

/-- QUEUE 6, 7, 8: the heads of the engine queues. -/
def State.waitEng (s : State) (cell : Nat) : List Age :=
  let k := s.cellAt cell
  let head (q : Nat) (l : List Cmd) : List Age := (l.take 1).map fun c => s.ageOf cell c.x q c.id none 0
  head 6 k.txq ++ head 7 k.vxq ++ head 8 k.mxq

/-- QUEUE 9: untimed accesses that a vault program defers. -/
def State.waitVaults (s : State) (cell : Nat) : List Age :=
  s.cells.flatMap fun e =>
    if e.2.vault.owned || e.2.seq.precharge.isSome then
      e.2.vault.queue.filterMap fun a => (s.issuer cell a).map fun x => s.ageOf cell x 9 a.ageKey (some a.addr) a.vc
    else []

/-- QUEUE 11: held ring accesses. -/
def State.waitRings (s : State) (cell : Nat) : List Age :=
  (s.held.filter (fun a => a.ring.isSome) ++ s.net.filter s.accHeld).filterMap fun a => (s.issuer cell a).map fun x => s.ageOf cell x 11 a.ageKey none a.vc

/-- QUEUE 4, 10 and 13: what the commit of a context's oldest block waits for. -/
def State.waitCommit (s : State) (cell x : Nat) : List Age :=
  let k := s.cellAt cell
  let sem := (k.semWait.filter fun w => w.x == x).map fun w => s.ageOf cell x 4 (w.blk * 128 + w.idx) none 0
  match (s.ctxAt cell x).flight with
  | [] => sem
  | b :: _ =>
      let barred := (b.acqs.filter fun e => e.2.1.phase != 2 && (match e.2.1.i with
          | .cbar .. => s.complete cell x b && (s.commitFault cell x b).isNone
          | _ => false)).map fun e => s.ageOf cell x 4 (b.id * 128 + e.1) none 0
      let cw := (b.acqs.filter fun e => e.2.2 && (k.portStatus e.2.1 e.2.2).isNone).map fun e => s.ageOf cell x 13 (b.id * 128 + e.1) none 0
      let room := if b.treeStores ≠ 0 && !k.treeRoom b.treeStores && s.complete cell x b && (s.commitFault cell x b).isNone
        then [s.ageOf cell x 10 b.id none 0] else []
      sem ++ barred ++ cw ++ room

/-- Every item of Table 9-9 that waits in a cell. -/
def State.waiting (s : State) (cell : Nat) : List Age :=
  (List.range 4).flatMap (fun x => s.waitMsg cell x ++ s.waitSq cell x ++ s.waitTree cell x ++ s.waitCommit cell x) ++
  s.waitFlits cell ++ s.waitWords cell ++ s.waitEng cell ++ s.waitVaults cell ++ s.waitRings cell

def sameItem (a b : Age) : Bool := a.q == b.q && a.x == b.x && a.key == b.key

/-- The age of an item that does not wait now, whose access a restore has made again, on its way to where it waited (R182, R218). -/
def State.onTheWay (s : State) (cell : Nat) (a : Age) : Bool :=
  s.net.any fun n => n.ageKey == a.key && (s.issuer cell n) == some a.x

/-- One core cycle of a cell's ages: those of a stopped context stand still, and all do while the cell is halted or gated. -/
def State.ageCell (s : State) (cell : Nat) : State :=
  let k := s.cellAt cell
  if k.halted ≠ 0 || (s.fieldAt (fieldOf cell)).gated then s
  else
    let ws := s.waiting cell
    let aged := ws.map fun w =>
      let old := ((k.ages.find? (sameItem w)).map fun o => o.age).getD 0
      { w with age := if (s.ctxAt cell w.x).stopped || old == 0xFFFFFFFF then old else old + 1 }
    s.setCell cell { k with ages := aged ++ k.ages.filter (fun a => !ws.any (sameItem a) && s.onTheWay cell a) }

/-- The item by which a context takes a progress fault: the lowest QUEUE past the limit that still waits. -/
def State.overAge (s : State) (cell x : Nat) : Option Age :=
  let c := s.ctxAt cell x
  if c.agelim = 0 || c.stopped then none
  else
    let ws := s.waiting cell
    let l := (s.cellAt cell).ages.filter fun a => a.x == x && decide (c.agelim.toNat < a.age.toNat) && ws.any (sameItem a)
    l.foldl (fun o a => match o with
      | none => some a
      | some b => if a.q < b.q then some a else some b) none

/-- PFAULT of an item (Table 9-3). -/
def Age.pfault (a : Age) : Word :=
  BitVec.ofNat 64 (packFields [(a.tag.toNat, 40), (a.vc.toNat, 37), (a.q, 32), (a.age.toNat, 0)])

/-- A context with an item past its limit stops; its blocks in flight and their waits are discarded, what it has committed goes
on (R493). -/
def State.progressFault (s : State) (cell x : Nat) : State :=
  match s.overAge cell x with
  | none => s
  | some a =>
      let c := s.ctxAt cell x
      (s.takeTrap cell x { cause := cProgress, blk := c.nextAddr, tval := a.pfault }).onCtx cell x fun c =>
        { c with pfault := a.pfault }
/-- PROGRESS_FAULT: at the latest, CORE_CYCLE makes it. -/
def execProgressFault (cell x : Nat) (s : State) : Host.Outcome State Fault Refusal :=
  run s fun m => m.on fun s => s.progressFault cell x

/-- The item whose progress fault is resumed, the one that PFAULT names, starts again at 0 (R420). -/
def State.restartAge (s : State) (cell x : Nat) : State :=
  let c := s.ctxAt cell x
  if c.stopped ∧ c.tcause.setWidth 8 = cProgress then
    s.onCell cell fun k => { k with ages := k.ages.filter fun a => !(a.x == x && a.pfault == c.tval) }
  else s

end Sys2Proof.Machine
end

