-- ==== Sys2Proof/Machine/Answers.lean ====
section
/-! DEFINITION. Machine/Answers.lean: responses reach those who wait for them (R41, R163, R165, R168, R313, R369), agents
arrive at rings (R70, R121), and the reports of engines and sequencers stop their context (R130, R415, R416). -/
namespace Sys2Proof.Machine
open Sys2Proof

/-- A line of code has come: kept, or remembered with the cause that kept it away (R88).  DESIGN CHOICE (log 73): so is a line whose
fetch was on its way when the block cache was invalidated, of which R89 and R388 say nothing. -/
def State.codeAnswer (s : State) (cell : Nat) (line : Word) (data : List (Byte × Bool)) (err : Option Cause) : State :=
  s.onCell cell fun k =>
    let k := { k with misses := k.misses.filter fun e => e.2 != line }
    k.fillLine { line := line, data := match err with
      | some c => [(c, false)]
      | none => data }

/-- The stores that follow a VCST's reservation would leave by a held tag (R437). -/
def State.cstHeld (s : State) (cell id : Nat) : Bool :=
  match (s.cellAt cell).vxRun.find? fun r => r.flying.any fun y => y.id == id && y.wr with
  | some r => !r.elems.isEmpty && decide (fld r.cmd.b.v 61 3 = 0 ∨ fld r.cmd.b.v 61 3 = 7) && s.heldTag r.cmd.b.v
  | none => false

/-- The routers that a response passes from its home (R17). -/
def State.respWay (s : State) (r : Resp) : List Nat :=
  let way (src : Nat) (dst : Nat → Nat) : List Nat := match r.src.bind (s.routerOf src) with
    | some d => if d = dst d then [] else meshWay d (dst d)
    | none => []
  match r.back, r.back.cell with
  | _, some c => way c fun _ => c
  | .far w _ _ _, none => (match s.linkTo w with
      | some g => way 0 fun d => portNear d g
      | none => [])
  | .host, none => way 0 fun d => portNear d 0
  | .gate g _ _, none => way 0 fun d => portNear d g
  | _, none => []
/-- A failed router keeps a response (R418). -/
def State.respStops (s : State) (r : Resp) : Bool := s.cells.any (fun e => e.2.routerDown) && s.wayFails (s.respWay r)

/-- Whether a response may be taken: its data is there (R101), its receiver is not scanned out, no failed router keeps it, and what it
starts may leave. -/
def State.takable (s : State) (r : Resp) : Bool :=
  decide (r.due ≤ s.now) && !(r.back.cell.elim false s.asleep) && !s.respStops r && (match r.back with
    | .vxe cell id => !s.cstHeld cell id
    | .txRead cell id => s.txInTurn cell id
    | _ => true)

/-- A response reaches its receiver. -/
def M.take (m : M) (r : Resp) : M :=
  match r.back with
  | .none => m
  | .inst cell x blk idx => m.on fun s => (s.emitOf r.tok).loadAnswer cell x blk idx r.data r.err r.addr
  | .slot cell x id sgn => m.on fun s => s.onCtx cell x fun c => c.result id (tokOfBytes sgn r.data)
  | .store _ _ _ => m
  | .vxe cell id => m.vxAnswer cell id r.data r.err r.addr
  | .mxe cell id => m.mxAnswer cell id r.err r.addr
  | .txRead cell id => m.txRead cell id r.data r.err r.addr
  | .txWrite cell id => m.txWrote cell id r.err
  | .code cell _ line => m.on fun s => s.codeAnswer cell line r.data r.err
  | .host => m
  | .slice _ _ => m
  | .far w req tag gen => m.on fun s => s.toSource w req tag gen r.err r.data
  | .gate g inst id => m.on fun s => s.onInst g inst fun n => n.answer id r.data r.err

/-- LOAD_RESPONSE: the n-th response arrives. -/
def execLoadResponse (n : Nat) (s : State) : Host.Outcome State Fault Refusal :=
  run s fun m =>
    match m.s.resps[n]? with
    | none => m
    | some r => if m.s.takable r then (m.on fun s => { s with resps := s.resps.eraseIdx n }).take r else m

/-- The arrival of a cell's sequencer by its first DSIG for a ring whose deliveries are through (R121). -/
def State.seqArrive (s : State) (cell : Nat) (ring : RingRef) : State :=
  let q := (s.cellAt cell).seq
  match q.dsigs.findIdx? fun e => match e.1, e.2.1 with
      | .dsig _ false idx _, 0 => ringRef cell idx.toNat == ring
      | _, _ => false with
  | none => s
  | some i =>
      match (s.ringAt ring).arrive (ringBitSeq ring cell) with
      | none => s
      | some d => ((s.setRing ring d).onSeq cell fun q => { q with dsigs := q.dsigs.eraseIdx i }).seqSettle cell

/-- RING_ARRIVAL: the arrival that an agent has pending at a ring is recorded, or goes on waiting (R70). -/
def execRingArrival (who : RingAgent) (ring : RingRef) (s : State) : Host.Outcome State Fault Refusal :=
  run s fun m =>
    match who with
    | .ctx cell x =>
        (match (m.s.ctxAt cell x).sq with
         | c :: _ => (match c.i with
             | .sbar _ _ _ r => if ringRef cell r.toNat = ring then m.sqLeave cell x else m
             | _ => m)
         | [] => m)
    | .seq cell => m.on fun s => s.seqArrive cell ring
    | .txe cell => m.on fun s => s.txRingArrival cell ring

/-- The pending report of the lowest SRC (R416). -/
def Ctx.report (c : Ctx) : Option Report :=
  c.reports.foldl (fun o r => match o with
    | none => some r
    | some q => if r.src.toNat < q.src.toNat then some r else some q) none

/-- ENGINE_REPORT_STOP: once the blocks in flight are through, the report of the lowest SRC stops the context. -/
def State.reportStop (s : State) (cell x : Nat) : State :=
  let c := s.ctxAt cell x
  if !c.flight.isEmpty || c.stopped then s
  else
    match c.report with
    | none => s
    | some r =>
        (s.takeTrap cell x { cause := r.cause, src := r.src.setWidth 3, detail := r.detail, tpois := r.cause == cPoison,
                             blk := c.nextAddr, tval := r.tval }).onCtx cell x fun c => { c with reports := c.reports.erase r }

def execEngineReportStop (cell x : Nat) (s : State) : Host.Outcome State Fault Refusal :=
  run s fun m => m.on fun s => s.reportStop cell x

end Sys2Proof.Machine
end

