-- ==== Sys2Proof/Machine/Cache.lean ====
section
/-! DEFINITION. Machine/Cache.lean: the field SRAM slices that cache vault ranges (R83 to R87): fills, write-backs, flushes. -/
namespace Sys2Proof.Machine
open Sys2Proof

/-- The vault that a slice caches: its cell (R83). -/
def State.cachedCell (s : State) (f sl : Nat) : Option Nat :=
  ((List.range 8).find? fun i =>
    let e := (s.fieldAt f).fcb.get 0 i
    e.getLsbD 63 && fld e 56 7 == sl).map fun i => f * 192 + fld ((s.fieldAt f).fcb.get 0 i) 48 8

/-- Dirty lines in ascending set and way. -/
def Slice.dirty (v : Slice) : List CLine := v.lines.filter fun l => l.dirty
def Slice.nextDirty (v : Slice) : Option CLine :=
  v.dirty.foldl (fun o l => match o with
    | none => some l
    | some k => if l.set < k.set ∨ l.set = k.set ∧ l.way < k.way then some l else some k) none
/-- DIRTY of a binding (Table 4-4). -/
def State.fcbReg (s : State) (f n : Nat) : Word :=
  let e := (s.fieldAt f).fcb.get 0 n
  if e.getLsbD 63 then putFld e 0 15 ((s.fieldAt f).slice (fld e 56 7)).dirty.length else e

/-! ### The turn of a slice at the untimed path (R86, R101) -/

/-- A slice still waits for the untimed path of a vault. -/
def State.wantsTurn (s : State) (f sl cell : Nat) : Bool :=
  let v := (s.fieldAt f).slice sl
  s.cachedCell f sl == some cell && (v.flushing || !v.waiting.isEmpty)
/-- An access of a slice to its vault: at once when nothing is queued there or its turn has come; else it takes a turn behind what has
arrived before, if it has none and there is room. -/
def M.onPath (m : M) (f sl cell : Nat) (go : M → Option M) : M :=
  match (m.s.cellAt cell).vault.queue with
  | [] => (go m).getD m
  | a :: t =>
      if a.back = .slice f sl then
        match go m with
        | some n => n.on fun s => s.onVault cell fun v => { v with queue := v.queue.drop 1 }
        | none => m
      else if (a :: t).any (fun b => b.back == .slice f sl) || decide (32 ≤ (a :: t).length) then m
      else m.on fun s =>
        let (id, s) := s.takeId
        s.onVault cell fun v => { v with queue := v.queue ++ [{ id := id, who := .mgr f, cell := cell, vc := 0, addr := 0, op := .read, back := .slice f sl }] }

/-- Write a dirty line back through the untimed path; none while that path is not free. -/
def M.writeBack (m : M) (f sl cell : Nat) (l : CLine) : Option M :=
  (m.s.startUntimed cell (l.line * 128) (false, true)).map fun (s, _) =>
    let m := { m with s := s }
    let m := m.write (m.s.writeOps { r := .vault cell, off := l.line * 128 } l.data)
    m.on fun s => s.onSlice f sl fun v => { v with lines := v.lines.map fun k => if k.line = l.line then { k with dirty := false } else k }

/-- Lines of a set. -/
def Slice.inSet (v : Slice) (n : Nat) : List CLine := v.lines.filter fun l => l.set == n
/-- The line that makes room in a full set: the least recently used. -/
def Slice.victim (v : Slice) (n : Nat) : Option CLine :=
  if (v.inSet n).length < countBits 20 v.live.toNat then none else (v.inSet n).head?
/-- The lowest way that a set does not use.  DESIGN CHOICE (log 76): R86 does not say which of several free ways a fill takes. -/
def Slice.freeWay (v : Slice) (n : Nat) : Nat :=
  ((List.range 20).find? fun w => v.live.getLsbD w && !((v.inSet n).any fun l => l.way == w)).getD 0

/-- Put a line into its set, in the way of the victim or in a free one; a slice without a live bank keeps none (R78). -/
def Slice.insert (v : Slice) (line : Nat) (data : List (Byte × Bool)) : Slice :=
  let n := line % 1024
  if v.live = 0 then v else
  match v.victim n with
  | some k => { v with lines := (v.lines.filter fun l => l.line != k.line) ++
      [{ set := n, way := k.way, line := line, dirty := false, data := data }] }
  | none => { v with lines := v.lines ++ [{ set := n, way := v.freeWay n, line := line, dirty := false, data := data }] }

/-- A store that covers a whole line (R86). -/
def Acc.coversLine (a : Acc) (p : Place) : Bool :=
  p.off % 128 == 0 && a.len == 128 && (match a.op with
    | .write _ => true
    | .engWrite _ mask => mask.all fun b => b
    | _ => false)


/-- Perform waiting accesses in arrival order as long as they hit. -/
def M.serveHits : Nat → M → Nat → Nat → Nat → M
  | 0, m, _, _, _ => m
  | n + 1, m, f, sl, due =>
      let v := (m.s.fieldAt f).slice sl
      match v.waiting with
      | [] => m
      | a :: t =>
          match a.place with
          | none => m
          | some p =>
              if (m.s.lineAt p).isNone then m
              else
                let m := m.on fun s => (s.onSlice f sl fun v => { v with waiting := t }).useLine f sl (p.off / 128)
                M.serveHits n (m.performWhole 64 { a with due := max a.due due } p) f sl 0

/-- Bring in the line that the head waits for, and go on (R86). -/
def M.fillHead (m : M) (f sl cell : Nat) (a : Acc) (p : Place) (line : Nat) : M :=
  if a.coversLine p then
    (m.on fun s => s.onSlice f sl fun v => v.insert line (List.replicate 128 (0, false))).serveHits 64 f sl 0
  else
    m.onPath f sl cell fun m => (m.s.startUntimed cell (line * 128) (true, false)).map fun (s, ready) =>
      let d := s.bytesAt { r := .vault cell, off := line * 128 } 128
      ({ m with s := s.onSlice f sl fun v => v.insert line d } : M).serveHits 64 f sl ready

/-- The miss at the head: a dirty victim is written back first; then the line is filled from the vault, or allocated for a
store that covers it, and the access is performed. -/
def M.cacheFill (m : M) (f sl : Nat) : M :=
  let v := (m.s.fieldAt f).slice sl
  match m.s.cachedCell f sl, v.waiting with
  | some cell, a :: _ =>
      (match a.place with
       | none => m
       | some p =>
           if (m.s.lineAt p).isSome then m.serveHits 64 f sl 0
           else
             let line := p.off / 128
             match v.victim (line % 1024) with
             | some k =>
                 if k.dirty then m.onPath f sl cell (fun m => m.writeBack f sl cell k) else m.fillHead f sl cell a p line
             | none => m.fillHead f sl cell a p line)
  | _, _ => m

/-- CACHE_FILL (R86). -/
def execCacheFill (field slice : Nat) (s : State) : Host.Outcome State Fault Refusal :=
  run s fun m => if ((m.s.fieldAt field).slice slice).flushing then m else m.cacheFill field slice

/-- Between launches, or while its launch is pre-empted: the quiesced point of a field's slices and bindings (R47, R78, R83). -/
def State.fieldQuiet (s : State) (f : Nat) : Bool := s.launches.all fun l => !l.2.fields.contains f || l.2.snap

/-- A slice begins to flush (R87). -/
def State.startFlush (s : State) (f sl : Nat) : State :=
  s.onSlice f sl fun v => if v.lines.any (fun l => l.dirty) then { v with flushing := true } else v

/-- A binding in its stored form (Table 4-4). -/
def fcbOf (v : Word) : Word := putFld (putFld (putFld v 0 16 0) 27 5 0) 43 5 0
/-- Store a binding; the slice of the old one loses every line, and the accesses that waited there go on to their new home (R87). -/
def State.putFcb (s : State) (f n : Nat) (v : Word) : State :=
  let old := (s.fieldAt f).fcb.get 0 n
  let put (s : State) : State := s.onField f fun fl => { fl with fcb := fl.fcb.set n v, fcbNext := fl.fcbNext.filter fun e => e.1 != n }
  if old.getLsbD 63 then
    let w := ((s.fieldAt f).slice (fld old 56 7)).waiting
    let s := put (s.onSlice f (fld old 56 7) fun k => { k with lines := [], waiting := [] })
    { s with net := w ++ s.net }
  else put s
/-- The slice of a binding that a write leaves, if it holds something that the write must wait for. -/
def State.fcbBusy (s : State) (f n : Nat) : Option Nat :=
  let old := (s.fieldAt f).fcb.get 0 n
  let k := (s.fieldAt f).slice (fld old 56 7)
  if old.getLsbD 63 && (k.lines.any (fun l => l.dirty) || k.flushing) then some (fld old 56 7) else none
/-- Clear or write a binding: at once where its old slice is clean, else after that slice's flush, which begins now (R87). -/
def State.bindCache (s : State) (f n : Nat) (v : Word) : State :=
  match s.fcbBusy f n with
  | none => s.putFcb f n v
  | some sl => (s.startFlush f sl).onField f fun fl => { fl with fcbNext := (fl.fcbNext.filter fun e => e.1 != n) ++ [(n, v)] }
/-- A register write of a binding: only at a quiesced point, and only to a slice in cache mode that has a live bank (R78, R83). -/
def State.writeFcb (s : State) (f n : Nat) (v : Word) : State :=
  if s.fieldQuiet f && (!v.getLsbD 63 || (((s.fieldAt f).slice (fld v 56 7)).mode == 1 && ((s.fieldAt f).slice (fld v 56 7)).live != 0)) then s.bindCache f n (fcbOf v) else s
/-- The writes of bindings that waited for a slice's flush. -/
def State.bindWaiting (s : State) (f sl : Nat) : State :=
  ((s.fieldAt f).fcbNext.filter fun e => let old := (s.fieldAt f).fcb.get 0 e.1; old.getLsbD 63 && fld old 56 7 == sl).foldl
    (fun s e => s.putFcb f e.1 e.2) s
/-- A write of FSSLC.MODE: only at a quiesced point, for a slice with live banks that no binding names (R47, R78, R79, R83). -/
def State.writeMode (s : State) (f sl : Nat) (v : BitVec 2) : State :=
  let bound := (List.range 8).any fun i => let e := (s.fieldAt f).fcb.get 0 i; e.getLsbD 63 && fld e 56 7 == sl
  if s.fieldQuiet f && ((s.fieldAt f).slice sl).live != 0 && !bound then s.onSlice f sl fun k => { k with mode := v } else s

/-- CACHE_FLUSH: the next dirty line in ascending set and way is written back; with none left the flush ends. -/
def execCacheFlush (field slice : Nat) (s : State) : Host.Outcome State Fault Refusal :=
  run s fun m =>
    let v := (m.s.fieldAt field).slice slice
    if !v.flushing then m
    else
      match v.nextDirty, m.s.cachedCell field slice with
      | some l, some cell => m.onPath field slice cell fun m => m.writeBack field slice cell l
      | _, _ => m.on fun s => (s.onSlice field slice fun v => { v with flushing := false }).bindWaiting field slice

/-- The slices of a field that hold something dirty begin to flush (R87). -/
def State.flushField (s : State) (f : Nat) : State := (List.range 80).foldl (fun s sl => s.startFlush f sl) s
/-- Something dirty is left in a field's slices. -/
def State.fieldDirty (s : State) (f : Nat) : Bool := (s.fieldAt f).slices.any fun e => e.2.flushing || e.2.lines.any fun l => l.dirty

/-- UNTIMED_ACCESS: the head of the queue, its answer there once its data is through (R101, R102), or with nothing queued a
scrub.  An operation that a vault has no full/empty bits for takes no command (R63).  At the turn of a slice, CACHE_FILL and CACHE_FLUSH
go on; a turn that the slice has no more use for passes. -/
def execUntimedAccess (cell : Nat) (s : State) : Host.Outcome State Fault Refusal :=
  run s fun m =>
    match (m.s.cellAt cell).vault.queue with
    | [] => m.on fun s => s.scrub cell
    | a :: rest =>
        let gone (m : M) : M := m.on fun s => s.onVault cell fun v => { v with queue := rest }
        (match a.place with
         | none => (match a.back with
             | .slice f sl => if m.s.wantsTurn f sl cell then m else gone m
             | _ => gone m)
         | some p =>
             let cols := a.op.columns p.off a.len
             if !cols.1 && !cols.2 then (if (m.s.cellAt cell).pathFree then (gone m).performWhole 1 a p else m)
             else
               match m.s.startUntimed cell p.off cols with
               | some (s, ready) => (gone { m with s := s }).performWhole 64 { a with due := ready } p
               | none => m)

/-! ### Copies of a vault beside its cache (R85) -/

/-- The slices that cache ranges of a vault. -/
def State.slicesOf (s : State) (cell : Nat) : List Nat :=
  (List.range 8).filterMap fun i =>
    let e := (s.fieldAt (fieldOf cell)).fcb.get 0 i
    if e.getLsbD 63 && fld e 48 8 == cell % 192 then some (fld e 56 7) else none
/-- What the slices hold dirty of a vault is put where the vault holds it. -/
def M.settleVault (m : M) (cell : Nat) : M :=
  (m.s.slicesOf cell).foldl (fun m sl =>
    let m := (((m.s.fieldAt (fieldOf cell)).slice sl).dirty).foldl (fun (m : M) l => m.write (m.s.writeOps { r := .vault cell, off := l.line * 128 } l.data)) m
    m.on fun s => s.onSlice (fieldOf cell) sl fun v => { v with lines := v.lines.map fun l => { l with dirty := false } }) m
/-- The lines that slices hold of a vault go. -/
def State.dropLines (s : State) (cell : Nat) : State :=
  (s.slicesOf cell).foldl (fun s sl => s.onSlice (fieldOf cell) sl fun v => { v with lines := [] }) s

end Sys2Proof.Machine
end

