-- ==== Sys2Proof/Machine/Region.lean ====
section
/-! DEFINITION. Machine/Region.lean: the V/F regions (R213, R447) and the operating points of their fields (R19, R210, R444 to
R446). -/
namespace Sys2Proof.Machine
open Sys2Proof

/-! ### Regions (R447) -/

/-- A rectangle of sites, by its corners, holds a field. -/
def inRect (r : Nat × Nat × Nat × Nat) (f : Nat) : Bool :=
  let p := siteOf f
  decide (r.1 ≤ p.1 ∧ p.1 ≤ r.2.2.1 ∧ r.2.1 ≤ p.2 ∧ p.2 ≤ r.2.2.2)
/-- Up to 16 rectangles, every field in exactly one. -/
def regionsOk (rs : List (Nat × Nat × Nat × Nat)) : Bool :=
  decide (rs.length ≤ 16) && (List.range Config.nFields).all fun f => (rs.filter fun r => inRect r f).length == 1
/-- The region of a field. -/
def State.regionOf (s : State) (f : Nat) : Option Nat := s.regions.findIdx? fun r => inRect r f
/-- The fields that share a field's frequency and voltage. -/
def State.regionFields (s : State) (f : Nat) : List Nat :=
  (List.range Config.nFields).filter fun g => g == f || ((s.regionOf f).isSome && s.regionOf g == s.regionOf f)

/-! ### Operating points (R19, R444 to R446, R454) -/

/-- The supply of a field in mV. -/
def Field.supply (k : Field) : BitVec 12 := k.volt.getD Config.fusedVolt
/-- The highest rounded FMIN resident in a field (R444). -/
def State.floorOf (s : State) (f : Nat) : Nat :=
  s.launches.foldl (fun n e => if e.2.fields.contains f then max n e.2.fmin else n) 600
/-- Every launch resident in a field is granted boost (R19). -/
def State.boostOk (s : State) (f : Nat) : Bool := s.launches.all fun l => !l.2.fields.contains f || l.2.boost
/-- The module draws less than its cap (R454). -/
def State.headroom (s : State) : Bool := decide (fld s.modtel 0 16 < fld s.modtel 16 16)
/-- A frequency that Saffron may set a field to: a step, no lower than its floor, at which it needs no more than VMAX; above 1,250 MHz
only with boost, with headroom, and one step at a time (R19, R444, R445, R454). -/
def State.freqOk (s : State) (f freq : Nat) : Bool :=
  freq % 50 == 0 && decide (600 ≤ freq ∧ freq ≤ 1600 ∧ s.floorOf f ≤ freq) && !Config.needsMoreThanVmax f freq &&
  (decide (freq ≤ 1250) || s.boostOk f && s.headroom && decide (freq ≤ (s.fieldAt f).freq.toNat + 50))
/-- Saffron controls a field: it is neither tripped nor short of sensors (R457, R458). -/
def Field.governed (k : Field) : Bool := !k.trip && k.sflt == 0
/-- The fields of a region that Saffron controls. -/
def State.governedIn (s : State) (f : Nat) : List Nat := (s.regionFields f).filter fun g => (s.fieldAt g).governed
/-- The supply of fields at a frequency: the lowest 5 mV step that the slowest of them needs at its present temperature (R445). -/
def State.voltOf (s : State) (fs : List Nat) (freq : Nat) : BitVec 12 :=
  BitVec.ofNat 12 (fs.foldl (fun v g => max v ((Config.voltFor g freq (s.fieldAt g).tlog.toInt).toNat / 5 * 5)) 0)

/-- No change of operating point is in progress (R446). -/
def Field.atRest (k : Field) : Bool := k.settled && k.freq == k.freqGoal && k.voltGoal.isNone
/-- A change of operating point begins (R446): up, the supply at once, the clock once it has settled; down, the supply after the
clock has switched. -/
def Field.aim (k : Field) (freq : Nat) (volt : BitVec 12) (now : Nat) : Field :=
  let k := { k with freqGoal := BitVec.ofNat 16 freq, changeAt := now, boost := decide (1250 < freq) }
  if k.freq.toNat < freq || (k.freq.toNat == freq && decide (k.supply.toNat < volt.toNat)) then
    { k with volt := some volt, voltGoal := none, settled := false }
  else if k.freq.toNat == freq then
    (if k.supply == volt then { k with voltGoal := none } else { k with voltGoal := some volt, settled := false })
  else { k with voltGoal := some volt }
/-- EBFILL for the engine power cap at the set frequency (R450), so that a change of frequency keeps the power (R454). -/
def fillFor (cap freq : Nat) : BitVec 24 := BitVec.ofNat 24 (256 * cap / freq)
/-- The core clock switches, at the boundary of a core cycle, when the supply stands (R446). -/
def Field.switchClock (k : Field) : Field :=
  if k.settled && k.freq != k.freqGoal then
    { k with freq := k.freqGoal, ebfill := fillFor k.ecap k.freqGoal.toNat, settled := k.voltGoal.isNone }
  else k
/-- The supply has settled: the level that it was raised to stands, or the level that a lowering ends with is reached. -/
def Field.settle (k : Field) : Field :=
  if k.settled then k
  else match k.voltGoal with
    | some v => if k.freq == k.freqGoal then { k with volt := some v, voltGoal := none, settled := true } else { k with settled := true }
    | none => { k with settled := true }

/-- The frequency a region goes to when its fields, floors or grants change: the lowest set in its fields, at most 1,250 MHz where some
launch lacks boost or the module headroom, and no lower than any floor (R19, R210, R447, R454). -/
def State.regionGoal (s : State) (fs : List Nat) : Nat :=
  let low := fs.foldl (fun n g => min n (s.fieldAt g).freqGoal.toNat) 1600
  fs.foldl (fun n g => max n (s.floorOf g)) (if fs.all s.boostOk && s.headroom then low else min low 1250)
/-- Fields are set to one frequency, with the supply that the slowest of them needs. -/
def State.aimAll (s : State) (fs : List Nat) (freq : Nat) : State :=
  let v := s.voltOf fs freq
  fs.foldl (fun s g => s.onField g fun k => k.aim freq v s.vtime.toNat) s
/-- The supply that a field is set to. -/
def Field.setVolt (k : Field) : BitVec 12 := k.voltGoal.getD k.supply
/-- A field's region shares one frequency and one voltage (R447): one that does, at a frequency it may have, is left alone; else its
fields change to the frequency it goes to. -/
def State.alignRegion (s : State) (f : Nat) : State :=
  let fs := s.governedIn f
  let goal := s.regionGoal fs
  if (fs.all fun g => (s.fieldAt g).freqGoal.toNat == goal) && (fs.map fun g => (s.fieldAt g).setVolt).eraseDups.length ≤ 1 then s
  else s.aimAll fs goal
/-- Some fields' regions. -/
def State.alignAll (s : State) (fs : List Nat) : State := fs.foldl (fun s f => s.alignRegion f) s

/-- Regions that Saffron may form: no field of a launch without boost shares one whose floors lie above 1,250 MHz (R19, R447), and no
field needs more than VMAX at the frequency its region goes to (R445). -/
def State.regionsFit (s : State) (rs : List (Nat × Nat × Nat × Nat)) : Bool :=
  regionsOk rs && rs.all fun r =>
    let fs := (List.range Config.nFields).filter (inRect r)
    (fs.all (fun g => decide (s.floorOf g ≤ 1250)) || fs.all s.boostOk) &&
    (let gs := fs.filter fun g => (s.fieldAt g).governed
     let goal := s.regionGoal gs
     !gs.any fun g => Config.needsMoreThanVmax g goal)
/-- Saffron forms the regions. -/
def State.formRegions (s : State) (rs : List (Nat × Nat × Nat × Nat)) : State :=
  rs.foldl (fun s r => match (List.range Config.nFields).find? (inRect r) with
    | some f => s.alignRegion f
    | none => s) { s with regions := rs }

/-- Saffron may change a field's region to a frequency: no change is in progress there, and each of its fields may have it. -/
def State.mayChange (s : State) (f freq : Nat) : Bool :=
  (s.fieldAt f).governed && (s.governedIn f).all fun g => (s.fieldAt g).atRest && s.freqOk g freq
/-- Saffron changes the operating point of a field's region. -/
def State.changeField (s : State) (f freq : Nat) : State :=
  if s.mayChange f freq then s.aimAll (s.governedIn f) freq else s
/-- The supply of a field's region has settled. -/
def State.settleField (s : State) (f : Nat) : State := (s.governedIn f).foldl (fun s g => s.onField g Field.settle) s
/-- A change of operating point completes within 20 µs (R446): the supply settles 19,000 vault clocks after it began at the latest,
which leaves a thousand for the switch of the clock. -/
def State.settleDue (s : State) : State :=
  (s.fields.map fun e => e.1).foldl (fun s f =>
    if !(s.fieldAt f).atRest && decide ((s.fieldAt f).changeAt + 19000 ≤ s.vtime.toNat) then s.onField f Field.settle else s) s

/-- FVF as Saffron writes it: FLOOR and BOOST as they are written, and an operating point that the field's region may have, at the
supply it needs; a write of another one is none that Saffron makes (R5, R210, R444 to R446). -/
def State.writeFvf (s : State) (f : Nat) (v : Word) : State :=
  let fs := s.governedIn f
  let freq := fld v 0 16
  if s.mayChange f freq && fld v 32 12 == (s.voltOf fs freq).toNat then
    (s.aimAll fs freq).onField f fun k => { k with floor := v.extractLsb' 48 16, boost := v.getLsbD 44 }
  else s

end Sys2Proof.Machine
end

