-- ==== Sys2Proof/Machine/Registers.lean ====
section
/-! DEFINITION. Machine/Registers.lean: registers that the Mace network, the supervisor or the host reads and writes (R5 to
R8), under the access codes of their tables, and the register events. -/
namespace Sys2Proof.Machine
open Sys2Proof

/-! ### Power and telemetry registers (Tables 19-1, 19-3) -/

/-- FVF: VOLT and FREQ are what Saffron has set, also while the change to it is in progress (R5, R446). -/
def Field.fvf (k : Field) : Word :=
  BitVec.ofNat 64 (packFields [(k.floor.toNat, 48), (ofBool k.trip, 45), (ofBool k.boost, 44), (k.setVolt.toNat, 32), (k.freqGoal.toNat, 0)])
def Field.pwctl (k : Field) : Word := BitVec.ofNat 64 (packFields [(k.mstep.toNat, 56), (k.vstep.toNat, 48), (k.ebfill.toNat, 24)])
/-- EBBAL: whole tokens (R450). -/
def Field.ebbalReg (k : Field) : Word := BitVec.ofNat 64 (k.ebbal / 16)
def Field.ftel (k : Field) : Word :=
  BitVec.ofNat 64 (packFields [(k.tlog.toNat, 48), (k.tdram.toNat, 32), (k.scls.toNat, 30), (ofBool (k.sflt != 0), 29),
    (ofBool (k.dflt != 0), 28), (k.susp.toNat % 64, 22), (k.leak.toNat, 0)])

/-- Writing a duty pattern restarts the count of core cycles and closes the slew windows in progress (R198, R449). -/
def State.writeDuty (s : State) (f : Nat) (v : Word) : State :=
  { s.onField f (fun k => { k with duty := v, cycle := 0 }) with
    cells := s.cells.map fun e => if fieldOf e.1 = f then
        (e.1, { e.2 with slewVp := e.2.slewV, slewV := 0, slewMp := e.2.slewM, slewM := 0 }) else e }

/-- The engine power cap in mW that a refill stands for at a frequency: the least one with this EBFILL (R450). -/
def capOf (fill freq : Nat) : Nat := (fill * freq + 255) / 256
/-- PWCTL: MSTEP, VSTEP and EBFILL, with the engine power cap that EBFILL stands for. -/
def Field.putPwctl (k : Field) (v : Word) : Field :=
  { k with mstep := v.extractLsb' 56 8, vstep := v.extractLsb' 48 8, ebfill := v.extractLsb' 24 24, ecap := capOf (fld v 24 24) k.freq.toNat }
/-- An engine power cap, with the refill it gives at the frequency of the clock (R450). -/
def Field.putCap (k : Field) (cap : Nat) : Field := { k with ecap := cap, ebfill := fillFor cap k.freq.toNat }

/-! ### Engine power (R453, R460) -/

/-- The effective module cap in W at a coolant outlet temperature in 1/16 °C (R460). -/
def moduleCap (tout : Int) : Nat := if tout ≤ 65 * 16 then 36000 else 36000 - 2000 * ((tout - 65 * 16) / 16).toNat
def State.tout (s : State) : Int := sfld s.modtel 32 16
/-- The engine power in mW that resident launches declare for a field. -/
def State.declared (s : State) (f : Nat) : Nat :=
  s.launches.foldl (fun n l => n + (l.2.engine.filter fun e => e.1 == f).foldl (fun n e => n + e.2) 0) 0
/-- Reserved power in mW, and the power of the engine caps that no reservation covers. -/
def State.reserved (s : State) : Nat := s.launches.foldl (fun n l => n + l.2.reserve) 0
def State.unreserved (s : State) (fs : List Nat) : Nat := fs.foldl (fun n f => n + ((s.fieldAt f).ecap - s.declared f)) 0
/-- The largest engine power cap that a field may have: what is declared for it, and what the module cap leaves beside the reservations
and the unreserved power of the other fields (R453, R460). -/
def State.capFor (s : State) (f : Nat) : Nat :=
  s.declared f + (moduleCap s.tout * 1000 - s.reserved - s.unreserved ((s.fields.map fun e => e.1).filter fun g => g != f))
/-- Saffron lowers EBFILL of unreserved power to meet the cap (R453, R460). -/
def State.meetCap (s : State) (f : Nat) : State :=
  if s.capFor f < (s.fieldAt f).ecap then s.onField f fun k => k.putCap (s.capFor f) else s

/-! ### Writes -/

/-- A slew step (Table 19-1). -/
def stepOk (n : Nat) : Bool := decide (1 ≤ n ∧ n ≤ 64)
/-- The logic estimate is above 103 °C: Saffron lowers EBFILL, then the duty pattern (R25, R458). -/
def Field.hot (k : Field) : Bool := decide (103 * 16 < k.tlog.toInt)
/-- A duty pattern that Saffron may write (R198): at least 8 bits set, and no cyclic run of more than 15 zeros. -/
def dutyOk (v : Word) : Bool :=
  decide (8 ≤ countBits 64 v.toNat) && (List.range 64).all fun i => (List.range 16).any fun j => v.getLsbD ((i + j) % 64)
/-- PWCTL that Saffron may write: slew steps of 1 to 64, a refill within the power cap (R453, R460), and in a hot field a lower one, or
none where it is none (R458). -/
def State.pwctlOk (s : State) (f : Nat) (v : Word) : Bool :=
  let k := s.fieldAt f
  stepOk (fld v 56 8) && stepOk (fld v 48 8) && decide (capOf (fld v 24 24) k.freq.toNat ≤ max (s.capFor f) k.ecap) &&
  (!k.hot || decide (fld v 24 24 < k.ebfill.toNat) || fld v 24 24 == 0)
def State.writePwctl (s : State) (f : Nat) (v : Word) : State :=
  if s.pwctlOk f v then s.onField f fun k => k.putPwctl v else s
/-- DUTY as Saffron writes it: in a hot field, no pattern with more issue slots. -/
def State.putDuty (s : State) (f : Nat) (v : Word) : State :=
  let k := s.fieldAt f
  if !dutyOk v || (k.hot && decide (countBits 64 k.duty.toNat < countBits 64 v.toNat)) then s else s.writeDuty f v

/-- HTAB and AHTAB entries, with their reserved bits zero (Table 9-1). -/
def htabOf (v : Word) : Word := putFld v 22 31 0

/-- The mailbox control register; a write while GO is 1 is dropped and sets OVR (Table 20-2). -/
def State.writeMbctl (s : State) (v : Word) : State :=
  if s.mbctl.getLsbD 0 then { s with mbstat := s.mbstat ||| 1 }
  else { s with mbctl := BitVec.ofNat 64 (fld v 32 16 * 2 ^ 32 + fld v 0 16) }

/-- A channel whose launch is pre-empted, or that none has (R391). -/
def State.chanQuiet (s : State) (chan : Nat) : Bool := s.launches.all fun l => !l.2.chans.contains chan || l.2.snap
/-- TREECH (Table 17-1) and ANMASK (Table 17-2) as they are stored. -/
def State.putTreech (s : State) (c n : Nat) (v : Word) : State := s.onCell c fun k => { k with treech := k.treech.set n (putFld v 0 54 0) }
def State.putAnmask (s : State) (l n c : Nat) (v : Word) : State := { s with anmask := s.anmask.set (nodeKey l n c) (v.setWidth 16) }
/-- The registers of a cell and its cluster that change only at a quiesced point: VSW (R133), ring descriptors (R66), CBMASK (R305). -/
def placeCsr (n : Nat) : Bool := decide ((0x120 ≤ n ∧ n < 0x128) ∨ (0x1C0 ≤ n ∧ n < 0x1E0) ∨ (0x200 ≤ n ∧ n < 0x2A0))
/-- A quiesced point of what such a register belongs to. -/
def State.placeQuiet (s : State) (c n : Nat) : Bool :=
  if n < 0x200 then s.quiesced c else s.launches.all fun l => !l.2.clusters.contains (clusterOf c) || l.2.snap

/-- A register write under its access codes. -/
def State.writeReg (s : State) (r : RegRef) (v : Word) : State :=
  match r with
  | .ctxCsr c x n => s.csrPut c x (if n.toNat < 0x100 then n.toNat else 0xFF) true v
  | .cellCsr c n => if placeCsr n.toNat && !s.placeQuiet c n.toNat then s else s.cellCsrPut c n.toNat true v
  | .cellCfg c => s.cellCsrPut c 0x106 true v
  | .codeRgn c => s.cellCsrPut c 0x107 true v
  | .htab c i => s.onCell c fun k => { k with htab := k.htab.set i (htabOf v) }
  | .ahtab c i => s.onCell c fun k => { k with ahtab := k.ahtab.set i (htabOf v) }
  | .treech c n => if s.quiesced c && s.chanQuiet n then s.putTreech c n v else s
  | .vrmap c b i => s.onCell c fun k =>
      { k with vault := { k.vault with vrmap := k.vault.vrmap.set (b * 128 + i) (v.setWidth 16 &&& 0x9FFF) } }
  | .fsslc f sl => s.writeMode f sl (v.extractLsb' 62 2)
  | .fcb f n => s.writeFcb f n v
  | .fvf f => s.writeFvf f v
  | .pwctl f => s.writePwctl f v
  | .ebcap f => s.onField f fun k => { k with ebcap := v.setWidth 32 }
  | .duty f => s.putDuty f v
  | .anmask l n c => if s.chanQuiet c then s.putAnmask l n c v else s
  | .anpad => if s.launches.all fun l => l.2.snap then { s with anpadPad := v.setWidth 16 } else s
  | .slkcfg g => s.onGate g fun k => { k with slkcfg := putFld v 0 52 0 }
  | .slkpark g => s.onGate g fun k => k.putPark v
  | .pgrant h => { s with pgrant := s.pgrant.set h (putFld (putFld v 49 15 0) 16 16 0) }
  | .hwin n => { s with hwin := s.hwin.set n (putFld (putFld v 35 2 0) 0 30 0) }
  | .mbctl => s.writeMbctl v
  | .mbstat => { s with mbstat := if v.getLsbD 0 then putFld s.mbstat 0 1 0 else s.mbstat }
  | r => s.rebind r v

/-- A register that Sumac rewrites at a rebinding besides the tables (R66, R83, R305, R391), whose launches stand still or run on. -/
def State.placeReg (s : State) (r : RegRef) (v : Word) : State :=
  match r with
  | .cellCsr c n => if placeCsr n.toNat then s.cellCsrPut c n.toNat true v else s
  | .treech c n => s.putTreech c n v
  | .anmask l n c => s.putAnmask l n c v
  | .fcb f n => if !v.getLsbD 63 || (((s.fieldAt f).slice (fld v 56 7)).mode == 1 && ((s.fieldAt f).slice (fld v 56 7)).live != 0) then
      s.bindCache f n (fcbOf v) else s
  | _ => s

/-- REGISTER_WRITE (R5). -/
def execRegisterWrite (r : RegRef) (v : BitVec 64) (s : State) : Host.Outcome State Fault Refusal :=
  run s fun m => m.on fun s => s.writeReg r v

/-! ### Register events (R8, R41, R148, R187, R279, R315, R337, R367, R462) -/

/-- HERR_READ: the count is returned, then cleared. -/
def execHerrRead (s : State) : Host.Outcome State Fault Refusal := run s fun m => m.on fun s => { s with herr := 0 }
/-- HDROP_READ. -/
def execHdropRead (cell : Nat) (s : State) : Host.Outcome State Fault Refusal :=
  run s fun m => m.on fun s => s.csrSide cell 0x108
/-- STERR_CLEAR: the CLR write of STERR. -/
def execSterrClear (cell x : Nat) (s : State) : Host.Outcome State Fault Refusal :=
  run s fun m => m.on fun s => s.onCtx cell x Ctx.clrSterr
/-- VXSTAT_CLEAR. -/
def execVxstatClear (cell x : Nat) (s : State) : Host.Outcome State Fault Refusal :=
  run s fun m => m.on fun s => s.onCtx cell x fun c => { c with vxstat := clrVx c.vxstat }
/-- MXSTAT_CLEAR. -/
def execMxstatClear (cell x : Nat) (s : State) : Host.Outcome State Fault Refusal :=
  run s fun m => m.on fun s => s.onCtx cell x fun c => { c with mxstat := clrMx c.mxstat }
/-- TXSTAT_CLEAR. -/
def execTxstatClear (cell x : Nat) (s : State) : Host.Outcome State Fault Refusal :=
  run s fun m => m.on fun s => s.onCtx cell x fun c => { c with txstat := clrTx c.txstat }
/-- SEMOVF_CLEAR: bits written 1 clear. -/
def execSemovfClear (cell : Nat) (mask : BitVec 64) (s : State) : Host.Outcome State Fault Refusal :=
  run s fun m => m.on fun s => s.onCell cell fun k => k.clearOvf mask
/-- SRSEED_WRITE: 0 is stored as 1. -/
def execSrseedWrite (cell x : Nat) (v : BitVec 64) (s : State) : Host.Outcome State Fault Refusal :=
  run s fun m => m.on fun s => s.onCtx cell x fun c => { c with srseed := if v = 0 then 1 else v }

end Sys2Proof.Machine
end

