-- ==== Sys2Proof/Machine/HostPort.lean ====
section
/-! DEFINITION. Machine/HostPort.lean: the host's accesses (R180, R462 to R464), the management mailbox (Table 20-3, R408,
R432, R441, R459, R466 to R468, R491) and ATS (R37, R465). -/
namespace Sys2Proof.Machine
open Sys2Proof

/-! ### Host accesses (R180, R462) -/

/-- A host access as a remote access on VC7 from G0 (R180): to a place of HDM range 0, or by the address of a window. -/
def State.hostAcc (s : State) (a : HostAcc) (addr : Word) (place : Option Place) (op : Op) : Acc :=
  { id := s.fresh, who := .host, cell := Config.nCells + 2 ^ 22, vc := 7, addr := addr, place := place,
    len := match a.wr with
      | some d => d.length
      | none => a.len,
    op := op, back := .host, gen := s.gen.setWidth 2 }
/-- An access of range 0: a write meets the filter where it is performed (R463). -/
def State.recordAcc (s : State) (a : HostAcc) : Acc :=
  s.hostAcc a 0 (some (hdm0 a.off)) (match a.wr with
    | some d => .record a.off d a.poi
    | none => .read)
/-- The address that a window gives an access (R462); none where the window is not enabled, or its TAG [3:0] is not 0 (R40). -/
def State.windowAddr (s : State) (off : Nat) : Option Word :=
  let n := off / 2 ^ 30
  let w := s.hwin.get 0 n
  if w.getLsbD 63 ∧ n < 8 ∧ fld w 37 4 = 0 then
    some (BitVec.ofNat 64 (fld w 37 24 * 2 ^ 37 + fld w 61 2 * 2 ^ 35 + (fld w 30 5 * 2 ^ 30 + off % 2 ^ 30)))
  else none
/-- An access through a window. -/
def State.windowAcc (s : State) (a : HostAcc) (addr : Word) : Acc :=
  s.hostAcc a addr none (match a.wr with
    | some d => .write (d.map fun b => (b, a.poi))
    | none => .read)
/-- An access enters the mesh at G0, or, without a home, is completed with an error. -/
def M.hostSend (m : M) (a : Acc) (home : Bool) : M :=
  let m := m.on fun s => { s with fresh := s.fresh + 1 }
  if home then m.on fun s => { s with net := s.net ++ [a] } else m.dropAcc a cSpace .sys

/-- The mailbox payload (BAR0 0x1000 to 0x1FFF). -/
def State.payload (s : State) (n : Nat) : List Byte := (List.range n).map fun i => s.mbox.get 0 i
def State.setPayload (s : State) (off : Nat) (d : List Byte) : State :=
  { s with mbox := (List.range d.length).foldl (fun t i => if off + i < 4096 then Tab.set t (off + i) (d.getD i 0) else t) s.mbox }

/-- HOST_MEM_ACCESS: range 0, a window of range 1, or (range 2) the mailbox payload, whose writes are closed while GO is 1. -/
def execHostMemAccess (a : HostAcc) (s : State) : Host.Outcome State Fault Refusal :=
  run s fun m =>
    match a.range, a.wr with
    | 0, wr => m.hostSend (m.s.recordAcc a) (decide (a.off + (match wr with
        | some d => d.length
        | none => a.len) ≤ 0x10000))
    | 1, _ =>
        (match m.s.windowAddr a.off with
         | some w => m.hostSend (m.s.windowAcc a w) true
         | none => m.hostSend (m.s.windowAcc a 0) false)
    | 2, some d =>
        m.on fun s => if s.mbctl.getLsbD 0 then { s with mbstat := s.mbstat ||| 1 } else s.setPayload a.off d
    | 2, none =>
        (m.respond (m.s.hostAcc a 0 none .read) ((List.range a.len).map fun i => (m.s.mbox.get 0 (a.off + i), false)) none).on fun s =>
          { s with fresh := s.fresh + 1 }
    | _, _ => m

/-- MAILBOX_OVERRUN: a write to MBCTL or to the payload while GO is 1 is dropped and sets OVR (R462). -/
def execMailboxOverrun (_payload : Bool) (s : State) : Host.Outcome State Fault Refusal :=
  run s fun m => m.on fun s => if s.mbctl.getLsbD 0 then { s with mbstat := s.mbstat ||| 1 } else s

/-! ### Mailbox commands -/

/-- A command waits in MBCTL. -/
def State.mbWaits (s : State) (opc : Nat) : Bool := s.mbctl.getLsbD 0 && fld s.mbctl 1 15 == opc
def State.mbLen (s : State) : Nat := fld s.mbctl 32 16
/-- A command completes: RC is set and GO clears. -/
def State.mbDone (s : State) (rc : Nat) : State := { s with mbctl := putFld s.mbctl 0 1 0, mbstat := putFld s.mbstat 8 8 rc }
/-- It completes with a payload. -/
def State.mbOut (s : State) (d : List Byte) : State :=
  let s := s.setPayload 0 d
  ({ s with mbctl := putFld s.mbctl 32 16 d.length } : State).mbDone 0
/-- Run a command. -/
def mailbox (opc : Nat) (f : State → State) (s : State) : Host.Outcome State Fault Refusal :=
  run s fun m => m.on fun s => if s.mbWaits opc then f s else s

/-- Little-endian bytes of a number, and back. -/
def leBytes (n v : Nat) : List Byte := (bytesOf n v).map fun e => e.1
def leNum (d : List Byte) : Nat := numOf (d.map fun b => (b, false))

/-- The parts of a firmware image (R466; the header's layout is the model's own, log 12): VER, SVN, LEN, digest. -/
def imageVer (d : List Byte) : Nat := leNum (d.take 4)
def imageSvn (d : List Byte) : Nat := leNum ((d.drop 4).take 4)
def imageLen (d : List Byte) : Nat := leNum ((d.drop 8).take 8)
def imageDigest (d : List Byte) : List Byte := (d.drop 16).take 32

/-- Boot stops with a failure code in the payload (R469); the spec gives no codes (log 9). -/
def State.bootFail (s : State) : State :=
  let (v, s) := s.takeFree
  { s.setPayload 0 [v.setWidth 8] with bootst := 0xFF }

/-- The boot ROM passes an image: its signature verifies, its digest matches and its SVN is not below the fused minimum (R466). -/
def State.imageOk (s : State) (img : List Byte) : Bool :=
  Config.xmssVerifies (img.take 4096) && decide (s.fw.minSvn ≤ imageSvn img) &&
  Config.shake256 ((img.drop 4096).take (imageLen img)) == imageDigest img
/-- An image that has passed runs, and its own code may raise the fused minimum to `floor`, never above its own SVN (R466).  DESIGN CHOICE
(log 84): it does so as it starts. -/
def State.runImage (s : State) (img : List Byte) (floor : Nat) : State :=
  { s with bootst := 2, fw := { s.fw with ver := imageVer img, svn := imageSvn img, digest := imageDigest img,
                                          minSvn := max s.fw.minSvn (min (imageSvn img) floor) } }
/-- FWLOAD: the segment joins the image; a complete one is verified by the boot ROM. -/
def execFwload (floor : Nat) (s : State) : Host.Outcome State Fault Refusal :=
  mailbox 1 (fun s =>
    if s.bootst ≠ 1 then s.mbDone 3
    else if 4096 < s.mbLen ∨ s.mbLen = 0 then s.mbDone 2
    else
      let img := s.fw.image ++ s.payload s.mbLen
      let s := { s with fw := { s.fw with image := img } }
      if img.length < 4096 ∨ img.length < 4096 + imageLen img then s.mbDone 0
      else if s.imageOk img then (s.runImage img floor).mbDone 0
      else (({ s with fw := { s.fw with image := [] } } : State).bootFail).mbDone 3) s

/-- GETID returns both certificates (R467). -/
def execGetid (s : State) : Host.Outcome State Fault Refusal := mailbox 2 (fun s => s.mbOut Config.certificates) s

/-- The bytes of the live map (R470). -/
def State.liveMap (s : State) : List Byte := (s.bytesAt (hdm0 0x4000) 15448).map fun e => e.1

/-- ATTEST: the leaf counter advances before the report is signed; with every leaf spent it returns 3 (R468). -/
def execAttest (s : State) : Host.Outcome State Fault Refusal :=
  mailbox 3 (fun s =>
    if s.mbLen ≠ 32 then s.mbDone 2
    else if 2 ^ 20 ≤ s.fw.leaf then s.mbDone 3
    else
      let report := s.payload 32 ++ s.fw.digest ++ leBytes 4 s.fw.svn ++ Config.shake256 s.liveMap ++ leBytes 4 s.fw.leaf
      let s := { s with fw := { s.fw with leaf := s.fw.leaf + 1 } }
      s.mbOut (report ++ Config.signature report)) s

/-- DUMPBUF registers the address and size of the dump buffer (R441). -/
def execDumpbuf (s : State) : Host.Outcome State Fault Refusal :=
  mailbox 4 (fun s =>
    if s.mbLen ≠ 16 then s.mbDone 2 else ({ s with fw := { s.fw with dump := s.payload 16 } } : State).mbDone 0) s

/-- HALT signals halt groups, or releases them (R432). -/
def execHalt (s : State) : Host.Outcome State Fault Refusal :=
  mailbox 5 (fun s =>
    if s.mbLen < 3 then s.mbDone 2
    else
      let v := leNum (s.payload 4)
      let g := BitVec.ofNat 16 v
      (if v / 2 ^ 16 % 2 = 1 then { s with haltGroups := s.haltGroups &&& ~~~g } else s.signal g).mbDone 0) s

/-- TELEM returns FVF, PWCTL, FTEL and FENERGY of a field, or MODTEL (R459). -/
def execTelem (s : State) : Host.Outcome State Fault Refusal :=
  mailbox 6 (fun s =>
    let f := leNum (s.payload 1)
    if s.mbLen = 0 then s.mbDone 2
    else if f = 0xFF then s.mbOut (leBytes 8 s.modtel.toNat)
    else if Config.nFields ≤ f then s.mbDone 2
    else
      let k := s.fieldAt f
      s.mbOut (leBytes 8 k.fvf.toNat ++ leBytes 8 k.pwctl.toNat ++ leBytes 8 k.ftel.toNat ++ leBytes 8 k.energy.toNat)) s

/-- GRANT proposes PGRANT[h]; the policy is the firmware's (`approve`) (R491). -/
def execGrant (approve : Bool) (s : State) : Host.Outcome State Fault Refusal :=
  mailbox 7 (fun s =>
    let h := leNum (s.payload 1)
    let v := leNum ((s.payload 16).drop 8)
    let fmax := v % 2 ^ 16
    let pmax := v / 2 ^ 32 % 2 ^ 16
    if s.mbLen ≠ 16 ∨ 15 < h ∨ leNum ((s.payload 8).drop 1) ≠ 0 ∨ v / 2 ^ 49 ≠ 0 ∨ v / 2 ^ 16 % 2 ^ 16 ≠ 0 ∨
        ¬(fmax = 0 ∨ (600 ≤ fmax ∧ fmax ≤ 1600)) ∨ 36000 < pmax then s.mbDone 2
    else if approve then ({ s with pgrant := s.pgrant.set h (BitVec.ofNat 64 v) } : State).mbDone 0
    else s.mbDone 3) s

/-- Some launch is BINDING or RUNNING. -/
def State.busyLaunch (s : State) : Bool := (List.range 64).any fun i => s.recState i == 3 || s.recState i == 4

/-- A torus list as SYSCFG carries it (R408): this wafer's id, the sizes, and each wafer with its coordinates. -/
def torusOf (d : List Byte) : Nat × List Nat × List (Nat × List Nat) :=
  let num (o n : Nat) : Nat := leNum ((d.drop o).take n)
  let k := num 1 1
  (num 0 1, (List.range (min k 4)).map (fun i => num (4 + 2 * i) 2),
    (List.range (num 2 2)).map fun j => (num (16 + 8 * j) 1, (List.range (min k 4)).map fun i => num (17 + 8 * j + i) 1))

/-- The neighbour of some coordinates in a dimension and direction. -/
def neighbour (dims c : List Nat) (dim dir : Nat) : List Nat :=
  let n := dims.getD dim 1
  (List.range c.length).map fun i =>
    if i = dim then (c.getD i 0 + (if dir = 0 then 1 else n - 1)) % n else c.getD i 0

/-- The conditions of R408 on a SYSCFG payload. -/
def State.torusOk (s : State) (d : List Byte) : Bool :=
  let num (o n : Nat) : Nat := leNum ((d.drop o).take n)
  let (own, dims, l) := torusOf d
  let m := num 2 2
  let ids := l.map fun e => e.1
  let cs := l.map fun e => e.2
  decide (num 1 1 ≤ 4) && decide (1 ≤ m ∧ m ≤ 256) && decide (d.length = 16 + 8 * m) && num 12 4 == 0 &&
  ((List.range 4).all fun i => decide (i < dims.length) || num (4 + 2 * i) 2 == 0) &&
  ((List.range m).all fun j => num (21 + 8 * j) 3 == 0 && (List.range 4).all fun i => decide (i < dims.length) || num (17 + 8 * j + i) 1 == 0) &&
  dims.foldl (· * ·) 1 == m && ids.eraseDups.length == m && cs.eraseDups.length == m &&
  (cs.all fun c => (List.range dims.length).all fun i => decide (c.getD i 0 < dims.getD i 0)) && ids.contains own &&
  ((List.range 8).all fun g =>
    let v := (s.gateAt g).slkcfg
    !v.getLsbD 63 || (match l.find? fun e => e.1 == own with
      | some (_, c) => decide (fld v 61 2 < dims.length) && (l.any fun e => e.1 == fld v 52 8 && e.2 == neighbour dims c (fld v 61 2) (fld v 60 1))
      | none => false))

/-- SYSCFG sets the wafer id and the torus list (R408). -/
def execSyscfg (s : State) : Host.Outcome State Fault Refusal :=
  mailbox 8 (fun s =>
    let d := s.payload s.mbLen
    if s.busyLaunch then s.mbDone 4
    else if s.torusOk d then
      let (own, dims, l) := torusOf d
      ({ s with waferId := BitVec.ofNat 8 own, dims := dims, torus := l } : State).mbDone 0
    else s.mbDone 2) s

/-- UNKNOWN_MAILBOX_COMMAND: any other OPC completes with RC 1. -/
def execUnknownMailboxCommand (s : State) : Host.Outcome State Fault Refusal :=
  run s fun m => m.on fun s =>
    let opc := fld s.mbctl 1 15
    if s.mbctl.getLsbD 0 && (opc == 0 || decide (8 < opc)) then s.mbDone 1 else s

/-! ### ATS (R37, R465) -/

/-- Entries and ways of the translation cache of G0, through whose port every access to host memory goes; the set of a page.  DESIGN
CHOICE (log 85): the spec gives 1,024 entries in 8 ways and no index or replacement; a set is chosen by the low bits of the page's
number, and the oldest entry of a full set makes room. -/
def Atc.set (e : Atc) : Nat := e.page % 128
def State.putAtc (s : State) (e : Atc) : State :=
  let rest := s.atc.filter fun o => !(o.pasid == e.pasid && o.page == e.page && o.order == e.order)
  let same := rest.filter fun o => o.set == e.set
  let rest := if same.length < 8 then rest else match same.head? with
    | some o => rest.erase o
    | none => rest
  { s with atc := rest ++ [e] }
/-- An access to a page of host memory. -/
def Acc.toPage (a : Acc) (pasid page : Nat) : Bool :=
  match a.place with
  | some p => p.r == .host pasid && p.off / 4096 == page
  | none => false

/-- ATS_MISS: a translation arrives, the page of a 4 KiB, 2 MiB or 1 GiB mapping (its order in steps of 9 bits); without
one, the accesses that wait for the page are dropped. -/
def execAtsMiss (pasid page : Nat) (entry : Option (Nat × Nat)) (s : State) : Host.Outcome State Fault Refusal :=
  run s fun m =>
    match entry with
    | some (h, k) =>
        let n := 512 ^ (min k 2)
        m.on fun s => s.putAtc { pasid := pasid, page := page / n, host := h / n, order := min k 2 }
    | none =>
        let lost := if (m.s.atsPage pasid page).isSome then [] else m.s.net.filter fun a => a.toPage pasid page
        lost.foldl (fun (m : M) a => m.dropAcc a cTrans .sys) (m.on fun s => { s with net := s.net.filter fun a => !lost.contains a })

/-- ATS_INVALIDATION: no later access uses the old translation; it completes only when no access that has used it is still half
performed (R465). -/
def execAtsInvalidation (pasid page : Nat) (s : State) : Host.Outcome State Fault Refusal :=
  run s fun m => m.on fun s =>
    let gone := s.atc.filter fun e => e.covers pasid page
    if s.net.any fun a => decide (a.done ≠ 0) && (match a.place with
        | some p => (match p.r with
          | .host i => gone.any fun e => e.covers i (p.off / 4096)
          | _ => false)
        | none => false) then s
    else { s with atc := s.atc.filter fun e => !e.covers pasid page }

end Sys2Proof.Machine
end

