-- ==== Sys2Proof/Machine/Image.lean ====
section
/-! DEFINITION. Machine/Image.lean: the Olvor graph image (R242 to R246): its header, sections and records, and the faults for
which the loader refuses it. -/
namespace Sys2Proof.Machine
open Sys2Proof

/-- One bit of CRC-32C (Castagnoli, reflected). -/
def crcBit (c : BitVec 32) : BitVec 32 := if c.getLsbD 0 then (c >>> 1) ^^^ 0x82F63B78 else c >>> 1
/-- CRC-32C of some bytes (R425). -/
def crc32c (d : List Byte) : BitVec 32 :=
  ~~~ d.foldl (fun c b => crcBit (crcBit (crcBit (crcBit (crcBit (crcBit (crcBit (crcBit (c ^^^ b.setWidth 32))))))))) 0xFFFFFFFF#32

/-! ### Records (Table 10-14) -/

structure NodeRec where
  lnode : Nat
  vc : Nat
  restart : Bool
  vprog : Bool
  adopt : Nat
  rep : Nat
  ii : Nat
  power : Nat
  deriving DecidableEq, Repr, Inhabited

structure EdgeRec where
  src : Nat
  dst : Nat
  vc : Nat
  crossing : Bool
  p : Nat
  c : Nat
  depth : Nat
  deriving DecidableEq, Repr, Inhabited

structure HandlerRec where
  vc : Nat
  lnode : Nat
  ctx : Nat
  fs : Bool
  entry : Nat
  deriving DecidableEq, Repr, Inhabited

structure RingRec where
  ring : Nat
  cfg : Word
  part : Nat
  deriving DecidableEq, Repr, Inhabited

structure TreeRec where
  chan : Nat
  level : Nat
  op : Nat
  ua : Bool
  lnode : Nat
  deriving DecidableEq, Repr, Inhabited

structure CollRec where
  op : Nat
  fmt : Nat
  port : Nat
  lnode : Nat
  count : Nat
  deriving DecidableEq, Repr, Inhabited

structure CacheRec where
  vclu : Nat
  vcell : Nat
  base : Nat
  len : Nat
  deriving DecidableEq, Repr, Inhabited

structure VrunRec where
  lnode : Nat
  off : Nat
  k : Nat
  deriving DecidableEq, Repr, Inhabited

structure DataRec where
  region : Nat
  lnode : Option Nat
  group : Option Nat
  offset : Nat
  data : List Byte
  deriving DecidableEq, Repr, Inhabited

structure ConfigRec where
  reg : Nat
  lnode : Nat
  value : Word
  deriving DecidableEq, Repr, Inhabited

/-- A graph image, read. -/
structure Graph where
  step : Nat
  npg : Nat
  nodes : List NodeRec
  edges : List EdgeRec := []
  handlers : List HandlerRec := []
  rings : List RingRec := []
  trees : List TreeRec := []
  colls : List CollRec := []
  caches : List CacheRec := []
  vruns : List VrunRec := []
  datas : List DataRec := []
  configs : List ConfigRec := []
  deriving DecidableEq, Repr, Inhabited

/-! ### Reading -/

/-- A number in some bytes. -/
def numAtB (d : List Byte) (o n : Nat) : Nat := leNum ((d.drop o).take n)
def zeroB (d : List Byte) (o n : Nat) : Bool := ((d.drop o).take n).all fun b => b == 0

def readNode (d : List Byte) : Option NodeRec :=
  let f := numAtB d 2 1
  let r : NodeRec := { lnode := numAtB d 0 1, vc := numAtB d 1 1, restart := f % 2 == 1, vprog := f / 2 % 2 == 1, adopt := numAtB d 3 1,
                       rep := numAtB d 4 4, ii := numAtB d 8 4, power := numAtB d 12 4 }
  if r.vc ≤ 5 ∧ f < 4 ∧ 1 ≤ r.adopt ∧ r.adopt ≤ 15 ∧ 1 ≤ r.rep ∧ zeroB d 16 16 then some r else none
def readEdge (d : List Byte) : Option EdgeRec :=
  let f := numAtB d 3 1
  let r : EdgeRec := { src := numAtB d 0 1, dst := numAtB d 1 1, vc := numAtB d 2 1, crossing := f % 2 == 1, p := numAtB d 4 2,
                       c := numAtB d 6 2, depth := numAtB d 8 4 }
  if r.vc ≤ 5 ∧ f < 2 ∧ 1 ≤ r.p ∧ 1 ≤ r.c ∧ zeroB d 12 4 then some r else none
def readHandler (d : List Byte) : Option HandlerRec :=
  let f := numAtB d 3 1
  let r : HandlerRec := { vc := numAtB d 0 1, lnode := numAtB d 1 1, ctx := numAtB d 2 1, fs := f % 2 == 1, entry := numAtB d 4 4 }
  if r.vc ≤ 5 ∧ r.ctx ≤ 3 ∧ f < 2 ∧ r.entry % 64 = 0 then some r else none
def readRing (d : List Byte) : Option RingRec :=
  let r : RingRec := { ring := numAtB d 0 1, cfg := BitVec.ofNat 64 (numAtB d 8 8), part := numAtB d 16 8 }
  if r.ring ≤ 19 ∧ zeroB d 1 7 ∧ r.cfg.getLsbD 63 ∧ r.part < 2 ^ 48 ∧ fld r.cfg 61 2 = 0 ∧ fld r.cfg 21 15 = 0 then some r else none
def readTree (d : List Byte) : Option TreeRec :=
  let f := numAtB d 3 1
  let r : TreeRec := { chan := numAtB d 0 1, level := numAtB d 1 1, op := numAtB d 2 1, ua := f % 2 == 1, lnode := numAtB d 4 1 }
  if r.chan ≤ 31 ∧ r.level ≤ 2 ∧ r.op ≤ 13 ∧ f < 2 ∧ zeroB d 5 3 then some r else none
def readColl (d : List Byte) : Option CollRec :=
  let r : CollRec := { op := numAtB d 0 1, fmt := numAtB d 1 1, port := numAtB d 2 1, lnode := numAtB d 3 1, count := numAtB d 4 4 }
  if r.op ≤ 2 ∧ ([0x00, 0x01, 0x03, 0x04, 0x20, 0x21, 0x22, 0x23].contains r.fmt) ∧ r.port ≤ 7 ∧ 1 ≤ r.count ∧ r.count ≤ 2 ^ 28 ∧ zeroB d 8 8
  then some r else none
def readCache (d : List Byte) : Option CacheRec :=
  let r : CacheRec := { vclu := numAtB d 0 1, vcell := numAtB d 1 1, base := numAtB d 2 2, len := numAtB d 4 2 }
  if r.vclu ≤ 11 ∧ r.vcell ≤ 15 ∧ r.base ≤ 1279 ∧ 1 ≤ r.len ∧ r.len ≤ 1280 ∧ zeroB d 6 2 then some r else none
def readVrun (d : List Byte) : Option VrunRec :=
  let r : VrunRec := { lnode := numAtB d 0 1, off := numAtB d 4 4, k := numAtB d 8 4 }
  if zeroB d 1 3 ∧ r.off % 8 = 0 ∧ zeroB d 12 4 then some r else none
def readConfig (d : List Byte) : Option ConfigRec :=
  let r : ConfigRec := { reg := numAtB d 0 2, lnode := numAtB d 2 1, value := BitVec.ofNat 64 (numAtB d 8 8) }
  if (r.reg = 0x107 ∨ (0x120 ≤ r.reg ∧ r.reg ≤ 0x127) ∨ (0x280 ≤ r.reg ∧ r.reg ≤ 0x29C ∧ r.reg % 4 = 0)) ∧ zeroB d 3 5 then some r else none

/-- The DATA records, n of them, and nothing after the last. -/
def readData : Nat → List Byte → Option (List DataRec)
  | 0, d => if d.isEmpty then some [] else none
  | n + 1, d =>
      let f := numAtB d 1 1
      let len := numAtB d 16 4
      let whole := 24 + (len + 7) / 8 * 8
      if d.length < whole ∨ 3 < numAtB d 0 1 ∨ 3 < f ∨ ¬zeroB d 3 1 ∨ len = 0 ∨ 2 ^ 31 < len ∨ ¬zeroB d 20 4 ∨
          ¬zeroB d (24 + len) (whole - 24 - len) then none
      else
        let r : DataRec := { region := numAtB d 0 1, lnode := if f % 2 = 1 then some (numAtB d 2 1) else none,
                             group := if f / 2 % 2 = 1 then some (numAtB d 4 4) else none, offset := numAtB d 8 8,
                             data := (d.drop 24).take len }
        (readData n (d.drop whole)).map fun l => r :: l

/-- The fixed-size records of a section: n records of k bytes that fill it.  DESIGN CHOICE (log 59): a section of another length is
refused with STATUS 0x0007, which R246 does not list (R242). -/
def readAll {α : Type} (f : List Byte → Option α) (k n : Nat) (d : List Byte) : Option (List α) :=
  if d.length ≠ k * n then none
  else
    let l := (List.range n).map fun i => f ((d.drop (k * i)).take k)
    if l.any Option.isNone then none else some (l.filterMap id)

/-- A section table entry: TYPE, COUNT, OFF, SLEN. -/
structure Section where
  kind : Nat
  count : Nat
  off : Nat
  len : Nat
  deriving DecidableEq, Repr, Inhabited

/-- The records of a section, none of them when it is absent. -/
def sectionOf {α : Type} (d : List Byte) (ss : List Section) (kind size : Nat) (f : List Byte → Option α) : Option (List α) :=
  match ss.find? fun e => e.kind == kind with
  | some e => readAll f size e.count ((d.drop e.off).take e.len)
  | none => some []

/-- Sections are of known types, each once, NODE among them, within the image and apart from each other (R242, R246). -/
def sectionsOk (n len : Nat) (ss : List Section) : Bool :=
  (ss.all fun e => decide (1 ≤ e.kind ∧ e.kind ≤ 10) && e.off % 8 == 0 && decide (64 + 16 * n ≤ e.off ∧ e.off + e.len ≤ len)) &&
  ((ss.map fun e => e.kind).eraseDups.length == ss.length) && (ss.any fun e => e.kind == 1) &&
  ((List.range ss.length).all fun i => (List.range ss.length).all fun j =>
    i == j || (match ss[i]?, ss[j]? with
      | some a, some b => decide (a.len = 0 ∨ b.len = 0 ∨ a.off + a.len ≤ b.off ∨ b.off + b.len ≤ a.off)
      | _, _ => true))

/-- The references of R246: every LNODE that a record names is defined, and each value once. -/
def Graph.refsOk (g : Graph) : Bool :=
  let has (l : Nat) : Bool := g.nodes.any fun n => n.lnode == l
  (List.range g.npg).all has && g.nodes.length == g.npg && g.handlers.all (fun h => has h.lnode) &&
  g.edges.all (fun e => has e.src && has e.dst) && g.trees.all (fun t => has t.lnode) && g.colls.all (fun c => has c.lnode) &&
  g.vruns.all (fun v => has v.lnode)

/-- Read an image of the stated length; none when the loader refuses it with STATUS 0x0007. -/
def readImage (d : List Byte) : Option Graph :=
  let n := numAtB d 6 2
  let npg := numAtB d 20 1
  let ss : List Section := (List.range n).map fun i =>
    { kind := numAtB d (64 + 16 * i) 2, count := numAtB d (66 + 16 * i) 2, off := numAtB d (68 + 16 * i) 4, len := numAtB d (72 + 16 * i) 4 }
  if d.length < 64 ∨ numAtB d 0 4 ≠ 0x4F564C31 ∨ numAtB d 4 2 ≠ 1 ∨ n = 0 ∨ 11 < n ∨ numAtB d 8 4 ≠ d.length ∨
      numAtB d 12 4 ≠ (crc32c (d.drop 16)).toNat ∨ npg = 0 ∨ 32 < npg ∨ ¬zeroB d 21 43 ∨ d.length < 64 + 16 * n ∨
      ¬((List.range n).all fun i => zeroB d (76 + 16 * i) 4) ∨ ¬sectionsOk n d.length ss then none
  else
    match sectionOf d ss 1 32 readNode, sectionOf d ss 2 16 readEdge, sectionOf d ss 3 8 readHandler, sectionOf d ss 4 24 readRing,
        sectionOf d ss 5 8 readTree with
    | some nodes, some edges, some handlers, some rings, some trees =>
        (match sectionOf d ss 6 16 readColl, sectionOf d ss 7 8 readCache, sectionOf d ss 8 16 readVrun, sectionOf d ss 10 16 readConfig,
            (match ss.find? fun e => e.kind == 9 with
             | some e => readData e.count ((d.drop e.off).take e.len)
             | none => some []) with
         | some colls, some caches, some vruns, some configs, some datas =>
             let g : Graph := { step := numAtB d 16 4, npg := npg, nodes := nodes, edges := edges, handlers := handlers, rings := rings,
                                trees := trees, colls := colls, caches := caches, vruns := vruns, datas := datas, configs := configs }
             if g.refsOk then some g else none
         | _, _, _, _, _ => none)
    | _, _, _, _, _ => none

/-- The bytes of the image a record names, through the translations of its PASID; none when a page has none or a byte is
poisoned. -/
def State.imageBytes (s : State) (pasid at_ len : Nat) : Option (List Byte) :=
  let p : Place := { r := .host pasid, off := at_ }
  if (List.range len).all fun i => (s.key p.r (p.off + i)).isSome then
    let d := s.bytesAt p len
    if anyPoi d then none else some (d.map fun e => e.1)
  else none

/-- The context that runs a node's handlers: that of its first HANDLER record. -/
def Graph.ctxOf (g : Graph) (l : Nat) : Option Nat := (g.handlers.find? fun h => h.lnode == l).map fun h => h.ctx

end Sys2Proof.Machine
end

