-- ==== Sys2Proof/Machine/Traps.lean ====
section
/-! DEFINITION. Machine/Traps.lean: the reports of stopped contexts (R419), the field manager's actions on them (R420), and
hardware-fatal faults (R418). -/
namespace Sys2Proof.Machine
open Sys2Proof

/-- STOP_REPORT: a stop reaches the field manager; HW_FATAL, PROGRESS and causes the launch has no handler for go on to the
supervisor (R419). -/
def execStopReport (cell x : Nat) (handled : Bool) (s : State) : Host.Outcome State Fault Refusal :=
  run s fun m => m.on fun s =>
    let c := s.ctxAt cell x
    if !c.stopped || c.told then s
    else
      let cause : Cause := c.tcause.setWidth 8
      let r : Report := { cause := cause, detail := c.tcause.extractLsb' 8 8, src := (c.tcause.extractLsb' 60 3).setWidth 4, tval := c.tval }
      let s := { s.onCtx cell x (fun c => { c with told := true }) with reports := s.reports ++ [(cell, x, r)] }
      if cause = cHwFatal ∨ cause = cProgress ∨ handled = false then { s with supLog := s.supLog ++ [(4 * cell + x, c.tcause)] } else s

/-- A released context's report is done with. -/
def State.acted (s : State) (cell x : Nat) : State :=
  { s with reports := s.reports.filter fun r => !(r.1 == cell && r.2.1 == x) }

/-- An action that releases a context (R420). -/
def State.release (s : State) (cell x : Nat) (f : Ctx → Ctx) : State :=
  if s.accepts cell x then (s.onCtx cell x f).acted cell x else s

/-- One that replays what a progress fault stopped also restarts the age of its item. -/
def State.replay (s : State) (cell x : Nat) (f : Ctx → Ctx) : State := (if s.accepts cell x then s.restartAge cell x else s).release cell x f

/-- RESUME. -/
def execResume (cell x : Nat) (s : State) : Host.Outcome State Fault Refusal :=
  run s fun m => m.on fun s => s.replay cell x Ctx.resume
/-- REDIRECT: the address must be 64-byte aligned. -/
def execRedirect (cell x : Nat) (addr : BitVec 64) (s : State) : Host.Outcome State Fault Refusal :=
  run s fun m => m.on fun s => if addr.toNat % 64 = 0 then s.replay cell x (fun c => c.redirect addr) else s
/-- ENDH. -/
def execEndh (cell x : Nat) (s : State) : Host.Outcome State Fault Refusal :=
  run s fun m => m.on fun s => s.release cell x Ctx.endh
/-- SETSLOT: refused while the slot is pending. -/
def execSetslot (cell x slot : Nat) (v : BitVec 64) (life : BitVec 3) (s : State) : Host.Outcome State Fault Refusal :=
  run s fun m => m.on fun s => s.onCtx cell x fun c =>
    if s.accepts cell x && !c.pending (BitVec.ofNat 6 slot) then c.slotWrite (BitVec.ofNat 6 slot) life { v := v } (c.ccount + 1) else c
/-- MODE. -/
def execMode (cell x : Nat) (sup : Bool) (s : State) : Host.Outcome State Fault Refusal :=
  run s fun m => m.on fun s => s.onCtx cell x fun c => if s.accepts cell x then c.setMode sup else c
/-- CLRSTAT: the CLR writes of STERR, VXSTAT, MXSTAT and TXSTAT. -/
def execClrstat (cell x : Nat) (s : State) : Host.Outcome State Fault Refusal :=
  run s fun m => m.on fun s => s.onCtx cell x fun c =>
    if s.accepts cell x then { c.clrSterr with vxstat := clrVx c.vxstat, mxstat := clrMx c.mxstat, txstat := clrTx c.txstat } else c

/-- HW_FATAL_FAULT: every context of the cell stops at once, its engines and its sequencer stop as under the gate; a failed
router forwards nothing (R418); a dump is due for the launches that hold the cell (R441). -/
def execHwFatalFault (cell unit : Nat) (s : State) : Host.Outcome State Fault Refusal :=
  run s fun m => m.on fun s =>
    if unit = 0 ∨ 7 < unit then s
    else
      let s := (List.range 4).foldl (fun s x =>
        let c := s.ctxAt cell x
        s.takeTrap cell x { cause := cHwFatal, src := 6, detail := BitVec.ofNat 8 unit, blk := c.nextAddr, tval := BitVec.ofNat 64 unit }) s
      let due := (s.launches.filter fun l => l.2.cells.contains cell && !s.dumpDue.contains l.1).map fun l => l.1
      { (s.gateSeq cell).onCell cell (fun k => { k with failed := true, routerDown := k.routerDown || unit == 5 }) with
        dumpDue := s.dumpDue ++ due }

end Sys2Proof.Machine
end

