-- ==== Sys2Proof/Machine/Dump.lean ====
section
/-! DEFINITION. Machine/Dump.lean: fatal dumps (R441) and what asks for them. -/
namespace Sys2Proof.Machine
open Sys2Proof

/-! ### Records (R441) -/

/-- A record of a dump: 16 bytes of header, then its body.  DESIGN CHOICE (log 86): type, length of the body and CRC-32C in bytes 0 to
11, little-endian, then zeros; the numbers of the types and the layouts of the bodies are the model's own. -/
def dumpRecord (type : Nat) (body : List Byte) : List Byte :=
  leBytes 4 type ++ leBytes 4 body.length ++ leBytes 4 (crc32c body).toNat ++ leBytes 4 0 ++ body
/-- 64-bit words of a body. -/
def dumpWords (l : List Nat) : List Byte := l.flatMap (leBytes 8)

/-- Type 1: the trap registers of a stopped context. -/
def State.dumpCtx (s : State) (cell x : Nat) : List Byte :=
  let c := s.ctxAt cell x
  dumpRecord 1 (dumpWords [4 * cell + x, c.tcause.toNat, c.tblk.toNat, c.tidx.toNat, c.tval.toNat, c.pfault.toNat])
/-- Type 2: the live map. -/
def State.dumpMap (s : State) : List Byte := dumpRecord 2 s.liveMap
/-- A bank as words: its kind, its unit, its place there. -/
def bankWords : BankRef → List Nat
  | .tcm c n => [0, c, n]
  | .csp k n => [1, k, n]
  | .fsram f sl n => [2, f, sl * 32 + n]
  | .opm c n => [3, c, n]
  | .acm c n => [4, c, n]
  | .vault c n => [5, c, n]
/-- Type 3: the event log of a bank (R421): vault clock, byte, whether it was correctable. -/
def dumpLog (e : BankRef × List (Nat × Nat × Bool)) : List Byte :=
  dumpRecord 3 (dumpWords (bankWords e.1 ++ e.2.flatMap fun v => [v.1, v.2.1, ofBool v.2.2]))
/-- Type 4: VSQSTAT of a suspended program. -/
def State.dumpSeq (s : State) (cell : Nat) : List Byte :=
  if (s.cellAt cell).seq.st = .suspended then dumpRecord 4 (dumpWords [cell, s.cellCsr cell 0x114]) else []
/-- A cell's snapshot area (R92). -/
def State.areaOf (s : State) (cell : Nat) : Place := { r := .vault cell, off := (s.cellAt cell).vltBytes }
/-- Type 5: a snapshot, as its area holds it. -/
def State.dumpSnap (s : State) (p : Snap) : List Byte :=
  dumpRecord 5 (leBytes 8 p.cell ++ (s.bytesAt (s.areaOf p.cell) p.len).map fun b => b.1)
/-- Type 6: the cause of a fault of the wafer supervisor, which the spec does not number (log 86). -/
def dumpCause (v : Word) : List Byte := dumpRecord 6 (dumpWords [v.toNat])

/-- The dump of a launch, as things stand. -/
def State.dumpOf (s : State) (i : Nat) : List Byte :=
  let l := s.launches.get {} i
  (l.cells.flatMap fun c => (List.range 4).flatMap fun x => if (s.ctxAt c x).stopped then s.dumpCtx c x else []) ++ s.dumpMap ++
  (l.fields.flatMap fun f => (s.fieldAt f).banklog.flatMap dumpLog) ++ l.cells.flatMap s.dumpSeq ++
  (s.snaps.filter fun p => p.launch == i).flatMap s.dumpSnap
/-- A dump goes into the buffer that DUMPBUF has registered, as far as it is mapped for a PASID and holds the bytes. -/
def M.putDump (m : M) (i pasid : Nat) (bytes : List Byte) : M :=
  if m.s.fw.dump.length < 16 then m
  else
    let d := m.s.fw.dump.map fun b => (b, false)
    let out := (bytes.take (numOf ((d.drop 8).take 8))).map fun b => (b, false)
    (m.write (m.s.writeOps { r := .host pasid, off := numOf (d.take 8) % 2 ^ 57 } out)).on fun s => { s with dumps := s.dumps ++ [(i, bytes)] }
/-- The firmware writes the dump of a launch. -/
def M.dump (m : M) (i : Nat) : M :=
  (m.putDump i (m.s.launches.get {} i).pasid (m.s.dumpOf i)).on fun s => { s with dumpDue := s.dumpDue.filter fun j => j != i }

/-- FATAL_DUMP: the dump that a HW_FATAL fault of one of a launch's cells asks for, or a fault of the field manager of one of its fields
(`manager`). -/
def execFatalDump (i : Nat) (manager : Bool) (s : State) : Host.Outcome State Fault Refusal :=
  run s fun m => if m.s.dumpDue.contains i || (manager && !(m.s.launches.get {} i).fields.isEmpty) then m.dump i else m

end Sys2Proof.Machine
end

