-- ==== Sys2Proof/Machine/Launch.lean ====
section
/-! DEFINITION. Machine/Launch.lean: launch records and their levels (R201 to R204), the dispatcher (R206 to R209), grants (R210),
what a launch holds and how it gives it up (R87, R209, R471, R490). -/
namespace Sys2Proof.Machine
open Sys2Proof

/-! ### A record (Tables 9-4, 9-5) -/

def State.recLid (s : State) (i : Nat) : Nat := s.recNum i 8 4
def State.recPasid (s : State) (i : Nat) : Nat := s.recNum i 12 4 % 2 ^ 20
def State.recHctx (s : State) (i : Nat) : Nat := s.recNum i 12 4 / 2 ^ 24 % 16
def State.recFmin (s : State) (i : Nat) : Nat := s.recNum i 28 2
def State.recPmax (s : State) (i : Nat) : Nat := s.recNum i 30 2
def State.recMode (s : State) (i : Nat) : Nat := s.recNum i 32 1
def State.recWalk (s : State) (i : Nat) : Nat := s.recNum i 33 1
def State.recStart (s : State) (i : Nat) : Nat := s.recNum i 40 8
def State.recPrio (s : State) (i : Nat) : Nat := s.recMode i % 4
def State.recBoost (s : State) (i : Nat) : Bool := s.recMode i / 4 % 2 == 1
/-- The width w of the swizzle. -/
def State.recSwizzle (s : State) (i : Nat) : Nat := s.recWalk i / 4 % 16 + 1

/-- A level: extent, domain (0 system … 5 context), scope (0 CEL … 4 SYS). -/
structure Level where
  ext : Nat
  dom : Nat
  scope : Nat
  deriving DecidableEq, Repr, Inhabited

def levelOf (w : Nat) : Level := { ext := w % 2 ^ 16 + 1, dom := w / 2 ^ 16 % 8, scope := w / 2 ^ 20 % 8 }
def State.recLevels (s : State) (i : Nat) : List Level :=
  (List.range (min (s.recNum i 34 1) 8)).map fun j => levelOf (s.recNum i (80 + 8 * j) 8)

/-- E(D) (R202). -/
def extentOf (ls : List Level) (d : Nat) : Nat := (ls.filter fun l => l.dom == d).foldl (fun n l => n * l.ext) 1
/-- The narrowest scope each domain goes with. -/
def scopeNeed (d : Nat) : Nat := 4 - d

/-- A poisoned byte in a record, or a field out of range: STATUS 0x0001 (Table 9-7). -/
def State.recBad (s : State) (i : Nat) : Bool :=
  let z (o n : Nat) : Bool := (List.range n).all fun j => s.recNum i (o + j) 1 == 0
  let nlev := s.recNum i 34 1
  let npred := s.recNum i 35 1
  let p := s.recNum i 12 4
  anyPoi (s.bytesAt (hdm0 (256 * i)) 256) || s.recNum i 6 2 != 1 || s.recLid i == 0 ||
  ((List.range 64).any fun j => j != i && s.recState j != 0 && s.recLid j == s.recLid i) ||
  p / 2 ^ 20 % 16 != 0 || p / 2 ^ 28 != 0 || decide (s.recFmin i < 600 ∨ 1600 < s.recFmin i) ||
  decide (s.recPmax i < 1 ∨ 36000 < s.recPmax i) || decide (32 ≤ s.recMode i) || decide (64 ≤ s.recWalk i) ||
  decide (nlev < 1 ∨ 8 < nlev) || decide (8 < npred) || !z (48 + 4 * npred) (4 * (8 - npred)) ||
  !z (80 + 8 * nlev) (8 * (8 - nlev)) || !z 168 88 ||
  ((List.range nlev).any fun j =>
    let w := s.recNum i (80 + 8 * j) 8
    w / 2 ^ 23 != 0 || w / 2 ^ 19 % 2 != 0 || decide (4 < w / 2 ^ 20 % 8 ∨ 5 < w / 2 ^ 16 % 8))

/-- The level and traversal limits that need no image: STATUS 0x0002 (R202 to R204). -/
def State.levelsBad (s : State) (i : Nat) : Bool :=
  let ls := s.recLevels i
  let walk := s.recWalk i % 4
  decide (256 < extentOf ls 0 ∨ 128 < extentOf ls 1 ∨ 12 < extentOf ls 2 ∨ 16 < extentOf ls 3) ||
  (ls.any fun l => decide (l.scope < scopeNeed l.dom)) ||
  (walk == 3 && (List.range 5).any fun d => decide (3 ≤ (ls.filter fun l => l.dom == d).length)) ||
  (decide (2 ≤ walk) && s.recSwizzle i != 1)

/-- The STATUS with which a posted record is refused, 0 when it passes (R206, R208, R210). -/
def State.postStatus (s : State) (i : Nat) : Nat :=
  let g := s.pgrant.get 0 (s.recHctx i)
  if s.recBad i then 0x0001
  else if s.levelsBad i then 0x0002
  else if s.recStart i ≠ 0 ∧ s.recStart i < s.vtime.toNat then 0x0003
  else if fld g 0 16 < s.recFmin i ∨ (s.recBoost i ∧ ¬g.getLsbD 48) then 0x0004
  else if fld g 32 16 < s.recPmax i then 0x0005
  else 0

/-- The dispatcher sees a posted record: it becomes QUEUED, or REFUSED. -/
def M.post (m : M) (i : Nat) : M :=
  let st := m.s.postStatus i
  if st = 0 then
    let p := m.s.recPasid i
    (m.setState i 2 0).on fun s =>
      { s with launches := s.launches.set i { s.launches.get {} i with queuedAt := s.vtime.toNat, pasid := p } }
  else m.setState i 6 st
/-- A posted record that the dispatcher may take, once boot has reached stage 6 (R469). -/
def State.postable (s : State) (i : Nat) : Bool := decide (i < 64) && s.recState i == 1 && s.bootst == 6
/-- LAUNCH_POSTING (R206, R464, R469). -/
def execLaunchPosting (i : Nat) (s : State) : Host.Outcome State Fault Refusal :=
  run s fun m => if m.s.postable i then m.post i else m

/-! ### The dispatcher (R207, R208) -/

/-- How the predecessors of a record stand. -/
inductive Preds | done | waiting | failed
  deriving DecidableEq, Repr, Inhabited

/-- The record that holds a LID; a LID that names none counts as DONE. -/
def State.preds (s : State) (i : Nat) : Preds :=
  let sts := (List.range (s.recNum i 35 1)).map fun j =>
    let l := s.recNum i (48 + 4 * j) 4
    match (List.range 64).find? fun k => s.recState k != 0 && s.recLid k == l with
    | some k => s.recState k
    | none => 5
  if sts.any fun v => finalState v && v != 5 then .failed else if sts.all (fun v => v == 5) then .done else .waiting

/-- Effective priority. -/
def State.effPrio (s : State) (i : Nat) : Nat :=
  min 3 (s.recPrio i + (s.vtime.toNat - (s.launches.get {} i).queuedAt) / 2 ^ 24)
/-- Record i comes before record j among those without a start time. -/
def State.ahead (s : State) (i j : Nat) : Bool :=
  let a := (s.effPrio j, (s.launches.get {} i).posted, i)
  let b := (s.effPrio i, (s.launches.get {} j).posted, j)
  decide (a.1 < b.1 ∨ (a.1 = b.1 ∧ (a.2.1 < b.2.1 ∨ (a.2.1 = b.2.1 ∧ a.2.2 < b.2.2))))
/-- Timed records due now, and whether one comes before another. -/
def State.timedDue (s : State) (i : Nat) : Bool := s.recState i == 2 && s.recStart i != 0 && decide (s.recStart i ≤ s.vtime.toNat)
def State.timedAhead (s : State) (i j : Nat) : Bool :=
  decide (s.recStart i < s.recStart j) || (s.recStart i == s.recStart j &&
    decide (s.recPrio j < s.recPrio i ∨ (s.recPrio i = s.recPrio j ∧ i < j)))

/-- Whether some launch holds a field; whether one holds a cell. -/
def State.fieldHeld (s : State) (f : Nat) : Bool := s.launches.any fun l => l.2.fields.contains f
def State.cellHeld (s : State) (c : Nat) : Bool := s.launches.any fun l => l.2.cells.contains c
/-- A virtual field that a launch's tags use (R205). -/
def State.vfieldHeld (s : State) (v : Nat) : Bool :=
  let e := s.ftab.get 0 v
  e.getLsbD 15 && s.fieldHeld (fld e 0 7)

/-- The extents in fields of the other records that are BINDING and hold no field yet (R207). -/
def State.binding (s : State) (i : Nat) : List Nat :=
  ((List.range 64).filter fun j => j != i && s.recState j == 3 && (s.launches.get {} j).fields.isEmpty).map fun j => extentOf (s.recLevels j) 1
/-- The fields that a record asks for can be placed now, or never (R207): its virtual fields are free and so are enough live
fields, beside those that records now BINDING take. -/
def State.fieldsFree (s : State) (i : Nat) : Bool :=
  let n := extentOf (s.recLevels i) 1
  let live := (List.range Config.nFields).filter fun f => !(s.fieldAt f).retired
  (List.range n).all (fun v => !s.vfieldHeld v && !(s.binding i).any fun k => decide (v < k)) &&
  decide (n + (s.binding i).foldl (· + ·) 0 ≤ (live.filter fun f => !s.fieldHeld f).length ∨ live.length < n)

/-- A queued record without a start time. -/
def State.untimed (s : State) (i : Nat) : Bool := s.recState i == 2 && s.recStart i == 0
/-- The first record in order of effective priority, its predecessors DONE and its fields to be had. -/
def State.firstReady (s : State) (i : Nat) : Bool :=
  s.untimed i && s.preds i == .done && s.fieldsFree i && (List.range 64).all fun j =>
    j == i || !s.untimed j || s.preds j == .failed || s.ahead i j
/-- A record is dispatched; the dispatcher has decided for this vault clock. -/
def M.dispatch (m : M) (i : Nat) : M := (m.setState i 3 0).on fun s => { s with dispAt := some s.vtime.toNat }

/-- LAUNCH_DISPATCH: the first record in order of effective priority is dispatched, one on a vault clock; a record with a failed
predecessor is refused (R206, R207). -/
def execLaunchDispatch (i : Nat) (s : State) : Host.Outcome State Fault Refusal :=
  run s fun m =>
    let s := m.s
    if 64 ≤ i ∨ s.untimed i = false ∨ (List.range 64).any s.timedDue then m
    else if s.preds i = .failed then m.setState i 6 0x0009
    else if s.dispAt ≠ some s.vtime.toNat ∧ s.firstReady i then m.dispatch i
    else m

/-- A record at its START is dispatched, faulted, or refused for want of fields (R208). -/
def M.takeTimed (m : M) (i : Nat) (placeable : Bool) : M :=
  if m.s.preds i ≠ .done then
    (m.setState i 9 0x000A).on fun s => { s with supLog := s.supLog ++ [(i, 0x18)] }
  else if placeable && m.s.fieldsFree i then m.setState i 3 0
  else m.setState i 6 0x000B
/-- The timed record that is taken next. -/
def State.timedFirst (s : State) (i : Nat) : Bool :=
  s.timedDue i && (List.range 64).all fun j => j == i || !s.timedDue j || s.timedAhead i j
/-- TIMED_DISPATCH. -/
def execTimedDispatch (i : Nat) (placeable : Bool) (s : State) : Host.Outcome State Fault Refusal :=
  run s fun m => if i < 64 ∧ m.s.timedFirst i then m.takeTimed i placeable else m

/-- Every record whose START has come, in order. -/
def M.takeAllTimed : Nat → M → M
  | 0, m => m
  | n + 1, m => match (List.range 64).find? m.s.timedFirst with
    | some i => M.takeAllTimed n (m.takeTimed i true)
    | none => m
/-- The dispatcher's decision of a vault clock, if it is still to be taken (R206): due timed records, records with a failed
predecessor, the first ready record. -/
def M.takeDecision (m : M) : M :=
  let m := M.takeAllTimed 64 m
  let m := ((List.range 64).filter fun i => m.s.untimed i && m.s.preds i == .failed).foldl (fun m i => m.setState i 6 0x0009) m
  if m.s.dispAt = some m.s.vtime.toNat then m
  else match (List.range 64).find? m.s.firstReady with
    | some i => m.dispatch i
    | none => m.on fun s => { s with dispAt := some s.vtime.toNat }

/-! ### Giving up what a launch holds -/

def State.launchAt (s : State) (i : Nat) : Launch := s.launches.get {} i
/-- The launch's dirty or flushing slices. -/
def State.unflushed (s : State) (l : Launch) : Bool :=
  l.slices.any fun e => let v := (s.fieldAt e.1).slice e.2; v.flushing || v.lines.any fun k => k.dirty
def State.flushAll (s : State) (l : Launch) : State := l.slices.foldl (fun s e => s.startFlush e.1 e.2) s

/-- The floors of some fields, after a launch has come or gone. -/
def State.setFloors (s : State) (fs : List Nat) : State :=
  fs.foldl (fun s f => s.onField f fun k => { k with floor := BitVec.ofNat 16 (s.floorOf f) }) s

/-- What is left of a launch that holds nothing. -/
def Launch.bare (l : Launch) : Launch := { posted := l.posted, queuedAt := l.queuedAt, ctrlAt := l.ctrlAt, pasid := l.pasid }
/-- Some fields are gated no longer, and the injection hold on the tags bound there is released, but for those that a rebinding holds
(R423, R428, R437). -/
def State.ungate (s : State) (fs : List Nat) : State :=
  let s := fs.foldl (fun s f => s.onField f fun k => { k with gated := false }) s
  { s with gating := s.gating.filter (fun f => !fs.contains f),
           holds := s.holds.filter fun v => s.rebindVs.contains v || !(let f := s.ftab.get 0 v; f.getLsbD 15 && fs.contains (fld f 0 7)) }
/-- A launch gives up its units and collective instances; its record keeps its place. -/
def State.freeLaunch (s : State) (i : Nat) : State :=
  let l := s.launchAt i
  let s := s.ungate l.fields
  let s := l.insts.foldl (fun s e => s.onGate e.1 fun k => { k with insts := Tab.del k.insts e.2 }) s
  ({ s with launches := s.launches.set i l.bare,
            dumpDue := s.dumpDue.filter fun j => j != i } : State).setFloors l.fields

/-- A context of a killed launch: idle, with nothing under way. -/
def Ctx.emptied (c : Ctx) : Ctx :=
  { c.clearV with flight := [], next := .idle, nextSup := false, sup := false, mq := [], sq := [], outs := [], lands := [], cfence := [],
                  reports := [], drops := [], lateDrop := false, handler := false, yieldTo := [], cdepth := 0, agelim := 0, told := false }

/-- A cell of a killed launch: nothing queued, running or bound.  Its tiles keep their states, which no kill changes (R142). -/
def Cell.emptied (k : Cell) : Cell :=
  { k with htab := [], ahtab := [], nodes := [], anodes := [], inj := [], ext := [], injRes := 0, extRes := 0, treech := [], injN := [],
           semWait := [], busy := [], mxChain := none, txq := [], vxq := [], mxq := [], txRes := 0, vxRes := 0, mxRes := 0,
           txRun := [], vxRun := [], mxRun := [], cpcfg := [], cpstat := [], passed := [], ages := [], lcur := 0 }

/-- The instance of every port of a cell is aborted, as a kill does (R209, R405). -/
def M.abortPorts (m : M) (cell : Nat) : M :=
  (List.range 8).foldl (fun (m : M) cp =>
    let v := (m.s.cellAt cell).cpcfg.get 0 cp
    if v.getLsbD 63 then
      let (g, i, _) := (m.s.cellAt cell).portAt cp
      m.abortInst g i (m.s.instOf g i).round none
    else m) m

/-- Stop everything a launch runs: contexts, queued messages, vault programs, collectives (R209). -/
def M.stopLaunch (m : M) (i : Nat) : M := (((m.s.launchAt i).cells.foldl (fun m c => m.abortPorts c) m)).on fun s =>
  let l := s.launchAt i
  let s := l.cells.foldl (fun s c =>
    let s := (List.range 4).foldl (fun s x => ((s.discard c x).unyield c x).onCtx c x Ctx.emptied) s
    (s.stopNow c true).onCell c Cell.emptied) s
  let s := s.ungate l.fields
  let s := l.insts.foldl (fun s e => s.onGate e.1 fun k => { k with insts := Tab.del k.insts e.2 }) s
  { s with reports := s.reports.filter (fun r => !l.cells.contains r.1),
           gateIn := s.gateIn.filter fun c => !l.cells.contains c.cell,
           treeUp := s.treeUp.filter fun t => !l.chans.contains t.chan,
           treeDown := s.treeDown.filter fun t => !l.chans.contains t.chan,
           treeRound := s.treeRound.filter fun t => !l.chans.contains (t.1 % 32),
           anmask := s.anmask.filter fun t => !l.chans.contains (t.1 % 32),
           snaps := s.snaps.filter (fun p => p.launch != i), fsnaps := s.fsnaps.filter fun p => p.launch != i }

/-- The bindings of a launch's slices are cleared, once flushed (R87). -/
def State.clearBindings (s : State) (l : Launch) : State :=
  l.slices.foldl (fun s e =>
    (List.range 8).foldl (fun s n => if fld ((s.fieldAt e.1).fcb.get 0 n) 56 7 = e.2 then s.bindCache e.1 n 0 else s) s) s

/-- The end of a kill: the launch's cells are free and its record KILLED (R209). -/
def M.endKill (m : M) (i status : Nat) : M :=
  ((m.on fun s => (s.clearBindings (s.launchAt i)).freeLaunch i).setState i 8 status).setRec i 4 0
/-- Kill a launch: everything is stopped, its slices flush, and then the kill ends (R209). -/
def M.killLaunch (m : M) (i status : Nat) : M :=
  let l := m.s.launchAt i
  let m := (m.stopLaunch i).on fun s => s.flushAll l
  if m.s.unflushed l then m.on fun s => { s with launches := s.launches.set i { s.launchAt i with dying := some status } }
  else m.endKill i status
/-- A kill that the supervisor initiates begins with a dump (R441). -/
def M.supKill (m : M) (i status : Nat) : M := (m.dump i).killLaunch i status
/-- The kills that waited for a flush that is done. -/
def M.endKills (m : M) : M :=
  m.s.launches.foldl (fun m e => match e.2.dying with
    | some st => if m.s.unflushed e.2 then m else m.endKill e.1 st
    | none => m) m

/-- CTRL 1, or a value with no meaning (R209). -/
def M.cancel (m : M) (i : Nat) : M :=
  let st := m.s.recState i
  if m.s.recNum i 4 2 = 1 then
    if st = 1 ∨ st = 2 then (m.setRec i 0 7).setRec i 4 0
    else if st = 3 ∨ st = 4 then (m.setRec i 2 0x0010).setRec i 4 0
    else m.setRec i 4 0
  else m.setRec i 4 0
/-- CTRL 2 (R209). -/
def M.ctrlKill (m : M) (i : Nat) : M :=
  let st := m.s.recState i
  if st = 3 ∨ st = 4 then (if (m.s.launchAt i).dying.isSome then m.endKills else m.killLaunch i (m.s.recNum i 2 2))
  else (m.setRec i 2 0x0011).setRec i 4 0
/-- The dispatcher reads CTRL of a record. -/
def M.readCtrl (m : M) (i : Nat) : M :=
  let c := m.s.recNum i 4 2
  if c = 0 then m else if c = 2 then m.ctrlKill i else m.cancel i
/-- What the dispatcher has decided on the present vault clock before it reads a CTRL (R206). -/
def M.decided (m : M) : M := if m.s.bootst = 6 then m.takeDecision else m

/-- LAUNCH_CANCEL: CTRL 1, or a value with no meaning (R209), read after the clock's dispatch decision (R206). -/
def execLaunchCancel (i : Nat) (s : State) : Host.Outcome State Fault Refusal :=
  run s fun m =>
    let m := m.decided
    if 64 ≤ i ∨ m.s.recNum i 4 2 = 0 ∨ m.s.recNum i 4 2 = 2 then m else m.cancel i

/-- A context of a launch whose stop a field manager has been told of: its manager may ask the supervisor to kill the launch (R474). -/
def State.mayAsk (s : State) (i : Nat) : Bool := s.reports.any fun r => (s.launchAt i).cells.contains r.1
/-- LAUNCH_KILL: CTRL 2 (R209), or a kill that a field manager has asked the supervisor for (R474).  It ends once the launch's slices
have flushed. -/
def execLaunchKill (k : KillReq) (s : State) : Host.Outcome State Fault Refusal :=
  run s fun m =>
    let i := k.i
    let m := m.decided
    if 64 ≤ i then m
    else if k.asked then
      (if (m.s.recState i = 3 ∨ m.s.recState i = 4) ∧ m.s.mayAsk i ∧ (m.s.launchAt i).dying = none then m.supKill i (m.s.recNum i 2 2) else m)
    else if m.s.recNum i 4 2 = 2 then m.ctrlKill i
    else m

/-! ### The write watch (R464) -/

/-- The dispatcher sees a record within 64 vault clocks after the host has posted it or written its CTRL. -/
def M.watch (m : M) : M :=
  m.s.launches.foldl (fun (m : M) e =>
    let now := m.s.vtime.toNat
    let m := if m.s.postable e.1 && decide (e.2.posted + 63 ≤ now) then m.post e.1 else m
    match e.2.ctrlAt with
    | some t => if t + 63 ≤ now then (m.readCtrl e.1).on fun s =>
          { s with launches := s.launches.set e.1 { s.launchAt e.1 with ctrlAt := none } } else m
    | none => m) m

/-! ### Completion (R490) -/

/-- A context with nothing to do. -/
def Ctx.quiet (c : Ctx) : Bool :=
  c.flight.isEmpty && c.next == .idle && c.mq.isEmpty && !c.stopped && c.sq.isEmpty && c.lands.isEmpty && c.outs.isEmpty &&
  c.reports.isEmpty && !c.lateDrop
/-- A cell with nothing to do. -/
def State.quietCell (s : State) (c : Nat) : Bool :=
  let k := s.cellAt c
  (List.range 4).all (fun x => (s.ctxAt c x).quiet) && k.halted == 0 && k.txq.isEmpty && k.vxq.isEmpty && k.mxq.isEmpty &&
  k.txRun.isEmpty && k.vxRun.isEmpty && k.mxRun.isEmpty && k.inj.isEmpty && k.seq.cmds.isEmpty && k.vault.queue.isEmpty &&
  (match k.seq.st with
   | .idle => true
   | .done => true
   | .stopped => true
   | _ => false) && (List.range 8).all k.cpIdle

/-- An access sent by a launch's cells, or bound for its homes or nodes. -/
def State.ofLaunch (s : State) (l : Launch) (a : Acc) : Bool :=
  l.cells.contains a.cell || (match s.accHome a with
    | (2, c) => l.clusters.contains c
    | (3, n) => l.fields.contains (n / 80)
    | (7, _) => false
    | (8, _) => false
    | (_, c) => l.cells.contains c)
/-- A response on its way to a launch's cells. -/
def Resp.toCells (r : Resp) (cs : List Nat) : Bool :=
  match r.back with
  | .store .. => false
  | b => b.cell.elim false cs.contains
/-- A frame that waits to leave and may be a launch's: a request says which cell sent it. -/
def frameOf (cs : List Nat) (f : Frame) : Bool :=
  match f.kind with
  | 0 => cs.contains (numAtB f.payload 44 2)
  | 5 => false
  | _ => true

/-- A gateway reads or writes a buffer of some cells (R376). -/
def State.buffersMove (s : State) (cells : List Nat) : Bool :=
  s.gates.any fun g => g.2.insts.any fun e => e.2.parts.any fun p => p.got.isNone && cells.contains p.cell
/-- The launch's part on this wafer is quiescent (R490). -/
def State.quiet (s : State) (l : Launch) : Bool :=
  l.cells.all s.quietCell && !(s.treeUp.any fun t => l.chans.contains t.chan) && !(s.treeDown.any fun t => l.chans.contains t.chan) &&
  !(s.gateIn.any fun c => l.cells.contains c.cell) && !s.buffersMove l.cells && !((s.net ++ s.misq.map fun e => e.2).any (s.ofLaunch l)) && !(s.resps.any fun r => r.toCells l.cells) &&
  !(s.linkOut.any fun a => l.cells.contains a.cell) && !(s.gates.any fun g => g.2.txFrames.any (frameOf l.cells)) &&
  l.slices.all fun e => ((s.fieldAt e.1).slice e.2).waiting.isEmpty

/-- COMPLETION_TOKEN: a running launch whose part is quiescent flushes its slices and is then DONE (R87, R206, R490). -/
def execCompletionToken (i : Nat) (s : State) : Host.Outcome State Fault Refusal :=
  run s fun m =>
    let l := m.s.launchAt i
    if i < 64 ∧ m.s.recState i = 4 ∧ l.snap = false ∧ l.dying = none ∧ m.s.quiet l then
      let m := m.on fun s => s.flushAll l
      if m.s.unflushed l then m else (m.on fun s => s.freeLaunch i).setRec i 0 5
    else m

/-- SUPERVISOR_RECOVERY: every launch stops, records neither FREE nor final become KILLED with STATUS 0x0012, G0 writes one record
that names the cause (R441), and boot waits for an image; what R471 lists survives. -/
def execSupervisorRecovery (s : State) : Host.Outcome State Fault Refusal :=
  run s fun m =>
    let m := (List.range 64).foldl (fun (m : M) i =>
      let st := m.s.recState i
      if st = 0 ∨ finalState st then m else ((m.stopLaunch i).on fun s => s.freeLaunch i).setState i 8 0x0012) m
    let m := m.putDump 64 0 (dumpCause m.s.takeFree.1)
    m.on fun s => { s.takeFree.2 with bootst := 1, fw := { s.fw with image := [], digest := [], ver := 0, svn := 0, resume := true } }

end Sys2Proof.Machine
end

