-- ==== Sys2Proof/Machine/Place.lean ====
section
/-! DEFINITION. Machine/Place.lean: the groups of a launch with their ordinals (R203 to R205), and
where a placement puts them (R47, R202, R408, R427). -/
namespace Sys2Proof.Machine
open Sys2Proof

/-! ### Domain ordinals (R203, R204) -/

/-- Rank of indices with their extents, the last varying fastest; a swizzle of width w replaces the rank of the two fastest
(R204). -/
def rowRank (w : Nat) (l : List (Nat × Nat)) : Nat :=
  let m := l.length
  match l.drop (m - 2) with
  | [a, b] =>
      let high := (l.take (m - 2)).foldl (fun o e => o * e.2 + e.1) 0
      if w = 1 then (high * a.2 + a.1) * b.2 + b.1
      else
        let band := a.1 / w
        let h := min w (a.2 - band * w)
        high * (a.2 * b.2) + band * w * b.2 + b.1 * h + a.1 % w
  | _ => l.foldl (fun o e => o * e.2 + e.1) 0

/-- ceil(log2 n). -/
def clog2 (n : Nat) : Nat := ((List.range 17).find? fun b => decide (n ≤ 2 ^ b)).getD 17
/-- The interleaved bits of some indices, the last lowest in each group of bits. -/
def mortonCode (b : Nat) (v : List Nat) : Nat :=
  let m := v.length
  (List.range b).foldl (fun c j => (List.range m).foldl (fun c k => c + v.getD k 0 / 2 ^ j % 2 * 2 ^ (j * m + m - 1 - k)) c) 0
/-- The rank procedure of R203, over the bits that are left. -/
def hilbertCode (n : Nat) : Nat → Nat → Nat → Nat → Nat
  | 0, _, _, d => d
  | b + 1, x, y, d =>
      let s := 2 ^ b
      let rx := x / s % 2
      let ry := y / s % 2
      let d := d + s * s * ((3 * rx) ^^^ ry)
      if ry = 0 then (if rx = 1 then hilbertCode n b (n - 1 - y) (n - 1 - x) d else hilbertCode n b y x d)
      else hilbertCode n b x y d

/-- Every vector of indices below some extents, in row-major order. -/
def vectors : List Nat → List (List Nat)
  | [] => [[]]
  | e :: t => (List.range e).flatMap fun i => (vectors t).map fun v => i :: v

/-- The rank of a vector among all of its extents by a code. -/
def rankBy (code : List Nat → Nat) (exts v : List Nat) : Nat :=
  ((vectors exts).filter fun u => decide (code u < code v)).length

/-- o(D) of a domain's indices with their extents (traversal: 0 row-major, 1 column-major, 2 Morton, 3 Hilbert). -/
def ordinal (walk w : Nat) (l : List (Nat × Nat)) : Nat :=
  let v := l.map fun e => e.1
  let exts := l.map fun e => e.2
  let b := clog2 (exts.foldl max 1)
  if l.length ≤ 1 then v.foldl (fun _ i => i) 0
  else match walk with
    | 0 => rowRank w l
    | 1 => rowRank w l.reverse
    | 2 => rankBy (mortonCode b) exts v
    | _ => rankBy (fun u => hilbertCode (2 ^ b) b (u.getD 0 0) (u.getD 1 0) 0) exts v

/-! ### Groups (R205, R244) -/

/-- A group: its linear number and level indices, its ordinals in the system, wafer, field, cluster and cell domains. -/
structure Group where
  lin : Nat
  idx : List Nat
  sys : Nat
  vf : Nat
  vclu : Nat
  vcell : Nat
  slot : Nat
  deriving DecidableEq, Repr, Inhabited

def groupAt (ls : List Level) (walk w lin : Nat) (idx : List Nat) : Group :=
  let o (d : Nat) : Nat := ordinal walk w (((ls.zip idx).filter fun e => e.1.dom == d).map fun e => (e.2, e.1.ext))
  { lin := lin, idx := idx, sys := o 0, vf := o 1, vclu := o 2, vcell := o 3, slot := o 4 }
/-- The groups in row-major order of their level indices; a context-domain level holds its extent minus 1. -/
def groupsOf (ls : List Level) (walk w : Nat) : List Group :=
  let vs := vectors (ls.map fun l => if l.dom = 5 then 1 else l.ext)
  (List.range vs.length).filterMap fun n => (vs[n]?).map fun v =>
    groupAt ls walk w n ((ls.zip v).map fun e => if e.1.dom = 5 then e.1.ext - 1 else e.2)
/-- Row-major and column-major take the swizzle. -/
def State.recGroups (s : State) (i : Nat) : List Group := groupsOf (s.recLevels i) (s.recWalk i % 4) (s.recSwizzle i)

/-- Four level indices in a word (Table 9-3). -/
def gidxWord (idx : List Nat) : Word := BitVec.ofNat 64 (packFields ((List.range 4).map fun i => (idx.getD i 0 % 2 ^ 16, 16 * i)))
/-- The tag of a group's local node. -/
def Group.tag (g : Group) (npg l : Nat) : Nat := g.vf * 2 ^ 17 + g.vclu * 2 ^ 13 + g.vcell * 2 ^ 9 + (g.slot * npg + l) * 2 ^ 4

/-! ### Placement -/

/-- A group with the cell it is bound to. -/
structure Site where
  g : Group
  cell : Nat
  deriving DecidableEq, Repr, Inhabited

def Placement.fieldFor (p : Placement) (vf : Nat) : Option Nat := (p.fields.find? fun e => e.1 == vf).map fun e => e.2
def Placement.clusterFor (p : Placement) (vf vclu : Nat) : Option Nat := (p.clusters.find? fun e => e.1 == vf && e.2.1 == vclu).map fun e => e.2.2
def Placement.cellFor (p : Placement) (k vcell : Nat) : Option Nat := (p.cells.find? fun e => e.1 == k && e.2.1 == vcell).map fun e => e.2.2

/-- The cell a placement gives a group; each unit lies in the one above it. -/
def siteFor (p : Placement) (g : Group) : Option Nat :=
  match Placement.fieldFor p g.vf with
  | none => none
  | some f =>
      match Placement.clusterFor p g.vf g.vclu with
      | none => none
      | some k =>
          match Placement.cellFor p k g.vcell with
          | none => none
          | some c => if fieldOfCluster k = f ∧ clusterOf c = k then some c else none

/-- Live state of another use (R427). -/
def State.liveState (s : State) (cell : Nat) : Bool :=
  let k := s.cellAt cell
  (List.range 4).any (fun x =>
    let c := s.ctxAt cell x
    c.stopped || c.next != .idle || !c.flight.isEmpty || !c.mq.isEmpty || !c.lands.isEmpty) ||
  !k.txq.isEmpty || !k.vxq.isEmpty || !k.mxq.isEmpty || !k.txRun.isEmpty || !k.vxRun.isEmpty || !k.mxRun.isEmpty ||
  (match k.seq.st with
   | .armed => true
   | .running => true
   | .suspended => true
   | _ => false)

/-- Consecutive virtual numbers lie on adjacent units, as far as the units allow (R205).  DEDUCED (log 87): the next number goes to a unit
beside the present one, unless none of those is live, free and untaken by a lower number. -/
def besides (adj : Nat → List Nat) (usable : Nat → Bool) (l : List (Nat × Nat)) : Bool :=
  l.all fun e => match l.find? fun d => d.1 == e.1 + 1 with
    | some d => (adj e.2).contains d.2 || !(adj e.2).any fun u => usable u && !(l.any fun o => decide (o.1 ≤ e.1) && o.2 == u)
    | none => true
/-- Clusters of a field, and cells of a cluster, that share an edge (R15). -/
def clustersBeside (k : Nat) : List Nat :=
  ((List.range 12).map fun i => k / 12 * 12 + i).filter fun j => hops (clusterXY k) (clusterXY j) == 1
def cellsBeside (c : Nat) : List Nat := ((List.range 16).map fun i => c / 16 * 16 + i).filter fun d => hops (cellXY c) (cellXY d) == 1

def noDups (l : List Nat) : Bool := l.eraseDups.length == l.length

/-- Units that a launch may be bound to: live, free, large enough for MINSZ and without live state (R47, R202, R427, R440). -/
def State.cellUsable (s : State) (i c : Nat) : Bool :=
  !(s.cellAt c).dead && !(s.cellAt c).failed && !s.cellHeld c && !s.liveState c &&
  decide (s.recNum i 152 4 ≤ s.tcmBytes c ∧ s.recNum i 164 4 ≤ (s.cellAt c).vltBytes)
def State.clusterUsable (s : State) (i k : Nat) : Bool := decide (s.recNum i 156 4 ≤ s.cspBytes k)
def State.fieldUsable (s : State) (i f : Nat) : Bool :=
  !s.fieldHeld f && !(s.fieldAt f).retired && !(s.fieldAt f).gated &&
  decide (s.recNum i 160 4 ≤ (s.fieldAt f).fsBytes)

/-- Whether a placement serves some groups: units usable, distinct and side by side as far as can be (R205). -/
def State.placed (s : State) (i : Nat) (p : Placement) (sites : List Site) : Bool :=
  let vfs := (sites.map fun e => e.g.vf).eraseDups
  let pfs := vfs.filterMap fun v => Placement.fieldFor p v
  let vks := (sites.map fun e => (e.g.vf, e.g.vclu)).eraseDups
  let pks := vks.filterMap fun v => Placement.clusterFor p v.1 v.2
  let vcs := (sites.map fun e => (e.g.vf, e.g.vclu, e.g.vcell)).eraseDups
  let cells := (sites.map fun e => e.cell).eraseDups
  noDups pfs && noDups pks && cells.length == vcs.length &&
  vfs.all (fun v => !s.vfieldHeld v) && pfs.all (s.fieldUsable i) && pks.all (s.clusterUsable i) && cells.all (s.cellUsable i) &&
  besides edgeAdjacent (s.fieldUsable i) (vfs.filterMap fun v => (Placement.fieldFor p v).map fun f => (v, f)) &&
  vfs.all (fun v => besides clustersBeside (s.clusterUsable i)
    ((vks.filter fun e => e.1 == v).filterMap fun e => (Placement.clusterFor p e.1 e.2).map fun k => (e.2, k))) &&
  pks.all fun k => besides cellsBeside (s.cellUsable i)
    (((sites.filter fun e => clusterOf e.cell == k).map fun e => (e.g.vcell, e.cell)).eraseDups)

end Sys2Proof.Machine
end

