-- ==== Sys2Proof/Machine/Bind.lean ====
section
/-! DEFINITION. Machine/Bind.lean: binding a launch: the checks and steps of R211 on one wafer, with the rules they draw on (R55, R59,
R66 to R68, R84, R186, R201 to R205, R212, R242 to R246, R391, R399, R401, R444, R453, R460, R472). -/
namespace Sys2Proof.Machine
open Sys2Proof

/-! ### What a launch is bound with -/

/-- A launch as the binder sees it: its record's place, its image, its groups on this wafer with their cells. -/
structure Bind where
  i : Nat
  graph : Graph
  sites : List Site
  deriving DecidableEq, Repr, Inhabited

def Bind.cells (b : Bind) : List Nat := (b.sites.map fun e => e.cell).eraseDups
def Bind.clusters (b : Bind) : List Nat := (b.cells.map clusterOf).eraseDups
def Bind.fields (b : Bind) : List Nat := (b.cells.map fieldOf).eraseDups
def Bind.sitesOn (b : Bind) (cell : Nat) : List Site := b.sites.filter fun e => e.cell == cell
/-- The context of a node's handlers, 0 for a node without any. -/
def Graph.ctxFor (g : Graph) (l : Nat) : Nat := (g.ctxOf l).getD 0
/-- The value that CONFIG gives a register, the last of several. -/
def Graph.config (g : Graph) (reg : Nat) : Option Word :=
  (g.configs.reverse.find? fun c => c.reg == reg && (c.lnode == 0xFF || decide (c.lnode < g.npg))).map fun c => c.value
/-- Start and end of the code region in bytes. -/
def Graph.codeSpan (g : Graph) : Nat × Nat :=
  let v := (g.config 0x107).getD 0
  (fld v 0 8 * 4096, fld v 16 8 * 4096)
/-- Whether a DATA record goes to a site. -/
def dataAt (g : Graph) (d : DataRec) (e : Site) : Bool :=
  (match d.lnode with
   | some l => decide (l < g.npg)
   | none => true) && (match d.group with
   | some n => n == e.g.lin
   | none => true)
/-- The ranges of a region that DATA fills at some sites. -/
def Bind.dataSpans (b : Bind) (region : Nat) (at_ : List Site) : List (Nat × Nat) :=
  (b.graph.datas.filter fun d => d.region == region && at_.any (dataAt b.graph d)).map fun d => (d.offset, d.offset + d.data.length)

/-- Two byte ranges meet; no two of some ranges meet. -/
def meet (a b : Nat × Nat) : Bool := decide (a.1 < b.2 ∧ b.1 < a.2)
def apart : List (Nat × Nat) → Bool
  | [] => true
  | a :: t => t.all (fun b => !meet a b) && apart t

/-! ### Power (R19, R210, R444, R453, R460) -/

/-- FMIN rounded up to a step. -/
def State.recFloor (s : State) (i : Nat) : Nat := (s.recFmin i + 49) / 50 * 50
/-- The engine power in mW that the image declares for each field of a launch. -/
def Bind.engine (b : Bind) : List (Nat × Nat) :=
  b.fields.map fun f => (f, (b.sites.filter fun e => fieldOf e.cell == f).length * b.graph.nodes.foldl (fun n d => n + d.power) 0)
/-- A reservation in mW: static power at the rounded FMIN, and the engine power declared (R453). -/
def reserveOf (fmin : Nat) (engine : List (Nat × Nat)) : Nat := engine.foldl (fun n e => n + Config.staticPower e.1 fmin + e.2) 0
/-- The state as it would stand with the launch resident, for the floors of its fields. -/
def State.withLaunch (s : State) (b : Bind) : State :=
  { s with launches := s.launches.set b.i { s.launches.get {} b.i with fields := b.fields, fmin := s.recFloor b.i, boost := s.recBoost b.i } }
/-- Saffron cannot guarantee FMIN: the power is not to be had, a field is tripped, or its region cannot run at FMIN (R19, R210, R447). -/
def State.powerBad (s : State) (b : Bind) : Bool :=
  let f := s.recFloor b.i
  let r := reserveOf f b.engine
  decide (1250 < f) && !s.recBoost b.i || b.fields.any (fun k => Config.needsMoreThanVmax k f || !(s.fieldAt k).governed) ||
  !(s.withLaunch b).regionsFit s.regions ||
  decide (s.recPmax b.i * 1000 < r) || decide (75 * 16 < s.tout) ||
  decide (moduleCap s.tout * 1000 < r + s.reserved)

/-! ### Checks on what is loaded -/

/-- A ring as the loader configures it for a cluster or a cell. -/
def ringFrom (r : RingRec) (part : Nat) : Ring := { cfg := r.cfg, part := BitVec.ofNat 48 part }
def Ring.span (r : Ring) : Nat × Nat := (r.base, r.base + r.slots * r.slotSize)
/-- The values of k modulo N that a role may use. -/
def Ring.reach (r : Ring) (consumer : Bool) : List Nat :=
  let w := r.window consumer
  (List.range (w.2 - w.1 + 1).toNat).map fun (j : Nat) => r.slotOf (w.1 + (j : Int))
/-- R67 and R68, apart from overlaps. -/
def Ring.wellFormed (r : Ring) (tcm : Bool) : Bool :=
  let p := r.window false
  let c := r.window true
  decide (fld r.cfg 57 4 ≤ 10) && r.slots != 1 && r.base % 64 == 0 && decide (p.1 ≤ p.2 ∧ c.1 ≤ c.2) &&
  noDups (r.reach false ++ r.reach true) && r.part != 0 && (!tcm || r.part &&& 0xFFFEFFFEFFF0 == 0)
/-- The physical masks of a cluster descriptor (R67, R243); none when a bit names a virtual cell with no bound group. -/
def Bind.partOf (b : Bind) (cluster part : Nat) : Option Nat :=
  let here := b.sites.filter fun e => clusterOf e.cell == cluster
  (List.range 48).foldl (fun o j =>
    if part / 2 ^ j % 2 = 0 then o
    else match o, here.find? fun e => e.g.vcell == j % 16 with
      | some m, some e => some (m ||| 2 ^ (j / 16 * 16 + e.cell % 16))
      | _, _ => none) (some 0)
def Bind.cellRings (b : Bind) : List (Nat × Ring) :=
  (b.graph.rings.filter fun r => decide (16 ≤ r.ring)).map fun r => (r.ring - 16, ringFrom r r.part)
def Bind.clusterRings (b : Bind) (cluster : Nat) : Option (List (Nat × Ring)) :=
  let l := (b.graph.rings.filter fun r => decide (r.ring < 16)).map fun r => (b.partOf cluster r.part).map fun p => (r.ring, ringFrom r p)
  if l.any Option.isNone then none else some (l.filterMap fun e => e)

/-- The spill carve-out and overflow area of context x (R55). -/
def State.spillSpan (s : State) (i cell x : Nat) : Nat × Nat :=
  let n := s.recNum i 144 4
  (s.tcmBytes cell - (x + 1) * n, s.tcmBytes cell - x * n)
def State.overflowSpan (s : State) (i cell : Nat) : Nat × Nat :=
  let k := (s.cellAt cell).vltBytes
  (k - 4 * s.recNum i 148 4, k)
/-- The cached ranges of a cell's vault. -/
def Bind.cacheSpans (b : Bind) (cell : Nat) : List (Nat × Nat) :=
  (b.graph.caches.filter fun c => (b.sitesOn cell).any fun e => e.g.vclu == c.vclu && e.g.vcell == c.vcell).map fun c =>
    (c.base * 65536, (c.base + c.len) * 65536)

/-- The ranges of a cell's vault that earlier bindings, still valid, cache (R84, R87). -/
def State.boundSpans (s : State) (cell : Nat) : List (Nat × Nat) :=
  (List.range 8).filterMap fun i =>
    let e := (s.fieldAt (fieldOf cell)).fcb.get 0 i
    if e.getLsbD 63 && fld e 48 8 == cell % 192 then some (fld e 16 11 * 65536, (fld e 16 11 + fld e 32 11) * 65536) else none

/-- A cell's TCM and vault: sizes, spills, code region, rings, caches (R55, R59, R68, R84). -/
def State.cellOk (s : State) (b : Bind) (cell : Nat) : Bool :=
  let tcm := s.tcmBytes cell
  let vlt := (s.cellAt cell).vltBytes
  let sp := s.recNum b.i 144 4
  let ov := s.recNum b.i 148 4
  let code := b.graph.codeSpan
  let rings := b.cellRings.map fun e => e.2
  let spills := if sp = 0 then [] else (List.range 4).map fun x => s.spillSpan b.i cell x
  let here := b.sitesOn cell
  let data := b.dataSpans 0 here
  let vdata := b.dataSpans 3 here
  let caches := b.cacheSpans cell
  sp % 64 == 0 && ov % 64 == 0 && decide (4 * sp ≤ tcm ∧ 4 * ov ≤ vlt) &&
  data.all (fun e => decide (e.2 ≤ tcm) && spills.all fun p => !meet p e) &&
  vdata.all (fun e => decide (e.2 ≤ vlt) && !(decide (ov ≠ 0) && meet (s.overflowSpan b.i cell) e)) &&
  (s.boundSpans cell).all (fun e => !(decide (ov ≠ 0) && meet (s.overflowSpan b.i cell) e)) &&
  decide (code.2 ≤ tcm) && rings.all (fun r => r.wellFormed true && decide (r.span.2 ≤ tcm)) &&
  apart ((if code.1 < code.2 then [code] else []) ++ spills ++ rings.map Ring.span) &&
  caches.all (fun e => decide (e.2 ≤ vlt) && !(decide (ov ≠ 0) && meet (s.overflowSpan b.i cell) e)) && apart (caches ++ s.boundSpans cell) &&
  (vdata.isEmpty || !s.vaultGone cell)

/-- A cluster's scratchpad. -/
def State.clusterOk (s : State) (b : Bind) (k : Nat) : Bool :=
  let here := b.sites.filter fun e => clusterOf e.cell == k
  (b.dataSpans 1 here).all (fun e => decide (e.2 ≤ s.cspBytes k)) &&
  match b.clusterRings k with
  | none => false
  | some l => l.all (fun e => e.2.wellFormed false && decide (e.2.span.2 ≤ s.cspBytes k)) && apart (l.map fun e => e.2.span)

/-- The slices of a field that no binding names and that are in mode 01. -/
def Field.freeCaches (f : Field) : List Nat :=
  (List.range 80).filter fun sl => (f.slice sl).mode == 1 && (f.slice sl).live != 0 &&
    !((List.range 8).any fun n => let e := f.fcb.get 0 n; e.getLsbD 63 && fld e 56 7 == sl)
def Field.freeFcbs (f : Field) : List Nat := (List.range 8).filter fun n => !(f.fcb.get 0 n).getLsbD 63
/-- The cell of a field that a CACHE record names. -/
def Bind.cacheCell (b : Bind) (f : Nat) (c : CacheRec) : Option Nat :=
  (b.sites.find? fun e => fieldOf e.cell == f && e.g.vclu == c.vclu && e.g.vcell == c.vcell).map fun e => e.cell
/-- A field's SRAM and its caches. -/
def State.fieldOk (s : State) (b : Bind) (f : Nat) : Bool :=
  let here := b.sites.filter fun e => fieldOf e.cell == f
  let n := b.graph.caches.length
  (b.dataSpans 2 here).all (fun e => decide (e.2 ≤ (s.fieldAt f).fsBytes)) &&
  b.graph.caches.all (fun c => (b.cacheCell f c).isSome) &&
  decide (n ≤ (s.fieldAt f).freeCaches.length ∧ n ≤ (s.fieldAt f).freeFcbs.length)

/-- Rate balance (R212); `load` is the sum over the nodes bound to each context. -/
def Graph.balanced (g : Graph) (load : Nat → Nat) : Bool :=
  (g.edges.all fun e =>
    match g.nodes.find? (fun n => n.lnode == e.src), g.nodes.find? (fun n => n.lnode == e.dst) with
    | some u, some v => u.rep * e.p == v.rep * e.c && decide (e.p + e.c ≤ e.depth + Nat.gcd e.p e.c)
    | _, _ => false) &&
  (List.range 4).all fun x => decide (load x ≤ g.step)
/-- The sum of R212 over the nodes that some groups bind to a context. -/
def Graph.ctxLoad (g : Graph) (groups x : Nat) : Nat :=
  groups * (g.nodes.filter fun n => g.ctxOf n.lnode == some x).foldl (fun t n => t + n.rep * n.ii) 0

/-- The wafers of a launch, by their coordinates, and the dimensions along which they differ, with their sizes. -/
def State.systemCoords (s : State) (i : Nat) : List (List Nat) := (s.torus.take (extentOf (s.recLevels i) 0)).map fun e => e.2
def State.systemDims (s : State) (i : Nat) : List (Nat × Nat) :=
  let cs := s.systemCoords i
  ((List.range s.dims.length).filter fun d => (cs.map fun c => c.getD d 0).eraseDups.length != 1).map fun d => (d, s.dims.getD d 1)
/-- They form a torus, or a sub-torus whose rings are complete (R401). -/
def State.systemTorus (s : State) (i : Nat) : Bool :=
  (s.systemCoords i).length == (s.systemDims i).foldl (fun n d => n * d.2) 1

/-- The lowest instance numbers that no gateway uses. -/
def State.freeInsts (s : State) : List Nat := (List.range 256).filter fun n => (s.instGate n).isNone
/-- BYTES of a collective record. -/
def CollRec.bytes (c : CollRec) : Nat := c.count * elemBytes c.fmt

/-- An edge that is not declared a crossing has endpoints in different V/F regions (R213).  DEDUCED (log 53): every copy of a node may
be the endpoint of an edge that names it. -/
def State.undeclared (s : State) (b : Bind) : Bool :=
  b.graph.edges.any (fun e => !e.crossing) && !(b.fields.all fun f => b.fields.all fun g => s.regionOf f == s.regionOf g)

/-- The STATUS of the first check that a placed launch fails, 0 when it passes those made before loading. -/
def State.bindStatus (s : State) (b : Bind) : Nat :=
  let g := b.graph
  if s.powerBad b then 0x0006
  else if g.colls.any (fun c => c.bytes % 64 != 0) then 0x0007
  else if !b.cells.all (s.cellOk b) || !b.clusters.all (s.clusterOk b) || !b.fields.all (s.fieldOk b) then 0x0008
  else if g.trees.any (fun t => s.launches.any fun l => l.2.chans.contains t.chan) then 0x0008
  else if !g.colls.isEmpty && (!s.systemTorus b.i || decide (s.freeInsts.length < g.colls.length)) then 0x0008
  else if !(b.cells.all fun c => g.balanced (g.ctxLoad (b.sitesOn c).length)) then 0x000C
  else if s.undeclared b then 0x000D
  else if g.trees.any (fun t => t.ua) && decide (s.anpadPad < s.anpadMax) then 0x000E
  else 0

/-! ### Tables (R39, R211 step 2) -/

/-- The translation entries of a placement: a bound field's CTAB and a bound cluster's LTAB are written whole, and a virtual
field that led to a bound field is cleared. -/
def State.bindEntries (s : State) (p : Placement) (b : Bind) : List (RegRef × Word) :=
  let stale := (List.range 128).filter fun v =>
    let e := s.ftab.get 0 v
    e.getLsbD 15 && b.fields.contains (fld e 0 7)
  let vfs := (b.sites.map fun e => e.g.vf).eraseDups
  (stale.map fun v => (RegRef.ftab v, 0)) ++
  vfs.filterMap (fun v => (Placement.fieldFor p v).map fun f => (RegRef.ftab v, BitVec.ofNat 64 (2 ^ 15 + f))) ++
  b.fields.flatMap (fun f => (List.range 16).map fun v =>
    (RegRef.ctab f v, match b.sites.find? fun e => fieldOf e.cell == f && e.g.vclu == v with
      | some e => BitVec.ofNat 64 (2 ^ 15 + clusterOf e.cell % 12)
      | none => 0)) ++
  b.clusters.flatMap fun k => (List.range 16).map fun v =>
    (RegRef.ltab k v, match b.sites.find? fun e => clusterOf e.cell == k && e.g.vcell == v with
      | some e => BitVec.ofNat 64 (2 ^ 15 + e.cell % 16)
      | none => 0)
/-- The fields and clusters whose binding an entry is, as it stands or as it is to be. -/
def State.boundUnits (s : State) (e : RegRef × Word) : List Nat × List Nat :=
  let ofField (w : BitVec 16) : List Nat := if w.getLsbD 15 then [fld w 0 7] else []
  let ofCluster (f : Nat) (w : BitVec 16) : List Nat := if w.getLsbD 15 then [f * 12 + fld w 0 4] else []
  match e.1 with
  | .ftab i => (ofField (s.ftab.get 0 i) ++ ofField (e.2.setWidth 16), [])
  | .ctab f i => ([], ofCluster f ((s.fieldAt f).ctab.get 0 i) ++ ofCluster f (e.2.setWidth 16))
  | _ => ([], [])
/-- New entries, and the generation that they belong to (R436); block caches of the cells whose field or cluster binding changes
are invalidated (R89). -/
def State.writeEntries (s : State) (l : List (RegRef × Word)) : State :=
  let fs := l.flatMap fun e => (s.boundUnits e).1
  let ks := l.flatMap fun e => (s.boundUnits e).2
  let s := l.foldl (fun s e => s.setBind e.1 e.2) s
  { s with gen := s.gen + 1, cells := s.cells.map fun e =>
      if fs.contains (fieldOf e.1) || ks.contains (clusterOf e.1) then (e.1, { e.2 with bcache := [] }) else e }

/-! ### Loading (R211 step 3, R244) -/

/-- Loader writes reach the home of the bytes (R85) and fill the words they cover (Table 3-3). -/
def M.loadBytes (m : M) (p : Place) (d : List Byte) : M :=
  let m := m.storeBytes p (d.map fun b => (b, false))
  m.write (m.s.fullOps p d.length true)
/-- The homes a DATA record goes to. -/
def Bind.homes (b : Bind) (d : DataRec) : List Region :=
  ((b.sites.filter (dataAt b.graph d)).map fun e => match d.region with
    | 0 => Region.tcm e.cell
    | 1 => Region.csp (clusterOf e.cell)
    | 2 => Region.fsram (fieldOf e.cell)
    | _ => Region.vault e.cell).eraseDups
def M.loadData (m : M) (b : Bind) : M :=
  b.graph.datas.foldl (fun m d => (b.homes d).foldl (fun m r => M.loadBytes m { r := r, off := d.offset } d.data) m) m

/-- The handler entries of a group's nodes (Table 9-1). -/
def Bind.htabEntries (b : Bind) (e : Site) : List (Nat × Word) :=
  b.graph.handlers.map fun h =>
    (32 * h.vc + (e.g.slot * b.graph.npg + h.lnode),
     BitVec.ofNat 64 (packFields [(1, 63), (h.ctx, 61), (ofBool h.fs, 60), (if h.fs then e.g.vf else 0, 53), (h.entry / 64 % 2 ^ 22, 0)]))
/-- What a dispatch takes from a node (R205). -/
def Bind.nodeInfo (b : Bind) (e : Site) (n : NodeRec) : NodeInfo :=
  { tag := BitVec.ofNat 24 (e.g.tag b.graph.npg n.lnode), gidx0 := gidxWord e.g.idx, gidx1 := gidxWord (e.g.idx.drop 4),
    rvc := BitVec.ofNat 3 n.vc }
/-- Nodes of a cell with their NODE numbers, ascending. -/
def Bind.nodesOn (b : Bind) (cell : Nat) : List (Nat × Site × NodeRec) :=
  (List.range 32).filterMap fun n =>
    match (b.sitesOn cell).find? (fun e => e.g.slot == n / b.graph.npg), b.graph.nodes.find? (fun r => r.lnode == n % b.graph.npg) with
    | some e, some r => some (n, e, r)
    | _, _ => none

/-- VSWn without its reserved bits (Table 6-8). -/
def vswOf (v : Word) : Word := putFld v 21 40 0

/-- A cell's own registers; its block cache is invalidated (R89).  DESIGN CHOICE (log 78): SPILLB.BASE takes bits [17:0] of TCMSZ.BYTES
where SPILLSZ is 0, that is 0 for a cell with all 16 banks, whose 0x40000 does not fit the field (R55). -/
def State.loadCell (s : State) (b : Bind) (cell : Nat) : State :=
  let g := b.graph
  let code := (g.config 0x107).getD 0
  let mode := s.recMode b.i
  let here := b.sitesOn cell
  let s := s.onCell cell fun k =>
    { k with htab := (here.flatMap b.htabEntries).foldl (fun t e => Tab.set t e.1 e.2) [], ahtab := [], anodes := [],
             nodes := (b.nodesOn cell).foldl (fun t e => Tab.set t e.1 (b.nodeInfo e.2.1 e.2.2)) [],
             schk := mode / 8 % 2 == 1, atom := mode / 16 % 2 == 1, codeBase := code.setWidth 8, codeLim := code.extractLsb' 16 8,
             vsw := (List.range 8).foldl (fun t n => match g.config (0x120 + n) with
               | some v => Tab.set t n (vswOf v)
               | none => t) [],
             bcache := [], td := b.cellRings.foldl (fun t e => Tab.set t e.1 e.2) [], treech := [], injN := [], inj := [], ext := [], injRes := 0, extRes := 0,
             cpcfg := [], cpstat := [], ages := [], lcur := 0 }
  let tag0 := match here with
    | e :: _ => e.g.tag g.npg 0 / 2 ^ 9 * 2 ^ 9
    | [] => 0
  let sp := s.recNum b.i 144 4
  let ov := s.recNum b.i 148 4
  (List.range 4).foldl (fun s x =>
    let s := s.onCtx cell x fun c =>
      { c with spillb := BitVec.ofNat 64 ((s.spillSpan b.i cell x).1 % 2 ^ 18), spills := BitVec.ofNat 64 sp, ovfsz := BitVec.ofNat 64 ov,
               ovfptr := if ov = 0 then 0 else BitVec.ofNat 64 (tag0 * 2 ^ 37 + 2 ^ 35 + ((s.cellAt cell).vltBytes - (x + 1) * ov)), sup := false }
    match (b.nodesOn cell).find? fun e => g.ctxOf e.2.2.lnode == some x with
    | some e =>
        let n := b.nodeInfo e.2.1 e.2.2
        s.onCtx cell x fun c =>
          { c with agelim := BitVec.ofNat 32 (s.recNum b.i 36 4), mytag := n.tag, gidx0 := n.gidx0, gidx1 := n.gidx1, rvc := n.rvc }
    | none => s) s

/-- A cluster's ring descriptors and barrier masks (R66, R243, R305). -/
def State.loadCluster (s : State) (b : Bind) (k : Nat) : State :=
  let mask (v : Word) : Word := (b.sites.filter fun e => clusterOf e.cell == k).foldl (fun m e =>
    m ||| BitVec.ofNat 64 (fld v (4 * e.g.vcell) 4 * 2 ^ (4 * (e.cell % 16)))) 0
  s.onCluster k fun c =>
    { c with rd := ((b.clusterRings k).getD []).foldl (fun t e => Tab.set t e.1 e.2) [],
             cb := (List.range 8).foldl (fun t n => Tab.set t n
               { mask := mask ((b.graph.config (0x280 + 4 * n)).getD 0), gen := (c.cb.get {} n).gen }) [] }

/-- A field's cache bindings: the records in order take the free slices and entries in order (R83). -/
def State.loadCaches (s : State) (b : Bind) (f : Nat) : State × List (Nat × Nat) :=
  let slots := (s.fieldAt f).freeCaches.zip (s.fieldAt f).freeFcbs
  let l := b.graph.caches.zip slots
  let s := l.foldl (fun s e => match b.cacheCell f e.1 with
    | some c =>
        let v : Word := BitVec.ofNat 64 (packFields [(1, 63), (e.2.1, 56), (c % 192, 48), (e.1.len, 32), (e.1.base, 16)])
        s.onField f fun fl => { fl with fcb := fl.fcb.set e.2.2 v, slices := fl.slices.set e.2.1 { fl.slice e.2.1 with lines := [] } }
    | none => s) s
  (s, l.map fun e => (f, e.2.1))

/-! ### Tree channels and collective nodes (R391, R401) -/

/-- Set a bit of a node's mask. -/
def State.joinMask (s : State) (level node chan bit : Nat) : State :=
  { s with anmask := s.anmask.set (nodeKey level node chan) (s.nodeMask level node chan ||| (1#16 <<< bit)) }
/-- A channel of the launch: TREECH of its cells, and the masks of the nodes of its groups (R391, R392). -/
def State.loadTree (s : State) (b : Bind) (t : TreeRec) : State :=
  let v : Word := BitVec.ofNat 64 (packFields [(1, 63), (b.graph.ctxFor t.lnode, 61), (t.level, 59), (ofBool t.ua, 58), (t.op, 54)])
  let s := b.cells.foldl (fun s c => s.onCell c fun k => { k with treech := k.treech.set t.chan v }) s
  b.sites.foldl (fun s e =>
    let s := s.joinMask 0 (clusterOf e.cell) t.chan e.g.vcell
    let s := if t.level = 0 then s else s.joinMask 1 (fieldOf e.cell) t.chan e.g.vclu
    if t.level = 2 then (s.joinMask 2 (e.g.vf / 16) t.chan (e.g.vf % 16)).joinMask 3 0 t.chan (e.g.vf / 16) else s) s
/-- A channel starts with no mask and no round. -/
def State.clearChan (s : State) (chan : Nat) : State :=
  { s with anmask := s.anmask.filter (fun e => e.1 % 32 != chan), treeRound := s.treeRound.filter fun e => e.1 % 32 != chan }

/-- The cells of a launch in the order of the wafer phase (R402). -/
def Bind.inOrder (b : Bind) : List Nat :=
  (((List.range 128).flatMap fun f => (List.range 16).flatMap fun k => (List.range 16).filterMap fun c =>
    (b.sites.find? fun e => e.g.vf == f && e.g.vclu == k && e.g.vcell == c).map fun e => e.cell)).eraseDups
/-- A collective node: an instance at one gateway, and CPCFG of every cell (Table 16-6). -/
def State.loadColl (s : State) (b : Bind) (c : CollRec) (inst : Nat) : State :=
  let g := gateFor b.cells
  let v : Word := BitVec.ofNat 64 (packFields [(1, 63), (b.graph.ctxFor c.lnode, 61), (g, 58), (inst, 40), (c.bytes, 0)])
  let own := (s.coords s.waferId.toNat).getD []
  let s := b.cells.foldl (fun s x => s.onCell x fun k => { k with cpcfg := k.cpcfg.set c.port v }) s
  s.onInst g inst fun _ => { op := c.op, fmt := c.fmt, count := c.count, members := b.inOrder.map fun x => (x, c.port),
                             dims := (s.systemDims b.i).map fun d => (d.1, d.2, own.getD d.1 0) }

/-! ### Starting (R211 step 5, R245, R472) -/

/-- The rows that a vault program in a cell's TCM names (R114, R120). -/
def State.namedRows (s : State) (cell off : Nat) : List Nat :=
  let n := fld (s.headerAt cell off) 32 12
  let es : List (Option Instr) := (List.range n).map fun i =>
    (decodeVault (BitVec.ofNat 64 (s.numAt { r := .tcm cell, off := off + 8 + 8 * i } 8))).toOption
  let passes (i : Nat) : Nat := ((List.range n).findSome? fun (j : Nat) => match es.getD j none with
    | some (Instr.drpt _ back count) => if i < j ∧ j ≤ i + back.toNat then some (min count.toNat 5312) else none
    | _ => none).getD 1
  (List.range n).flatMap fun (i : Nat) => match es.getD i none with
    | some (Instr.dact _ _ row rinc) =>
        ((List.range (if rinc = 0 then 1 else passes i)).filterMap fun t =>
          let r := (row.toNat : Int) + stepBy rinc t
          if 0 ≤ r ∧ r < 5184 then some r.toNat else none).eraseDups
    | _ => []
/-- A row lies in a range of vault offsets. -/
def rowMeets (l row : Nat) (e : Nat × Nat) : Bool := meet (row * l * 2048, (row + 1) * l * 2048) e
/-- A vault program as an image holds it: a valid header and entries that decode, the last one DEND. -/
def State.programAt (s : State) (cell off : Nat) : Bool :=
  let h := s.headerAt cell off
  let n := fld h 32 12
  headerOk h && (List.range n).all fun i =>
    match decodeVault (BitVec.ofNat 64 (s.numAt { r := .tcm cell, off := off + 8 + 8 * i } 8)) with
    | .ok (.dend _) => true
    | .ok _ => i + 1 != n
    | .error _ => false
/-- The vault programs that an image places in a cell's code region: those it starts and those its handlers may start. -/
def State.programs (s : State) (b : Bind) (cell : Nat) : List Nat :=
  let code := b.graph.codeSpan
  let spans := (b.dataSpans 0 (b.sitesOn cell)).map fun e => (max e.1 code.1, min e.2 code.2)
  (b.graph.vruns.map fun v => v.off) ++ spans.flatMap fun e =>
    ((List.range ((e.2 - e.1) / 8)).map fun i => (e.1 + 7) / 8 * 8 + 8 * i).filter (s.programAt cell)
/-- No vault program of the launch names a row of an overflow area or of a cached range, those of earlier bindings that are still valid
included (R55, R84, R87).  DEDUCED (log 40): the image
marks no program that only a handler starts; a valid header before entries that decode is taken for one. -/
def State.rowsOk (s : State) (b : Bind) (cell : Nat) : Bool :=
  let l := (s.cellAt cell).vbanks.length
  let spans := (if s.recNum b.i 148 4 = 0 then [] else [s.overflowSpan b.i cell]) ++ b.cacheSpans cell ++ s.boundSpans cell
  spans.isEmpty || (s.programs b cell).all fun off => (s.namedRows cell off).all fun r => !spans.any (rowMeets l r)

/-- The relative DRUNs of a cell; none when its sequencer refuses one. -/
def State.startRuns (s : State) (b : Bind) (cell : Nat) : Option State :=
  b.graph.vruns.foldl (fun (o : Option State) v => match o with
    | none => none
    | some s =>
        let c : Cmd := { cell := cell, x := b.graph.ctxFor v.lnode, a := { v := BitVec.ofNat 64 (2 ^ 61 + v.off) }, b := { v := BitVec.ofNat 64 v.k } }
        if s.drunCode cell c (false, false, false) = 0 then some (s.arm cell c (false, false, false)) else none) (some s)
def State.startAll (s : State) (b : Bind) : Option State :=
  b.cells.foldl (fun (o : Option State) c => match o with
    | none => none
    | some s => s.startRuns b c) (some s)

/-- One initial message to each node that no edge enters. -/
def State.firstMessages (s : State) (b : Bind) : State :=
  b.sites.foldl (fun s e => b.graph.nodes.foldl (fun s n =>
    if b.graph.edges.any (fun d => d.dst == n.lnode) then s
    else
      let t := e.g.tag b.graph.npg n.lnode
      let a : Acc := { id := s.fresh, who := .mgr (fieldOf e.cell), cell := e.cell, vc := n.vc, addr := BitVec.ofNat 64 (t * 2 ^ 37),
                       op := .message { vc := n.vc, tag := BitVec.ofNat 24 t, words := [{}] } }
      ({ s with fresh := s.fresh + 1 } : State).inject a) s) s

/-- What the launch holds from now on. -/
def State.holding (s : State) (b : Bind) (slices : List (Nat × Nat)) (insts : List (Nat × Nat)) : Launch :=
  let l := s.launchAt b.i
  let nodes : List NodeBind := b.cells.flatMap fun c => (b.nodesOn c).filterMap fun e => (b.graph.ctxOf e.2.2.lnode).map fun x =>
    { cell := c, ctx := x, lnode := e.2.2.lnode, group := e.2.1.g.lin, tag := e.2.1.g.tag b.graph.npg e.2.2.lnode }
  { l with fmin := s.recFloor b.i, nodes := nodes, cells := b.cells, ctxs := (nodes.map fun n => (n.cell, n.ctx)).eraseDups,
           clusters := b.clusters, fields := b.fields, chans := (b.graph.trees.map fun t => t.chan).eraseDups, insts := insts,
           slices := slices, reserve := reserveOf (s.recFloor b.i) b.engine, engine := b.engine, boost := s.recBoost b.i, snap := false }

/-- A launch that is BINDING, before it holds anything. -/
def State.unbound (s : State) (i : Nat) : State :=
  let l := s.launchAt i
  ({ s with launches := s.launches.set i l.bare } : State).setFloors l.fields
/-- Saffron raises the fields of a launch to its floor, in the regions that it forms (R210, R446, R447). -/
def State.granting (s : State) (b : Bind) : State := ((s.withLaunch b).setFloors b.fields).formRegions s.regions
/-- Every field of a launch runs at its floor: until then it holds no cells (R210). -/
def State.granted (s : State) (b : Bind) : Bool := b.fields.all fun f => decide (s.recFloor b.i ≤ (s.fieldAt f).freq.toNat)

/-- Step 5 of R211: the DRUNs are armed and the initial messages sent; none when a sequencer refuses its DRUN. -/
def M.start (m : M) (b : Bind) : Option M := (m.s.startAll b).map fun s => { m with s := s.firstMessages b }
/-- Steps 2 and 3 of R211, once every check before them has passed; none when a check on the loaded image fails. -/
def M.bindAll (m : M) (p : Placement) (b : Bind) : Option M :=
  let m := m.on fun s => s.writeEntries (s.bindEntries p b)
  let m := m.on fun s => b.cells.foldl (fun s c => s.loadCell b c) (b.clusters.foldl (fun s k => s.loadCluster b k) s)
  let m := m.loadData b
  let (s, slices) := b.fields.foldl (fun (a : State × List (Nat × Nat)) f => let r := a.1.loadCaches b f; (r.1, a.2 ++ r.2)) (m.s, [])
  let s := b.graph.trees.foldl (fun s t => s.loadTree b t) (b.graph.trees.foldl (fun s t => s.clearChan t.chan) s)
  let ids := s.freeInsts
  let insts := (List.range b.graph.colls.length).map fun n => (gateFor b.cells, ids.getD n 0)
  let s := (b.graph.colls.zip ids).foldl (fun s e => s.loadColl b e.1 e.2) s
  let s := { s with launches := s.launches.set b.i (s.holding b slices insts) }
  let s := (s.fields.map fun e => e.1).foldl State.meetCap s
  if b.cells.all (s.rowsOk b) then some { m with s := s } else none

/-- The groups that this wafer holds; none when the torus list has no wafer for some group (R205, R408). -/
def State.ownGroups (s : State) (i : Nat) : Option (List Group) :=
  if s.torus.length < extentOf (s.recLevels i) 0 then none
  else some ((s.recGroups i).filter fun g => (s.torus[g.sys]?).map (fun e => e.1) == some s.waferId.toNat)

/-- The image of a record, as the loader reads it. -/
def State.recGraph (s : State) (i : Nat) : Option Graph :=
  let a : Word := BitVec.ofNat 64 (s.recNum i 16 8)
  if fld a 57 7 ≠ 6 * 16 then none
  else
    match s.imageBytes (s.recPasid i) (fld a 0 57) (s.recNum i 24 4) with
    | some d => readImage d
    | none => none

/-- The V/F regions as Saffron forms them for a placement (R447). -/
def State.formed (s : State) (p : Placement) : State := if p.regions.isEmpty then s else { s with regions := p.regions }
/-- A launch is refused, or, for a reason that another placement may lift, the binder goes on to that placement (R213). -/
def M.refuseAt (m : M) (i : Nat) (p : Placement) (status : Nat) : M :=
  if p.more && (status == 0x0006 || status == 0x0008 || status == 0x000D) then m else m.setState i 6 status

/-- The groups of a bound launch with the cells that its tags lead to. -/
def State.boundSites (s : State) (g : Graph) (gs : List Group) : List Site :=
  gs.filterMap fun e => match s.tagCell (e.tag g.npg 0) with
    | .ok (c, _) => some { g := e, cell := c }
    | .error _ => none
/-- A launch over several wafers starts on none of them before steps 1 to 4 are complete on every one (R482). -/
def State.spansWafers (s : State) (i : Nat) : Bool := decide (1 < extentOf (s.recLevels i) 0)
/-- A started launch is RUNNING; one whose DRUN a sequencer refuses frees what it bound. -/
def M.begin (m : M) (b : Bind) : M :=
  match m.start b with
  | some m => (m.on fun s => { s with launches := s.launches.set b.i { s.launchAt b.i with loaded := false } }).setState b.i 4 0
  | none => ((m.stopLaunch b.i).on fun s => (s.clearBindings (s.launchAt b.i)).freeLaunch b.i).setState b.i 6 0x0008
/-- Steps 2 to 5 for a launch at a placement that has passed the checks made before loading. -/
def M.bindAt (m : M) (p : Placement) (b : Bind) : M :=
  let n := m.on fun s => (s.formed p).granting b
  if !n.s.granted b then n
  else match n.bindAll p b with
    | none => m.setState b.i 6 0x0008
    | some n =>
        if n.s.spansWafers b.i && !p.ready then n.on fun s => { s with launches := s.launches.set b.i { s.launchAt b.i with loaded := true } }
        else n.begin b

/-- LAUNCH_BINDING: Sumac binds and loads a dispatched launch at a placement and starts it, or refuses it and holds nothing of it
(R211); while Saffron raises its fields to FMIN, and while its other wafers have not loaded it (R482), it stays BINDING and a later
occurrence goes on; what the other wafers have loaded is told by the event (DESIGN CHOICE, log 96).  An image that cannot be read is refused before the limits it decides. -/
def execLaunchBinding (i : Nat) (p : Placement) (s : State) : Host.Outcome State Fault Refusal :=
  run s fun m =>
    if 64 ≤ i ∨ m.s.recState i ≠ 3 ∨ regionsOk (m.s.formed p).regions = false ∨ (m.s.launchAt i).dying ≠ none then m
    else
      match m.s.recGraph i, m.s.ownGroups i with
      | none, _ => (m.on fun s => s.unbound i).setState i 6 0x0007
      | some g, gs =>
          if (m.s.launchAt i).loaded then
            (if p.ready then m.begin { i := i, graph := g, sites := m.s.boundSites g (gs.getD []) } else m)
          else
            let m := m.on fun s => s.unbound i
            if 32 < extentOf (m.s.recLevels i) 4 * g.npg then m.setState i 6 0x0002
            else
              match gs with
              | none => m.setState i 6 0x0008
              | some gs =>
                  let sites := gs.filterMap fun e => (siteFor p e).map fun c => ({ g := e, cell := c } : Site)
                  let b : Bind := { i := i, graph := g, sites := sites }
                  if sites.length ≠ gs.length ∨ m.s.placed i p sites = false then m.refuseAt i p 0x0008
                  else if (m.s.formed p).bindStatus b ≠ 0 then m.refuseAt i p ((m.s.formed p).bindStatus b)
                  else m.bindAt p b

end Sys2Proof.Machine
end

