-- ==== Sys2Proof/Machine/Repair.lean ====
section
/-! DEFINITION. Machine/Repair.lean: what is listed in a memory and how it moves (R45, R46, R91, R105), snapshots (R92, R424, R425),
bank events and retirement (R421, R422, R440), adoption (R214 to R217), and repairs of vault interfaces, tree and mesh (R107, R397,
R418). -/
namespace Sys2Proof.Machine
open Sys2Proof

/-! ### Memory by place -/

/-- The place in an ascending mask of a set bit: the bits set below it. -/
def rankIn (mask b : Nat) : Option Nat := if mask / 2 ^ b % 2 = 1 then some (countBits b (mask % 2 ^ b)) else none

/-- The offset, within a vault's program capacity or its snapshot area, of a byte of its banks. -/
def Cell.vaultOffset (q : Cell) (o : Nat) : Option Nat :=
  let bank := o / 2048 / 5312
  let row := o / 2048 % 5312
  let row := if row < 5184 then row else fld (q.vault.vrmap.get 0 (bank * 128 + (row - 5184))) 0 13
  (q.vbanks.findIdx? fun b => b == bank).map fun j => ((row * 16 + o % 2048 / 128) * q.vbanks.length + j) * 128 + o % 128
/-- The logical offset that has a key, if the region has it. -/
def State.offsetOf (s : State) (r : Region) (k : Nat) : Option Nat :=
  let o := k % 2 ^ 64
  let u := k / 2 ^ 64 % 2 ^ 32
  let cand : Option Nat := match r with
    | .tcm c => if u = c then (rankIn (s.cellAt c).tcmLive.toNat (o / 16384)).map fun b => b * 16384 + o % 16384 else none
    | .csp cl =>
        let m := (s.clusterAt cl).cspLive.toNat
        if u = cl then (rankIn m (o / 65536)).map fun b => 8 * (o % 65536 / 8 * countBits 32 m + b) + o % 8 else none
    | .fsram f =>
        let fl := s.fieldAt f
        (fl.inter.findIdx? fun sl => u == f * 80 + sl).bind fun i =>
          (rankIn (fl.slice (u % 80)).live.toNat (o / 131072)).map fun b =>
            let v := b * 131072 + o % 131072
            (v / 256 * fl.inter.length + i) * 256 + v % 256
    | .carve f sl => if u = f * 80 + sl then (rankIn ((s.fieldAt f).slice sl).live.toNat (o / 131072)).map fun b => b * 131072 + o % 131072 else none
    | .vault c => if u = c then (s.cellAt c).vaultOffset o else none
    | .opm c => if u = c then some o else none
    | .acm c => if u = c then some o else none
    | _ => none
  cand.bind fun n => if n < s.sizeOf r ∧ s.key r n = some k then some n else none

/-- What memory lists in a region (R424): bytes not at rest, full words and poisoned units, by place. -/
structure Listed where
  bytes : List (Place × Byte) := []
  full : List Place := []
  poison : List Place := []
  deriving DecidableEq, Repr, Inhabited

/-- The key of a poison unit's first byte. -/
def unitFirst (r : Region) (k : Nat) : Nat :=
  match r with
  | .acm _ => keyOf 6 (k / 2 ^ 64 % 2 ^ 32) (k % 2 ^ 64 * 5)
  | _ => 8 * k
def State.placeOf (s : State) (rs : List Region) (key : Region → Nat) : Option Place :=
  rs.findSome? fun r => (s.offsetOf r (key r)).map fun o => { r := r, off := o }
def State.listed (s : State) (rs : List Region) : Listed :=
  { bytes := s.mem.bytes.filterMap fun e => (s.placeOf rs fun _ => e.1).map fun p => (p, e.2)
    full := s.mem.full.filterMap fun k => s.placeOf (rs.filter Region.hasFull) fun _ => 8 * k
    poison := s.mem.poison.filterMap fun k => s.placeOf rs fun r => unitFirst r k }

/-- Writes that set what is listed, or clear it; a place that a region no longer has is left out. -/
def State.listedOps (s : State) (l : Listed) (on : Bool) : List MemOp :=
  let key (p : Place) : Option Nat := if p.off < s.sizeOf p.r then s.key p.r p.off else none
  l.bytes.filterMap (fun e => (key e.1).map fun k => MemOp.byte k (if on then e.2 else byteAtRest)) ++
  l.full.filterMap (fun p => (key p).map fun k => MemOp.full (k / 8) on) ++
  l.poison.filterMap fun p => (key p).map fun k => MemOp.poison (poiKey p.r k) on
def M.clearListed (m : M) (l : Listed) : M := m.write (m.s.listedOps l false)
def M.putListed (m : M) (l : Listed) : M := m.write (m.s.listedOps l true)
/-- Regions change their layout and keep their contents at equal offsets. -/
def M.relay (m : M) (rs : List Region) (f : State → State) : M :=
  let l := m.s.listed rs
  ((m.clearListed l).on f).putListed l
/-- What is listed, at other regions. -/
def Listed.move (l : Listed) (f : Region → Region) : Listed :=
  { bytes := l.bytes.map fun e => ({ e.1 with r := f e.1.r }, e.2), full := l.full.map fun p => { p with r := f p.r },
    poison := l.poison.map fun p => { p with r := f p.r } }
/-- Regions' contents are copied to others at equal offsets, all at once, poison and full/empty bits included.  What a slice holds
dirty of a vault is copied with it, and what it holds of the new vault goes (R85, R429). -/
def M.copyRegions (m : M) (l : List (Region × Region)) : M :=
  let l := l.filter fun e => e.1 != e.2
  let m := l.foldl (fun m e => match e.1 with
    | .vault c => m.settleVault c
    | _ => m) m
  let got := l.map fun e => (m.s.listed [e.1]).move fun _ => e.2
  let m := got.foldl M.putListed (m.clearListed (m.s.listed (l.map fun e => e.2)))
  m.on fun s => l.foldl (fun s e => match e.2 with
    | .vault c => s.dropLines c
    | _ => s) s

/-! ### Bank events (R421) -/

def bankField : BankRef → Nat
  | .tcm c _ => fieldOf c
  | .csp k _ => fieldOfCluster k
  | .fsram f _ _ => f
  | .opm c _ => fieldOf c
  | .acm c _ => fieldOf c
  | .vault c _ => fieldOf c
/-- The poison key of a byte of a bank. -/
def State.bankPoison (s : State) (b : BankRef) (o : Nat) : Nat :=
  match b with
  | .tcm c n => keyOf 1 c (n * 16384 + o % 16384) / 8
  | .csp k n => keyOf 2 k (n * 65536 + o % 65536) / 8
  | .fsram f sl n => keyOf 3 (f * 80 + sl) (n * 131072 + o % 131072) / 8
  | .opm c n => keyOf 5 c (n * 16384 + o % 16384) / 8
  | .acm c n => keyOf 9 c ((n * 5120 + o % 5120) / 5)
  | .vault c n => s.rowKey c n (o / 2048) (o % 2048) / 8
/-- A launch holds the bank's unit: the bank holds data. -/
def State.bankHeld (s : State) (b : BankRef) : Bool :=
  match b with
  | .tcm c _ => s.cellHeld c
  | .csp k _ => s.launches.any fun l => l.2.clusters.contains k
  | .fsram f _ _ => s.fieldHeld f
  | .opm c _ => s.cellHeld c
  | .acm c _ => s.cellHeld c
  | .vault c _ => s.cellHeld c

def bankLog {α : Type} (l : List (BankRef × List α)) (b : BankRef) : List α := ((l.find? fun e => e.1 == b).map fun e => e.2).getD []
def putLog {α : Type} (l : List (BankRef × List α)) (b : BankRef) (v : List α) : List (BankRef × List α) :=
  (l.filter fun e => e.1 != b) ++ if v.isEmpty then [] else [(b, v)]

/-- A correctable event is lasting when the event two before it is less than 2^24 vault clocks old. -/
def lastingAt (log : List (Nat × Nat × Bool)) (t : Nat) : Bool :=
  match (log.filter fun e => e.2.2)[1]? with
  | some e => decide (t - e.1 < 2 ^ 24)
  | none => false

/-- The line of a cache slice that a byte of one of its banks belongs to (R86): each bank is a way, of 1,024 sets. -/
def State.bankLine (s : State) (b : BankRef) (o : Nat) : Option (Nat × Nat × CLine) :=
  match b with
  | .fsram f sl n => (((s.fieldAt f).slice sl).lines.find? fun l => l.way == n && l.set == o % 131072 / 128).map fun l => (f, sl, l)
  | _ => none
/-- A unit of a bank becomes poisoned, in a cached line too (R77, R103). -/
def M.poisonBank (m : M) (b : BankRef) (o : Nat) : M :=
  match m.s.bankLine b o with
  | some (f, sl, l) => m.on fun s => s.onSlice f sl fun v => { v with lines := v.lines.map fun k => if k.line = l.line then
      { k with data := k.data.mapIdx fun i e => if i / 8 = o % 128 / 8 then (e.1, true) else e } else k }
  | none => m.write [MemOp.poison (m.s.bankPoison b o) true]
/-- A correctable error in a vault's column, which the untimed path or a scrub writes back (R103). -/
def State.flaw (s : State) (b : BankRef) (o : Nat) : State :=
  match b with
  | .vault c n =>
      let e := (n, o / 2048, o % 2048 / 128)
      s.onCell c fun k => { k with vault := { k.vault with flawed := if k.vault.flawed.contains e then k.vault.flawed else k.vault.flawed ++ [e] } }
  | _ => s

/-- An event whose row has been remapped since (R104). -/
def Field.handled (k : Field) (b : BankRef) (e : Nat × Nat × Bool) : Bool :=
  match b with
  | .vault c n => k.remapped.any fun r => r.1 == c && r.2.1 == n && r.2.2.1 == e.2.1 / 2048 && decide (e.1 < r.2.2.2)
  | _ => false

/-- BANK_ERROR_EVENT: the event is logged and judged; an uncorrectable one leaves its unit poisoned (R77, R103). -/
def execBankErrorEvent (b : BankRef) (key : Nat) (correctable : Bool) (s : State) : Host.Outcome State Fault Refusal :=
  run s fun m =>
    let f := bankField b
    let log := bankLog (m.s.fieldAt f).banklog b
    let t := m.s.vtime.toNat
    let lasting := if correctable then lastingAt log t else m.s.bankHeld b
    let log' := (t, key, correctable) :: log
    let open_ := log'.filter fun e => !(m.s.fieldAt f).handled b e
    let m := if correctable then m.on fun s => s.flaw b key else m.poisonBank b key
    m.on fun s => s.onField f fun k =>
      { k with banklog := putLog k.banklog b log',
               lasting := if lasting then putLog k.lasting b (open_.map fun e => e.2.1) else k.lasting }

/-! ### Retirement (R47, R92, R105, R422, R440) -/

/-- The live map is rewritten after a retirement, the generation last (R470); what it holds of fields and cells stands already. -/
def M.mapGen (m : M) : M := m.putNum (hdm0 0x4000) 8 m.s.gen.toNat
/-- It says that a cell is dead. -/
def M.mapCell (m : M) (cell : Nat) : M := (m.putNum (hdm0 (0x4000 + 88 + cell)) 1 1).mapGen
/-- A launch has resident data in a cell's vault: its image places some there, or cannot be read to tell.  A group's vault is that
of the cell its nodes' tags lead to, wherever they have been adopted. -/
def State.residentIn (s : State) (i cell : Nat) : Bool :=
  let l := s.launchAt i
  let home (e : NodeBind) : Bool := match s.tagCell e.tag with
    | .ok (k, _) => k == cell
    | .error _ => e.cell == cell
  l.cells.contains cell && (match s.recGraph i with
    | some g => g.datas.any fun d => d.region == 3 && (match d.group with
        | some n => l.nodes.any fun e => e.group == n && home e
        | none => true)
    | none => true)
/-- The supervisor kills the launches with resident data in vaults that cannot be reached (R107). -/
def M.killResident (m : M) (cells : List Nat) : M :=
  (List.range 64).foldl (fun (m : M) i =>
    if (m.s.recState i = 3 ∨ m.s.recState i = 4) ∧ cells.any (fun c => m.s.vaultGone c && m.s.residentIn i c) then m.supKill i (m.s.recNum i 2 2)
    else m) m
/-- A cell dies; its vault is lost when its buddy is dead too (R107). -/
def M.retireCell (m : M) (cell : Nat) : M :=
  ((m.on fun s => s.onCell cell fun k => { k with dead := true }).mapCell cell).killResident [cell, buddyOf cell]

/-- The cells of a cluster, of a field, that are configured. -/
def State.cellsWhere (s : State) (p : Nat → Bool) : List Nat := (s.cells.filter fun e => p e.1).map fun e => e.1
/-- A lasting uncorrectable event forces a quiesced point (R422). -/
def State.forced (s : State) (b : BankRef) : Bool :=
  let k := s.fieldAt (bankField b)
  (bankLog k.banklog b).any fun e => !e.2.2 && (bankLog k.lasting b).contains e.2.1
/-- A quiesced point of the unit that a bank belongs to (R47). -/
def State.bankQuiesced (s : State) (b : BankRef) : Bool :=
  match b with
  | .tcm c _ => s.quiesced c
  | .csp k _ => s.launches.all fun l => !l.2.clusters.contains k || l.2.snap
  | .fsram f _ _ => s.fieldQuiet f
  | .opm c _ => s.quiesced c
  | .acm c _ => s.quiesced c
  | .vault c _ => s.quiesced c
/-- A field SRAM bank leaves its slice: lines in its way go, and carve-outs and the interleaved SRAM keep their contents. -/
def M.retireSram (m : M) (f sl bank : Nat) : M :=
  m.relay ([.fsram f] ++ (List.range 80).map fun i => .carve f i) fun s => s.onField f fun k =>
    let v := k.slice sl
    { k with slices := k.slices.set sl { v with live := v.live &&& ~~~(1#20 <<< bank), lines := v.lines.filter fun l => l.way != bank } }
/-- The bytes of the snapshots that a cell's area holds. -/
def State.areaBytes (s : State) (cell : Nat) : List (Byte × Bool) :=
  (s.snaps.filter fun p => p.cell == cell).flatMap fun p => s.bytesAt (s.areaOf cell) p.len
/-- What a bank's retirement waits for (R422): that every launch that holds it is pre-empted when an event forces it, else that none
does. -/
def State.bankFree (s : State) (b : BankRef) : Bool := s.bankQuiesced b && (s.forced b || !s.bankHeld b)
/-- A vault bank leaves the interleave, and the snapshot area goes to the highest rows that are left; a vault with fewer than 4 live
banks retires its cell. -/
def M.retireVault (m : M) (c bank : Nat) : M :=
  let saved := m.s.areaBytes c
  let m := m.relay [.vault c] fun s => s.onCell c fun k => { k with vltLive := k.vltLive &&& ~~~(1#8 <<< bank) }
  let m := m.write (m.s.writeOps (m.s.areaOf c) saved)
  if (m.s.cellAt c).vbanks.length < 4 then m.retireCell c else m
/-- The rows of a bank that took an event, whose spare is still to be found. -/
def State.rowsToMap (s : State) (b : BankRef) : List Nat :=
  ((bankLog (s.fieldAt (bankField b)).lasting b).map fun o => o / 2048).eraseDups

/-- A row has been remapped: its events are dealt with. -/
def State.rowDone (s : State) (cell bank row : Nat) : State :=
  s.onField (fieldOf cell) fun k => { k with
    lasting := putLog k.lasting (.vault cell bank) ((bankLog k.lasting (.vault cell bank)).filter fun o => o / 2048 != row)
    remapped := (k.remapped.filter fun r => !(r.1 == cell && r.2.1 == bank && r.2.2.1 == row)) ++ [(cell, bank, row, s.vtime.toNat)] }
/-- ROW_REMAP: at a quiesced point, with the untimed path free, a row that took an event of a bank with lasting faults is copied to a spare over that path, poison included,
and every command and offset that names it reaches the spare. -/
def execRowRemap (cell bank row : Nat) (s : State) : Host.Outcome State Fault Refusal :=
  run s fun m =>
    let k := m.s.cellAt cell
    if m.s.quiesced cell && k.pathFree && k.vault.queue.isEmpty && (m.s.rowsToMap (.vault cell bank)).contains row && k.liveBanks.contains bank &&
        (k.pickAt (m.s.sclsOf cell) m.s.vtime.toNat).isNone then
      match k.vault.spareFor bank row with
      | none => m
      | some i =>
          let old := m.s.rowKey cell bank row 0
          let new := keyOf 4 cell ((bank * 5312 + 5184 + i) * 2048)
          let mem := m.s.mem
          let m := m.write (((List.range 2048).map fun j => MemOp.byte (new + j) (mem.read (old + j))) ++
            (List.range 256).map fun j => MemOp.poison (new / 8 + j) (mem.isPoison (old / 8 + j)))
          m.on fun s => (s.rowDone cell bank row).onVault cell fun v =>
            let was := v.vrmap.filter fun e => !(e.1 / 128 == bank && e.2.getLsbD 15 && fld e.2 0 13 == row)
            { v.copyRow fusedTiming k.liveBanks bank (v.physRow bank row) (5184 + i) m.s.vtime.toNat with
              flawed := v.flawed.filter fun e => !(e.1 == bank && e.2.1 == row)
              vrmap := Tab.set was (bank * 128 + i) (BitVec.ofNat 16 (2 ^ 15 + row)) }
    else m

/-- BANK_RETIREMENT: at a quiesced point, the field's slices flushed, a bank with a lasting fault is retired; of a vault bank, only
once a row has no spare left, each row being remapped by ROW_REMAP until then. -/
def execBankRetirement (b : BankRef) (s : State) : Host.Outcome State Fault Refusal :=
  run s fun m =>
    let f := bankField b
    let done (m : M) : M := (m.on fun s => s.onField f fun k => { k with lasting := putLog k.lasting b [] }).mapGen
    if (bankLog (m.s.fieldAt f).lasting b).isEmpty || !m.s.bankFree b then m
    else if m.s.fieldDirty f then m.on fun s => s.flushField f
    else
      match b with
      | .tcm c n => done (m.relay [.tcm c] fun s => s.onCell c fun k => { k with tcmLive := k.tcmLive &&& ~~~(1#16 <<< n) })
      | .csp k n => done (m.relay [.csp k] fun s => s.onCluster k fun c => { c with cspLive := c.cspLive &&& ~~~(1#32 <<< n) })
      | .fsram f sl n => done (m.retireSram f sl n)
      | .opm c _ => done (m.retireCell c)
      | .acm c _ => done (m.retireCell c)
      | .vault c n =>
          if (m.s.rowsToMap b).any fun r => ((m.s.cellAt c).vault.spareFor n r).isNone then done (m.retireVault c n) else m

/-- Why a cell is retired (R92, R422, R440). -/
def State.mustRetire (s : State) (cell : Nat) : Bool :=
  (s.cellAt cell).failed ||
  (s.fieldAt (fieldOf cell)).lasting.any (fun e => match e.1 with
    | .opm c _ => c == cell
    | .acm c _ => c == cell
    | _ => false) || decide ((s.cellAt cell).vbanks.length < 4)
/-- CELL_RETIREMENT: the cell is dead in the live map, and no size register of another cell changes. -/
def execCellRetirement (cell : Nat) (s : State) : Host.Outcome State Fault Refusal :=
  run s fun m =>
    if m.s.mustRetire cell && m.s.quiesced cell && !(m.s.cellAt cell).dead then
      (if m.s.fieldDirty (fieldOf cell) then m.on fun s => s.flushField (fieldOf cell) else m.retireCell cell)
    else m

/-! ### Snapshots (R424, R425) -/

/-- The bytes that a cell index saves of its cluster's scratchpad. -/
def inShare (cell : Nat) (p : Place) : Bool := p.r == .csp (clusterOf cell) && p.off / 131072 == cell % 16
/-- A cell's memories with its share of the cluster. -/
def State.cellListed (s : State) (cell : Nat) : Listed :=
  let l := s.listed [.tcm cell, .opm cell, .acm cell, .csp (clusterOf cell)]
  let mine (p : Place) : Bool := p.r != .csp (clusterOf cell) || inShare cell p
  { bytes := l.bytes.filter fun e => mine e.1, full := l.full.filter mine, poison := l.poison.filter mine }
/-- A cell's LTAB entry: cluster, virtual cell and word. -/
def State.ltabOf (s : State) (cell : Nat) : Option (Nat × Nat × BitVec 16) :=
  let k := clusterOf cell
  ((List.range 16).find? fun v => let e := s.ltab.get 0 (k * 16 + v); e.getLsbD 15 && fld e 0 4 == cell % 16).map fun v =>
    (k, v, s.ltab.get 0 (k * 16 + v))
/-- VPOS: bits [23:9] of a cell's virtual identity, as the tables bind it. -/
def State.vposOf (s : State) (cell : Nat) : Nat :=
  match s.ltabOf cell with
  | some (k, v, _) =>
      let vc := (List.range 16).find? fun j => let e := (s.fieldAt (fieldOf cell)).ctab.get 0 j; e.getLsbD 15 && fld e 0 4 == k % 12
      let vf := (List.range 128).find? fun j => let e := s.ftab.get 0 j; e.getLsbD 15 && fld e 0 7 == fieldOf cell
      vf.getD 0 * 256 + vc.getD 0 * 16 + v
  | none => 0
/-- The bytes of a snapshot in its area (R425): the header of Table 18-5, then the body. -/
def State.snapBytes (s : State) (p : Snap) (body : List Byte) : List Byte :=
  let le (n v : Nat) : List Byte := (bytesOf n v).map fun e => e.1
  let ctxst := packFields ((List.range 4).flatMap fun x => [(ofBool (p.ctxs.getD x {}).stopped, x), (ofBool (p.state.halted != 0), 4 + x)])
  let tail := le 4 (s.recLid p.launch) ++ le 8 p.gvtime ++ le 8 (s.tcmsz p.cell) ++ le 8 (s.cspsz (clusterOf p.cell)) ++ le 8 (s.vltsz p.cell) ++
    le 3 (s.vposOf p.cell) ++ le 1 ctxst ++ le 4 0 ++ le 8 p.state.lcur.toNat ++ List.replicate 192 0 ++ body
  le 2 1 ++ le 2 p.stepping.toNat ++ le 4 (12 + tail.length) ++ le 4 (crc32c tail).toNat ++ tail
/-- A snapshot can be read back from its area: its vault can be reached, no byte of it is poisoned, its header is one that the firmware
supports, of the present stepping, and its CHECK matches (R428). -/
def State.snapIntact (s : State) (p : Snap) : Bool :=
  let d := s.bytesAt (s.areaOf p.cell) p.len
  let b := d.map fun e => e.1
  !s.vaultGone p.cell && !anyPoi d && numAtB b 0 2 == 1 && numAtB b 2 2 == Config.stepping.toNat && numAtB b 4 4 == p.len &&
  numAtB b 8 4 == (crc32c (b.drop 12)).toNat
/-- The snapshot of a cell of a launch, taken now. -/
def State.snapshot (s : State) (i cell : Nat) : Snap :=
  let l := s.cellListed cell
  let k := s.cellAt cell
  { launch := i, cell := cell, state := k, ctxs := (List.range 4).map (s.ctxAt cell),
    cluster := if cell % 16 = 0 then some (s.clusterAt (clusterOf cell)) else none, bytes := l.bytes, full := l.full, poison := l.poison,
    gvtime := (s.fieldAt (fieldOf cell)).gatedAt, tick := (s.fieldAt (fieldOf cell)).tick, stepping := Config.stepping, tcmsz := s.tcmBytes cell,
    cspsz := s.cspBytes (clusterOf cell), vltsz := k.vltBytes }
/-- A snapshot is scanned out into the cell's snapshot area, in the place of an earlier one (R423). -/
def M.addSnap (m : M) (i cell : Nat) (loads : List Acc) : M :=
  let body := (Config.snapBody m.s.freeCtr).take (2 ^ 20 - 256)
  let p := { m.s.snapshot i cell with len := 256 + body.length, loads := loads }
  let bytes := (m.s.snapBytes p body).map fun b => (b, false)
  (m.write (m.s.writeOps (m.s.areaOf cell) bytes)).on fun s =>
    { s with freeCtr := s.freeCtr + 1, snaps := (s.snaps.filter fun q => !(q.launch == i && q.cell == cell)) ++ [p] }

/-! ### Adoption (R214 to R217) -/

/-- The TCM image of a group's nodes: offset 0 to the end of the last tcm DATA record that goes to it. -/
def Graph.tcmEnd (g : Graph) (lin : Nat) : Nat :=
  (g.datas.filter fun d => d.region == 0 && (match d.group with
    | some n => n == lin
    | none => true)).foldl (fun n d => max n (d.offset + d.data.length)) 0

/-- An adoption, as Sumac proposes it. -/
structure Adopt where
  launch : Nat
  dead : Nat
  cell : Nat
  x : Nat
  node : Nat
  am : Nat
  base : Nat
  deriving DecidableEq, Repr, Inhabited

/-- The handlers of a node, with their places in AHTAB. -/
def Graph.adoptEntries (g : Graph) (a : Adopt) (lnode vf : Nat) : List (Nat × Word) :=
  (g.handlers.filter fun h => h.lnode == lnode).map fun h =>
    (32 * h.vc + a.node, BitVec.ofNat 64 (packFields [(1, 63), (a.x, 61), (ofBool h.fs, 60), (if h.fs then vf else 0, 53),
      ((h.entry + if h.fs then 0 else a.base * 4096) / 64 % 2 ^ 22, 0)]))
/-- Whether the dead cell's snapshot serves (R216). -/
def State.snapOf (s : State) (a : Adopt) : Option Snap :=
  s.snaps.find? fun p => p.launch == a.launch && p.cell == a.dead && s.snapIntact p
/-- R107, R212, R214 to R217. -/
def State.adoptOk (s : State) (a : Adopt) (g : Graph) (n : NodeBind) (r : NodeRec) (l : BitVec 16) : Bool :=
  clusterOf a.cell == clusterOf a.dead && a.cell != a.dead && !(s.cellAt a.cell).dead && !(s.cellAt a.cell).failed &&
  !(s.launches.any fun e => e.2.ctxs.contains (a.cell, a.x)) && !r.vprog && !(s.vaultGone a.dead && s.residentIn a.launch a.dead) &&
  ((s.snapOf a).isSome || r.restart) && decide (r.rep * r.ii * r.adopt ≤ g.step) &&
  (g.adoptEntries a n.lnode 0).all (fun e => !((s.cellAt a.cell).ahtab.get 0 e.1).getLsbD 63) &&
  decide (a.am < 2 ∧ a.base < 64 ∧ a.base * 4096 + g.tcmEnd n.group ≤ s.tcmBytes a.cell) &&
  (!l.getLsbD 14 || fld l 13 1 == a.am) && !(s.atab.get 0 ((clusterOf a.dead * 2 + a.am) * 32 + a.node)).getLsbD 23

/-- The node's image at ABASE: from the snapshot, or from the graph image. -/
def M.adoptImage (m : M) (a : Adopt) (g : Graph) (n : NodeBind) : M :=
  let top := g.tcmEnd n.group
  let here (p : Place) : Bool := p.r == .tcm a.dead && decide (p.off < top)
  let dst (p : Place) : Place := { r := .tcm a.cell, off := p.off + a.base * 4096 }
  let old := m.s.listed [.tcm a.cell]
  let inside (p : Place) : Bool := decide (a.base * 4096 ≤ p.off ∧ p.off < a.base * 4096 + top)
  let m := m.clearListed { bytes := old.bytes.filter fun e => inside e.1, full := old.full.filter inside, poison := old.poison.filter inside }
  match m.s.snapOf a with
  | some p => m.putListed { bytes := (p.bytes.filter fun e => here e.1).map fun e => (dst e.1, e.2), full := (p.full.filter here).map dst,
                            poison := (p.poison.filter here).map dst }
  | none => (g.datas.filter fun d => d.region == 0 && (match d.group with
      | some k => k == n.group
      | none => true)).foldl (fun m d => m.loadBytes { r := .tcm a.cell, off := d.offset + a.base * 4096 } d.data) m

/-- The code region of the adopting cell takes in the adopted code. -/
def Cell.widenCode (k : Cell) (lo hi : Nat) : Cell :=
  if hi ≤ lo then k
  else if k.codeLim ≤ k.codeBase then { k with codeBase := BitVec.ofNat 8 lo, codeLim := BitVec.ofNat 8 hi }
  else { k with codeBase := BitVec.ofNat 8 (min k.codeBase.toNat lo), codeLim := BitVec.ofNat 8 (max k.codeLim.toNat hi) }

/-- The tables, the adoption handlers and the launch's entry of an accepted adoption. -/
def State.adopt (s : State) (a : Adopt) (g : Graph) (n : NodeBind) (k v : Nat) (l : BitVec 16) : State :=
  let info := (s.cellAt a.dead).nodes.get {} a.node
  let code := g.codeSpan
  let s := s.writeEntries [(.ltab k v, BitVec.ofNat 64 (2 ^ 15 + 2 ^ 14 + a.am * 2 ^ 13 + fld l 0 4)),
    (.atab k a.am a.node, BitVec.ofNat 64 (packFields [(1, 23), (a.x, 21), (a.cell % 192, 13), (a.base, 7)]))]
  let s := s.onCell a.cell fun q =>
    { q.widenCode (code.1 / 4096 + a.base) (code.2 / 4096 + a.base) with
      ahtab := (g.adoptEntries a n.lnode (n.tag / 2 ^ 17)).foldl (fun t e => Tab.set t e.1 e.2) q.ahtab, anodes := q.anodes.set a.node info }
  let s := s.onCtx a.cell a.x fun c =>
    { c with mytag := info.tag, gidx0 := info.gidx0, gidx1 := info.gidx1, rvc := info.rvc, sup := false,
             agelim := BitVec.ofNat 32 (s.recNum a.launch 36 4) }
  let e := s.launchAt a.launch
  let e' : Launch := { e with nodes := e.nodes.map (fun q => if q = n then { n with cell := a.cell, ctx := a.x } else q),
                              ctxs := e.ctxs ++ [(a.cell, a.x)], cells := (e.cells ++ [a.cell]).eraseDups }
  { s with launches := s.launches.set a.launch e' }

/-- NODE_ADOPTION: a node of a dead cell moves to a context of its cluster that no launch holds; refused, it raises an adoption
rate fault and its launch is killed (R217). -/
def execNodeAdoption (i deadCell acell actx node am abase : Nat) (s : State) : Host.Outcome State Fault Refusal :=
  run s fun m =>
    let a : Adopt := { launch := i, dead := deadCell, cell := acell, x := actx, node := node, am := am, base := abase }
    let refuse (m : M) : M := (m.on fun s => { s with supLog := s.supLog ++ [(i, 0x19)] }).supKill i 0x000F
    match (m.s.launchAt i).nodes.find? fun n => n.cell == deadCell && n.tag / 16 % 32 == node with
    | none => m
    | some n =>
        if 64 ≤ i ∨ m.s.recState i ≠ 4 ∨ (m.s.cellAt deadCell).dead = false ∨ (m.s.launchAt i).snap = false then m
        else
          match m.s.recGraph i, m.s.ltabOf deadCell with
          | some g, some (k, v, l) =>
              (match g.nodes.find? fun r => r.lnode == n.lnode with
               | some r => if m.s.adoptOk a g n r l then ((m.adoptImage a g n).on fun s => s.adopt a g n k v l).addSnap i acell [] else refuse m
               | none => refuse m)
          | _, _ => refuse m

/-! ### Vault interfaces, tree, mesh -/

/-- VAULT_INTERFACE_FAILURE: the supervisor kills the launches whose resident data the vault holds (R107). -/
def execVaultInterfaceFailure (cell : Nat) (s : State) : Host.Outcome State Fault Refusal :=
  run s fun m => (m.on fun s => s.onCell cell fun k => { k with vifDead := true }).killResident [cell]

/-- TREE_REPAIR: the leaves' path latencies are measured again and the largest goes to MAXPATH (R397). -/
def execTreeRepair (lat : List (Nat × Nat)) (s : State) : Host.Outcome State Fault Refusal :=
  run s fun m => m.on fun s =>
    let s : State := { s with leafLat := lat.foldl (fun (t : Tab Nat) e => Tab.set t e.1 e.2) s.leafLat }
    { s with anpadMax := BitVec.ofNat 16 (min s.maxPath 65535) }

/-- MESH_ROUTE_REPAIR: at a quiesced point routes lead around a failed router, which goes on forwarding nothing (R418). -/
def execMeshRouteRepair (cell : Nat) (s : State) : Host.Outcome State Fault Refusal :=
  run s fun m => m.on fun s => if s.quiesced cell then s.onCell cell fun k => { k with avoided := true } else s

end Sys2Proof.Machine
end

