-- ==== Sys2Proof/Machine/System.lean ====
section
/-! DEFINITION. Machine/System.lean: collective ports as a block sees them (R375 to R378), vault-sequencer commands
(R379 to R381), control registers (R382 to R384), privilege and debug (R385, R386), rebinding, the block cache and
WFM (R387 to R389). -/
namespace Sys2Proof.Machine
open Sys2Proof

/-! ### Collective ports (R375 to R378) -/

/-- Whether a port is configured and belongs to the context (R375). -/
def Env.ownsPort (e : Env) (cp : BitVec 3) : Bool :=
  let v := (e.s.cellAt e.cell).cpcfg.get 0 cp.toNat
  v.getLsbD 63 && fld v 61 2 == e.x

/-- The checks of a CPOST buffer: poison, space and limits, then alignment (R376). -/
def Env.bufferFault (e : Env) (t : Tok) (n : Nat) : Option (Cause × Word) :=
  if t.poi then some (cPoison, t.v)
  else
    match e.s.route e.cell e.x t.v n with
    | .bad c => some (c, t.v)
    | .mmio _ => some (cSpace, t.v)
    | _ => if fld t.v 61 3 > 2 then some (cSpace, t.v) else if t.v.toNat % 64 = 0 then none else some (cAlign, t.v)

def execCpost (h : Hdr) (seq : BitVec 5) (tsc : Scope) (cp : BitVec 3) (s : State) : Host.Outcome State Fault Refusal :=
  let i := Instr.cpost h seq tsc cp
  fireS i (fun e m =>
    if !e.ownsPort cp then m.freeFault cSpace
    else
      let n := fld ((e.s.cellAt e.cell).cpcfg.get 0 cp.toNat) 0 32
      match (e.bufferFault (e.tok .a) n).orElse fun _ => e.bufferFault (e.tok .b) n with
      | some (c, v) => (m, effFault c v)
      | none => e.queue m (e.cmd i)) s

/-- A CWAIT or CPOLL waits for its block's commit (R377). -/
def Env.portAcquire (e : Env) (i : Instr) (cp : BitVec 3) (m : M) : M × Eff :=
  if e.ownsPort cp then e.acquire m (e.cmd i) else m.freeFault cSpace
def execCwait (h : Hdr) (seq : BitVec 5) (cp : BitVec 3) (s : State) : Host.Outcome State Fault Refusal :=
  fireS (.cwait h seq cp) (fun e m => e.portAcquire (.cwait h seq cp) cp m) s
def execCwaitChk (h : Hdr) (seq : BitVec 5) (cp : BitVec 3) (s : State) : Host.Outcome State Fault Refusal :=
  fireS (.cwaitChk h seq cp) (fun e m => e.portAcquire (.cwaitChk h seq cp) cp m) s
def execCpoll (h : Hdr) (seq : BitVec 5) (cp : BitVec 3) (s : State) : Host.Outcome State Fault Refusal :=
  fireS (.cpoll h seq cp) (fun e m => e.portAcquire (.cpoll h seq cp) cp m) s
def execCabrt (h : Hdr) (seq : BitVec 5) (tsc : Scope) (cp : BitVec 3) (s : State) : Host.Outcome State Fault Refusal :=
  let i := Instr.cabrt h seq tsc cp
  fireS i (fun e m => if e.ownsPort cp then e.queue m (e.cmd i) else m.freeFault cSpace) s

/-! ### Vault-sequencer commands (R379 to R381) -/

/-- A command for the cell's sequencer, sent at commit; a poisoned port faults. -/
def Env.vaultCmd (e : Env) (i : Instr) : Eff :=
  let us := usedPorts e.f e.n
  match us.find? fun q => (e.tok q).poi with
  | some q => effFault cPoison (e.tok q).v
  | none => { acts := [.dvault { e.cmd i with slots := e.f.slotTargets }] }

def execDrun (h : Hdr) (s : State) : Host.Outcome State Fault Refusal := fire (.drun h) (fun e => e.vaultCmd (.drun h)) s
def execDrunRel (h : Hdr) (s : State) : Host.Outcome State Fault Refusal :=
  fire (.drunRel h) (fun e => e.vaultCmd (.drunRel h)) s
def execDrunRes (h : Hdr) (s : State) : Host.Outcome State Fault Refusal :=
  fire (.drunRes h) (fun e => e.vaultCmd (.drunRes h)) s
def execDrunResp (h : Hdr) (s : State) : Host.Outcome State Fault Refusal :=
  fire (.drunResp h) (fun e => e.vaultCmd (.drunResp h)) s
def execDstop (h : Hdr) (s : State) : Host.Outcome State Fault Refusal := fire (.dstop h) (fun e => e.vaultCmd (.dstop h)) s
def execDstopEnd (h : Hdr) (s : State) : Host.Outcome State Fault Refusal :=
  fire (.dstopEnd h) (fun e => e.vaultCmd (.dstopEnd h)) s
def execDpos (h : Hdr) (s : State) : Host.Outcome State Fault Refusal := fire (.dpos h) (fun e => e.vaultCmd (.dpos h)) s
def execDposElap (h : Hdr) (s : State) : Host.Outcome State Fault Refusal :=
  fire (.dposElap h) (fun e => e.vaultCmd (.dposElap h)) s
def execDposT0 (h : Hdr) (s : State) : Host.Outcome State Fault Refusal :=
  fire (.dposT0 h) (fun e => e.vaultCmd (.dposT0 h)) s

/-! ### Control registers (R383, R384) -/

/-- A context register is read once every older block of the context has committed. -/
def Env.csrOk (n : BitVec 12) (e : Env) : Bool :=
  if n = 0x100 then e.vtimeClear else decide (0x100 ≤ n.toNat) || e.pos == 0
/-- The old content as a result, with the side effect of the read. -/
def Env.csrRead (e : Env) (n : BitVec 12) (m : M) (acts : List Act) : M × Eff :=
  let v := m.s.csrRead e.cell e.x n.toNat
  (m.on fun s => s.csrSide e.cell n.toNat, { (e.res v false) with acts := acts })
/-- CSRS, CSRC, CSRX: the new value comes from the old one that the instruction returns (R384). -/
def Env.csrMod (e : Env) (n : BitVec 12) (op : CsrOp) (m : M) : M × Eff :=
  if e.pa then (m, effFault cPoison (e.tok .a).v)
  else e.csrRead n m [.csr n op (csrNew op (BitVec.ofNat 64 (m.s.csrRead e.cell e.x n.toNat)) (e.tok .a).v)]

def execCsrr (h : Hdr) (csr : BitVec 12) (s : State) : Host.Outcome State Fault Refusal :=
  fireH (.csrr h csr) (Env.csrOk csr) (fun e m => e.csrRead csr m []) s
def execCsrw (h : Hdr) (csr : BitVec 12) (s : State) : Host.Outcome State Fault Refusal :=
  fire (.csrw h csr) (fun e =>
    if e.pa then effFault cPoison (e.tok .a).v else { acts := [.csr csr .w (e.tok .a).v] }) s
def execCsrs (h : Hdr) (csr : BitVec 12) (s : State) : Host.Outcome State Fault Refusal :=
  fireH (.csrs h csr) (Env.csrOk csr) (fun e m => e.csrMod csr .s m) s
def execCsrc (h : Hdr) (csr : BitVec 12) (s : State) : Host.Outcome State Fault Refusal :=
  fireH (.csrc h csr) (Env.csrOk csr) (fun e m => e.csrMod csr .c m) s
def execCsrx (h : Hdr) (csr : BitVec 12) (s : State) : Host.Outcome State Fault Refusal :=
  fireH (.csrx h csr) (Env.csrOk csr) (fun e m => e.csrMod csr .x m) s

/-! ### Privilege and debug (R385, R386) -/

/-- SCALL exits to SVBASE + 128 · SVC in supervisor mode; a poisoned predicate poisons that exit (R225, R226). -/
def execScall (h : Hdr) (svc : BitVec 8) (s : State) : Host.Outcome State Fault Refusal :=
  fire (.scall h svc) (fun e =>
    let dst := (e.s.cellAt e.cell).svbase + BitVec.ofNat 64 (128 * svc.toNat)
    { exit := some (if e.pp then .addr { v := dst, poi := true } else .scall dst (e.tok .a).v) }) s
def execSret (h : Hdr) (s : State) : Host.Outcome State Fault Refusal :=
  fire (.sret h) (fun e => { exit := some (.sret { v := (e.tok .a).v, poi := e.pa || e.pp }) }) s

/-- BRK: no effect unless HGRP.BEN; else a fault, and the groups of OUT are signalled. -/
def execBrk (h : Hdr) (code : BitVec 16) (s : State) : Host.Outcome State Fault Refusal :=
  fireS (.brk h code) (fun e m =>
    let g := (e.s.cellAt e.cell).hgrp
    if g.getLsbD 32 then (m.on fun s => s.signal (g.extractLsb' 16 16), effFault cBreak (code.setWidth 64))
    else (m, effNone)) s
def execXtrig (h : Hdr) (s : State) : Host.Outcome State Fault Refusal :=
  fire (.xtrig h) (fun e => if e.pa then effFault cPoison (e.tok .a).v else { acts := [.trig (e.tok .a).v] }) s

/-! ### Rebinding, block cache, WFM (R387 to R389) -/

def execTbind (h : Hdr) (s : State) : Host.Outcome State Fault Refusal :=
  fire (.tbind h) (fun e =>
    match bindTarget (e.tok .a).v with
    | some r => { acts := [.bind { e.cmd (.tbind h) with slots := e.f.slotTargets } (some r)] }
    | none => effFault cSpace (e.tok .a).v) s
def execTbindGen (h : Hdr) (s : State) : Host.Outcome State Fault Refusal :=
  fire (.tbindGen h) (fun e => { acts := [.bind { e.cmd (.tbindGen h) with slots := e.f.slotTargets } none] }) s
def execBcinv (h : Hdr) (s : State) : Host.Outcome State Fault Refusal := fire (.bcinv h) (fun _ => { acts := [.bcinv none] }) s
/-- BCINV.LINE invalidates the line that holds the address a. -/
def execBcinvLine (h : Hdr) (s : State) : Host.Outcome State Fault Refusal :=
  fire (.bcinvLine h) (fun e => { acts := [.bcinv (some (putFld (e.tok .a).v 0 6 0))] }) s
/-- WFM exits to a, entered with the next message. -/
def execWfm (h : Hdr) (s : State) : Host.Outcome State Fault Refusal :=
  fire (.wfm h) (fun e => { exit := some (.wfm { v := (e.tok .a).v, poi := e.pa || e.pp }) }) s

end Sys2Proof.Machine
end

