-- ==== Sys2Proof/Machine/Issue.lean ====
section
/-! DEFINITION. Machine/Issue.lean: which instruction of a field issues next (R197, R452): the tests that hold a ready
instruction, the context that a cell selects, the order of the cells; and the move that is due when the agenda names none. -/
namespace Sys2Proof.Machine
open Sys2Proof

/-- The instruction at an index of the block at a position of a context: its word, decoded (R196, R223). -/
def State.instrAt (s : State) (cell x pos idx : Nat) : Option Instr :=
  ((s.ctxAt cell x).block pos).bind fun b => (b.insts[idx]?).bind fun n => (decodeRaw n.word).toOption

/-- Nothing holds a ready instruction: the slew window and the bucket (R448), what must be performed before a local load or a fence
(R165, R171), what must commit before a register is read (R22, R383). -/
def Env.free (e : Env) (i : Instr) : Bool :=
  match i with
  | .ld _ _ _ at_ _ l => e.loadOk (loadForm i).n (e.access (e.tok .a) l.disp.toInt (loadForm i).n at_)
  | .ldf _ _ _ l => e.loadOk (loadForm i).n (e.access (e.tok .a) l.disp.toInt (loadForm i).n false)
  | .syncw _ l => e.loadOk 16 (e.syncAccess l)
  | .fence _ _ sc => e.fenceOk sc
  | .csrr _ n => e.csrOk n
  | .csrs _ n => e.csrOk n
  | .csrc _ n => e.csrOk n
  | .csrx _ n => e.csrOk n
  | .mma .. => e.engOk true (mmaCharge i (e.tok .a).v)
  | .mmasp .. => e.engOk true (mmaCharge i (e.tok .a).v)
  | .mmsc .. => e.engOk true (mmaCharge i (e.tok .a).v)
  | _ => match e.f.eng with
    | some .mxe => e.engOk true (mxCharge i)
    | some .vxe => e.engOk false (vxCharge i)
    | _ => true

/-- The number of an instruction in flight that is ready and that nothing holds; none of another. -/
def State.readyNum (s : State) (cell x pos idx : Nat) : Option Nat :=
  (s.instrAt cell x pos idx).bind fun i => (({ s with cur := { cell := cell, x := x, pos := pos, idx := idx } } : State).envOf i).bind fun e =>
    if readiness e.f (e.n.by e.now) = .go ∧ e.free i then some e.num else none

/-- A context's next instruction of the present issue slot: oldest block first, ascending index, none that has been passed over. -/
def State.candidate (s : State) (cell x : Nat) : Option (Nat × Nat) :=
  let k := s.cellAt cell
  if s.canIssue cell x then
    (List.range (s.ctxAt cell x).flight.length).findSome? fun pos =>
      (List.range (((s.ctxAt cell x).block pos).elim 0 fun b => b.insts.length)).findSome? fun idx =>
        match s.readyNum cell x pos idx with
        | some n => if k.issCtx = some x ∧ n < k.issAt then none else some (pos, idx)
        | none => none
  else none
/-- A cell's next instruction: of the context that it has selected in this slot, else round-robin after the last one. -/
def State.pick (s : State) (cell : Nat) : Option (Nat × Nat × Nat) :=
  (List.range 4).findSome? fun i =>
    let x := ((s.cellAt cell).lastIss + 1 + i) % 4
    (s.candidate cell x).map fun p => (x, p)

/-- A cell's place in the order of its field in this core cycle (R452). -/
def State.place192 (s : State) (cell : Nat) : Nat := (cell % 192 + 192 - (s.fieldAt (fieldOf cell)).cycle % 192) % 192
/-- It is a cell's turn: no cell before it can issue any more, and none after it has issued. -/
def State.turn (s : State) (cell : Nat) : Bool :=
  s.cells.all fun e => fieldOf e.1 != fieldOf cell || e.1 == cell ||
    (if s.place192 e.1 < s.place192 cell then (s.pick e.1).isNone else e.2.issN == 0)
/-- An instruction may take its turn: it is the next to issue; one that does not issue (its operands are not there, it nulls or passes
an exception on) takes no slot. -/
def State.mayFire (s : State) (cell x pos idx : Nat) : Bool :=
  (s.readyNum cell x pos idx).isNone || (s.pick cell == some (x, pos, idx) && s.turn cell)
/-- The next instruction that a field must still issue in its core cycle. -/
def State.issues (s : State) (field : Nat) : Option (Nat × Nat × Nat × Nat) :=
  (s.cellsWhere fun c => fieldOf c == field).findSome? fun c =>
    match s.pick c with
    | some p => if s.turn c then some (c, p) else none
    | none => none

/-! ### Clocks (R18 to R21)

DESIGN CHOICE (log 82): the wafer's vault clock and the core clocks of the fields that State lists keep the order of their edges, an
edge of a core clock first where they coincide; a field of which nothing is listed has none. -/

/-- The next core clock edge of a field is due: it comes no later than the next vault clock edge. -/
def Field.due (k : Field) : Bool := decide (1000 ≤ k.phase + k.freq.toNat)
/-- Droop may stretch the present core cycle: none of the 15 before it was stretched (R20). -/
def Field.mayStretch (k : Field) : Bool :=
  match k.stretched with
  | none => true
  | some t => t == k.tick || decide (t + 16 ≤ k.tick)
/-- The vault clock may come before the field's next edge: that is not due, or the cycle is stretched, to two periods at most. -/
def Field.waits (k : Field) : Bool := !k.due || (k.mayStretch && decide (k.phase + k.freq.toNat < 2000))
/-- The time of a vault clock passes. -/
def Field.pass (k : Field) : Field :=
  { k with phase := k.phase + k.freq.toNat, stretched := if k.due then some k.tick else k.stretched }
/-- A core cycle ends: what has passed of the vault clock is the next one's. -/
def Field.edge (k : Field) : Field := { k with tick := k.tick + 1, phase := min (k.phase - 1000) 0 }

/-- A field's core cycle may end: its edge is due, and every instruction that its cells issue in it has issued. -/
def State.cycleDue (s : State) (field : Nat) : Bool :=
  (!(s.fields.any fun e => e.1 == field) || (s.fieldAt field).due) && (s.issues field).isNone
/-- The vault clock may come. -/
def State.clockDue (s : State) : Bool := s.fields.all fun e => e.2.waits

/-- What is due when the agenda names nothing: an issue, the end of a field's core cycle, or the vault clock. -/
inductive Idle
  | issue (cell x pos idx : Nat)
  | cycle (field : Nat)
  | clock
  deriving DecidableEq, Repr, Inhabited
/-- The move that is due when the agenda names none (log 3). -/
def State.idleMove (s : State) : Idle :=
  match (s.fields.filter fun e => e.2.due).findSome? fun e => s.issues e.1 with
  | some (c, x, pos, idx) => .issue c x pos idx
  | none => match s.fields.find? fun e => e.2.due with
    | some e => .cycle e.1
    | none => .clock

end Sys2Proof.Machine
end

