-- ==== Sys2Proof/Machine/Power.lean ====
section
/-! DEFINITION. Machine/Power.lean: Saffron (R443 to R447, R450, R453, R454, R459, R460), the sensors (R455 to R457), trips and the safe point
(R458). -/
namespace Sys2Proof.Machine
open Sys2Proof

/-! ### Operating points (R444 to R446) -/

/-- OPERATING_POINT_CHANGE: to a frequency that the field's region may have and the supply that it needs (R445, R446). -/
def execOperatingPointChange (field volt freq : Nat) (s : State) : Host.Outcome State Fault Refusal :=
  run s fun m => m.on fun s =>
    if s.mayChange field freq && volt == (s.voltOf (s.governedIn field) freq).toNat then s.changeField field freq else s
/-- VOLTAGE_SETTLED: the core clock may switch, or a lowering has ended. -/
def execVoltageSettled (field : Nat) (s : State) : Host.Outcome State Fault Refusal :=
  run s fun m => m.on fun s => s.settleField field

/-! ### Sensors (R455 to R457): diodes 0 to 3 logic, 4 and 5 DRAM, in 1/16 °C -/

def kindOf (i : Nat) : List Nat := if i < 4 then [0, 1, 2, 3] else [4, 5]
def Field.sensor (k : Field) (i : Nat) : Sensor := k.sensors.get {} i
/-- Readings of valid sensors that have been sampled, among some. -/
def Field.valid (k : Field) (is : List Nat) : List Int :=
  (is.filter fun i => !(k.sensor i).suspect && !(k.sensor i).hist.isEmpty).map fun i => (k.sensor i).last

def insertInt (x : Int) : List Int → List Int
  | [] => [x]
  | y :: t => if x ≤ y then x :: y :: t else y :: insertInt x t
/-- Twice the median: for an even number, the sum of the two middle values. -/
def median2 (l : List Int) : Option Int :=
  let s := l.foldl (fun a x => insertInt x a) []
  let n := s.length
  if n = 0 then none else some (s.getD ((n - 1) / 2) 0 + s.getD (n / 2) 0)

/-- An adjacent field's estimate of a kind, if it has one. -/
def Field.estimateOf (k : Field) (logic : Bool) : Option Int :=
  if (k.valid (if logic then [0, 1, 2, 3] else [4, 5])).isEmpty then none else some (if logic then k.tlog.toInt else k.estD)

/-- R456: stuck, out of range, or disagreeing. -/
def State.suspects (s : State) (f i : Nat) : Bool :=
  let k := s.fieldAt f
  let d := k.sensor i
  let spread (l : List Int) : Int := l.foldl max (l.headD 0) - l.foldl min (l.headD 0)
  let peers := k.valid ((kindOf i).filter fun j => j != i) ++ (edgeAdjacent f).filterMap fun g => (s.fieldAt g).estimateOf (decide (i < 4))
  (decide (d.hist.length = 2 ^ 20) && spread (d.hist.map fun e => e.2) == 0 && decide (20000 < spread (d.hist.map fun e => (e.1 : Int)))) ||
  decide (d.last < -20 * 16 ∨ 150 * 16 < d.last) ||
  (match median2 peers with
   | some m => decide (12 * 16 < (2 * d.last - m).natAbs)
   | none => false)

/-- A diode's value in the estimate: its own, or, while it is suspect, the median of the valid ones of its kind. -/
def Field.value (k : Field) (i : Nat) : Option Int :=
  let d := k.sensor i
  if d.suspect then (median2 (k.valid ((kindOf i).filter fun j => j != i))).map fun m => m / 2
  else if d.hist.isEmpty then none else some d.last
def Field.largest (k : Field) (is : List Nat) (old : Int) : Int :=
  match is.filterMap k.value with
  | [] => old
  | x :: t => t.foldl max x
def Field.suspects (k : Field) (is : List Nat) : Nat := (is.filter fun i => (k.sensor i).suspect).length

/-- The rise of the sensed class with the DRAM estimate (Table 5-2). -/
def classRise (scls : BitVec 2) (t : Int) : BitVec 2 :=
  if 93 * 16 ≤ t then 2 else if 83 * 16 ≤ t ∧ scls = 0 then 1 else scls
/-- The safe point (R458). -/
def Field.toSafe (k : Field) (f : Nat) : Field :=
  { k with freq := 600, freqGoal := 600, volt := some (Config.fusedVsafe f), voltGoal := none, settled := true, boost := false }

/-- The estimates of a field at a vault clock, with SFLT, DFLT and the sensed class (R95, R457). -/
def Field.estimate (k : Field) (f t : Nat) : Field :=
  let l := k.largest [0, 1, 2, 3] k.tlog.toInt
  let d := k.largest [4, 5] k.estD
  let sflt : BitVec 8 := if 4 < k.suspects [0, 1, 2, 3] + 2 then 1 else 0
  let dflt : BitVec 8 := if 0 < k.suspects [4, 5] then 1 else 0
  let scls := if dflt = 0 then classRise k.scls d else 2
  let warm : Bool := match fallsBelow scls with
    | some th => decide (th ≤ d ∨ th ≤ k.estD)
    | none => false
  let mask := (List.range 6).foldl (fun n i => if (k.sensor i).suspect then n + 2 ^ i else n) 0
  let k := { k with tlog := BitVec.ofInt 16 l, estD := d, tdram := BitVec.ofInt 16 d, sflt := sflt, dflt := dflt, susp := BitVec.ofNat 8 mask,
                    scls := scls, sclsSince := if scls != k.scls || warm || dflt != 0 then t else k.sclsSince,
                    below := if l < 100 * 16 then (match k.below with
                      | some b => some b
                      | none => some t) else none,
                    overAt := if 118 * 16 ≤ l then (match k.overAt with
                      | some b => some b
                      | none => some t) else none }
  if sflt = 0 then k else k.toSafe f

/-- The calibrated temperature of a diode, in 1/16 °C (R455), which the model takes the coefficients to give (log 93). -/
def diodeTemp (f i raw : Nat) : Int := Config.diodeA f i * raw + Config.diodeB f i
/-- A reading of a diode is recorded: it stands for the present sampling period. -/
def State.record (s : State) (f i raw : Nat) : State :=
  let t := s.vtime.toNat
  let v := diodeTemp f i raw
  s.onField f fun k =>
    let d := k.sensor i
    { k with sensors := k.sensors.set i { d with last := v, seen := t / 1000 + 1, hist := (Config.powerReading f t, v) :: d.hist.take (2 ^ 20 - 1) } }
/-- A diode is judged; a suspect one stays suspect (R456). -/
def State.judge (s : State) (f i : Nat) : State :=
  let bad := s.suspects f i
  s.onField f fun k =>
    let d := k.sensor i
    ({ k with sensors := k.sensors.set i { d with suspect := d.suspect || bad } } : Field).estimate f s.vtime.toNat
/-- A diode has been sampled in the present sampling period of 1,000 vault clocks. -/
def State.sampled (s : State) (f i : Nat) : Bool := decide (s.vtime.toNat / 1000 < ((s.fieldAt f).sensor i).seen)
/-- One sample of a diode, judged at once. -/
def State.sample (s : State) (f i raw : Nat) : State := if s.sampled f i then s else (s.record f i raw).judge f i
/-- SENSOR_SAMPLE: a diode is sampled once in every sampling period. -/
def execSensorSample (field i raw : Nat) (s : State) : Host.Outcome State Fault Refusal :=
  run s fun m => m.on fun s => if 6 ≤ i then s else s.sample field i raw
/-- The diodes that the present sampling period has not sampled yet. -/
def State.sampleRest (s : State) : State :=
  (List.range Config.nFields).foldl (fun s f => (List.range 6).foldl (fun s i => s.sample f i (Config.diodeRaw f i s.vtime.toNat)) s) s
/-- SENSOR_SUSPECT_CLEAR. -/
def execSensorSuspectClear (field i : Nat) (s : State) : Host.Outcome State Fault Refusal :=
  run s fun m => m.on fun s => s.onField field fun k =>
    if 6 ≤ i then k
    else ({ k with sensors := k.sensors.set i { k.sensor i with suspect := false } } : Field).estimate field s.vtime.toNat

/-! ### Control periods (R443) -/

/-- Telemetry as a control period reads it: readings, and PCAP from the coolant outlet (R459, R460). -/
def State.readTelemetry (s : State) : State :=
  let t := s.vtime.toNat
  let s := (List.range Config.nFields).foldl (fun s f => s.onField f fun k =>
    { k with leak := Config.leakReading f t, energy := Config.energyReading f t }) s
  let r := Config.moduleReading t
  { s with modtel := putFld r 16 16 (moduleCap (sfld r 32 16)) }
/-- Every diode that has been sampled is judged (R456). -/
def State.judgeAll (s : State) : State :=
  (List.range Config.nFields).foldl (fun s f => (List.range 6).foldl (fun s i =>
    if ((s.fieldAt f).sensor i).hist.isEmpty then s else s.judge f i) s) s
/-- Each region takes the frequency its floors, its grants and the headroom ask for (R447, R454). -/
def State.chooseRegions (s : State) : State :=
  s.regions.foldl (fun s r => match (List.range Config.nFields).find? (inRect r) with
    | some f => s.alignRegion f
    | none => s) s
/-- A hot field whose refill has not been lowered loses half of it; one that had none, issue slots (R25, R458).  DESIGN CHOICE (log 93): the
spec gives the order and no amounts. -/
def State.cool (s : State) (f : Nat) (fill : BitVec 24) (duty : Word) : State :=
  let k := s.fieldAt f
  if !k.hot then s
  else if fill ≠ 0 then
    (if fill.toNat ≤ k.ebfill.toNat then s.onField f fun k => { k with ebfill := fill / 2, ecap := capOf (fill / 2).toNat k.freq.toNat } else s)
  else if countBits 64 k.duty.toNat < countBits 64 duty.toNat ∨ countBits 64 duty.toNat ≤ 8 then s
  else s.writeDuty f 0x0101010101010101
/-- What a control period writes in a field: the operating point of its region, its refill, slew steps and duty pattern, as far as the
rules allow. -/
def State.controlField (s : State) (w : Nat × Word × Word × Word) : State :=
  ((s.changeField w.1 (fld w.2.1 0 16)).writePwctl w.1 w.2.2.1).putDuty w.1 w.2.2.2
/-- A control period (R443): telemetry, sensors, operating points, then the registers of every field; EBFILL of unreserved power is
lowered to the cap, and hot fields are cooled. -/
def State.control (s : State) (ws : List (Nat × Word × Word × Word)) : State :=
  let now := s.vtime.toNat
  let s := s.readTelemetry.judgeAll
  let s := (s.setFloors (List.range Config.nFields)).chooseRegions
  let old (f : Nat) : BitVec 24 × Word := ((s.fieldAt f).ebfill, (s.fieldAt f).duty)
  let s := ws.foldl State.controlField s
  let s := (List.range Config.nFields).foldl (fun s f => (s.meetCap f).cool f (old f).1 (old f).2) s
  { s with period := now / 10000 + 1 }
/-- The control period of the present 10,000 vault clocks is done. -/
def State.controlled (s : State) : Bool := decide (s.vtime.toNat / 10000 < s.period)
/-- SAFFRON_CONTROL_PERIOD: once in every 10,000 vault clocks; what it writes in some fields, register by register. -/
def execSaffronControlPeriod (fields : List Nat) (fvf pwctl duty : List (BitVec 64)) (s : State) : Host.Outcome State Fault Refusal :=
  run s fun m => m.on fun s => if s.controlled then s else s.control (fields.zip (fvf.zip (pwctl.zip duty)))

/-! ### Trips (R458) -/

/-- A field at 118 °C enters the safe point and reports it. -/
def State.tripField (s : State) (f : Nat) : State :=
  if 118 * 16 ≤ (s.fieldAt f).tlog.toInt && !(s.fieldAt f).trip then
    { s.onField f (fun k => { k.toSafe f with trip := true }) with supLog := s.supLog ++ [(f, 0x0458)] }
  else s
/-- The estimate of a field has stayed below 100 °C for one control period: TRIP clears. -/
def Field.untrip (k : Field) (now : Nat) : Field :=
  match k.below with
  | some b => if b + 10000 ≤ now then { k with trip := false } else k
  | none => k
/-- THERMAL_TRIP. -/
def execThermalTrip (field : Nat) (s : State) : Host.Outcome State Fault Refusal := run s fun m => m.on fun s => s.tripField field
/-- TRIP_CLEAR. -/
def execTripClear (field : Nat) (s : State) : Host.Outcome State Fault Refusal :=
  run s fun m => m.on fun s => s.onField field fun k => k.untrip s.vtime.toNat

/-! ### What a vault clock brings to pass -/

/-- Trips within 2 µs (R458), and their ends. -/
def State.tripsDue (s : State) : State :=
  (s.fields.map fun e => e.1).foldl (fun s f =>
    let s := match (s.fieldAt f).overAt with
      | some b => if b + 1999 ≤ s.vtime.toNat then s.tripField f else s
      | none => s
    if (s.fieldAt f).trip then s.onField f fun k => k.untrip s.vtime.toNat else s) s
/-- The bounds of Saffron, the sensors and the trips: at the end of a sampling period or a control period, what it has not done yet. -/
def State.powerWork (s : State) : State :=
  let s := s.settleDue.tripsDue
  let s := if s.vtime.toNat % 1000 = 999 then s.sampleRest else s
  if s.vtime.toNat % 10000 = 9999 ∧ s.controlled = false then s.control [] else s

end Sys2Proof.Machine
end

