-- ==== Sys2Proof/Machine/Preempt.lean ====
section
/-! DEFINITION. Machine/Preempt.lean: pre-emption and restore (R423 to R431), configuration segments (R426, R427), debug halts (R432 to
R435), rebinding under traffic (R436 to R439). -/
namespace Sys2Proof.Machine
open Sys2Proof

/-! ### Pre-emption (R423) -/

/-- The fields of a rectangle of sites that a launch holds. -/
def State.rectFields (s : State) (x0 y0 x1 y1 : Nat) : List Nat :=
  (List.range Config.nFields).filter fun f =>
    let p := siteOf f
    decide (x0 ≤ p.1 ∧ p.1 ≤ x1 ∧ y0 ≤ p.2 ∧ p.2 ≤ y1) && s.fieldHeld f
/-- The virtual fields bound to some fields. -/
def State.vfieldsOf (s : State) (fs : List Nat) : List Nat :=
  (List.range 128).filter fun v => let e := s.ftab.get 0 v; e.getLsbD 15 && fs.contains (fld e 0 7)

/-- A TBIND of a cell of a field has committed and its result has not landed: the gate waits for it (R430). -/
def State.binds (s : State) (f : Nat) : Bool :=
  (s.cellsWhere fun c => fieldOf c == f).any fun c => (List.range 4).any fun x => (s.ctxAt c x).lands.any fun l => l.bind
/-- The gate of one field: its sequencers are suspended, its cache slices begin to flush (R82). -/
def State.gateField (s : State) (f : Nat) : State :=
  if (s.fieldAt f).gated || s.binds f then s
  else
    let s := (s.cellsWhere fun c => fieldOf c == f).foldl (fun s c => s.gateSeq c) s
    let s := s.launches.foldl (fun s l => (l.2.slices.filter fun e => e.1 == f).foldl (fun s e => s.startFlush e.1 e.2) s) s
    s.onField f fun k => { k with gated := true, gatedAt := s.vtime.toNat }

/-- The field of an access's home, if a field has it. -/
def homeField (h : Nat × Nat) : Option Nat :=
  match h.1 with
  | 2 => some (fieldOfCluster h.2)
  | 3 => some (h.2 / 80)
  | _ => (homeCell h).map fieldOf
def State.touches (s : State) (fs : List Nat) (a : Acc) : Bool :=
  fs.contains (fieldOf a.cell) || (match homeField (s.accHome a) with
    | some f => fs.contains f
    | none => false)
/-- A load of one of some cells. -/
def Acc.loadOf (a : Acc) (cells : List Nat) : Bool := a.isLoad && a.back.cell.elim false cells.contains
/-- Accesses that have reached their homes, or the way to another wafer, and are still to be performed. -/
def State.athome (s : State) : List Acc :=
  s.linkOut ++ s.waits ++ s.cells.flatMap (fun e => e.2.vault.queue) ++ s.fields.flatMap fun f => f.2.slices.flatMap fun e => e.2.waiting
/-- Drained: what left the fields and what is bound for them has been performed; only waiters at words and loads that wait at homes
elsewhere are left, and the loads are made again (R182). -/
def State.drained (s : State) (fs : List Nat) : Bool :=
  let cells := s.cellsWhere fun c => fs.contains (fieldOf c)
  !(s.net.any fun a => s.touches fs a && !s.accHeld a) && !(s.misq.any fun e => s.touches fs e.2) && !(s.resps.any fun r => r.toCells cells) &&
  cells.all (fun c => (s.cellAt c).vault.queue.isEmpty) && !s.buffersMove cells && !(s.gateIn.any fun c => cells.contains c.cell) &&
  (s.athome.all fun a => !cells.contains a.cell || a.isLoad || s.waits.contains a) &&
  fs.all fun f => (s.fieldAt f).slices.all fun e => e.2.waiting.isEmpty && !e.2.flushing

/-- Loads that have not returned are withdrawn from their homes. -/
def State.withdraw (s : State) (cells : List Nat) : State :=
  let keep (l : List Acc) : List Acc := l.filter fun a => !a.loadOf cells
  { s with linkOut := keep s.linkOut, waits := keep s.waits,
           cells := s.cells.map (fun e => (e.1, { e.2 with vault := { e.2.vault with queue := keep e.2.vault.queue } })),
           fields := s.fields.map fun f => (f.1, { f.2 with slices := f.2.slices.map fun e => (e.1, { e.2 with waiting := keep e.2.waiting }) }) }
/-- The field whose snapshot carve-out saves what a tree node holds of a launch (R400): its own, or for the nodes above the fields the
first field of the launch (log 88). -/
def TreeOp.field (t : TreeOp) (l : Launch) : Nat := match t.level with
  | 0 => fieldOfCluster t.node
  | 1 => t.node
  | _ => l.fields.headD 0
/-- The field's own part of a snapshot (R81), with the folds of the launch's channels in the field's nodes (R400). -/
def State.fieldSnap (s : State) (i f : Nat) : FieldSnap :=
  let k := s.fieldAt f
  let l := s.launchAt i
  { launch := i, field := f, slices := (List.range 80).map (fun n => (n, (k.slice n).mode, (k.slice n).live)), fcb := k.fcb, duty := k.duty,
    msgDrops := k.msgDrops, banklog := k.banklog, lasting := k.lasting, remapped := k.remapped,
    folds := s.treeUp.filter fun t => l.chans.contains t.chan && t.field l == f }
/-- Its bytes in the snapshot carve-out: FSSLC of each slice, the cache bindings, the duty pattern, and the field manager's state.
DESIGN CHOICE (log 88): R81 gives no layout, and the form of the manager's state is open. -/
def fieldBytes (p : FieldSnap) (manager : List Byte) : List Byte :=
  let le (n v : Nat) : List Byte := (bytesOf n v).map fun e => e.1
  (p.slices.flatMap fun e => le 8 (packFields [(e.2.1.toNat, 62), (e.2.2.toNat, 0)])) ++
  ((List.range 8).flatMap fun n => le 8 (p.fcb.get 0 n).toNat) ++ le 8 p.duty.toNat ++ manager
/-- The snapshot carve-out of a field: its first slice in that mode. -/
def State.snapCarve (s : State) (f : Nat) : Option Nat := (List.range 80).find? fun n => ((s.fieldAt f).slice n).mode == 3
/-- A field's own state is scanned out into its snapshot carve-out. -/
def M.scanField (m : M) (i f : Nat) : M :=
  let p := m.s.fieldSnap i f
  let bytes := ((fieldBytes p (Config.snapBody m.s.freeCtr)).take 131072).map fun b => (b, false)
  let m := match m.s.snapCarve f with
    | some n => m.write (m.s.writeOps { r := .carve f n, off := 0 } bytes)
    | none => m
  m.on fun s => { s with freeCtr := s.freeCtr + 1, treeUp := s.treeUp.filter (fun t => !p.folds.contains t),
                         fsnaps := (s.fsnaps.filter fun q => !(q.launch == i && q.field == f)) ++ [p] }
/-- Scan and record a launch's cells in some fields, of those that are not scanned yet (R430): every cell of its clusters there, and the
fields' own parts. -/
def M.scan (m : M) (fs : List Nat) (i : Nat) : M :=
  let l := m.s.launchAt i
  let cells := (l.clusters.filter fun k => fs.contains (fieldOfCluster k)).flatMap fun k => (List.range 16).map fun j => k * 16 + j
  let cells := cells.filter fun c => !(m.s.snaps.any fun p => p.launch == i && p.cell == c)
  let lost := m.s.athome
  let m := cells.foldl (fun m c => m.addSnap i c (lost.filter fun a => a.loadOf [c] && (match a.back with
    | .code .. => false
    | _ => true))) m
  let m := m.on fun s => s.withdraw cells
  let fl := l.fields.filter fun f => fs.contains f && !(m.s.fsnaps.any fun p => p.launch == i && p.field == f)
  (fl.foldl (fun m f => m.scanField i f) m).on fun s => { s with launches := s.launches.set i { s.launchAt i with snap := true } }

/-- PREEMPTION: the fields of a rectangle are held and gated at once, and, once drained and their slices flushed, what has been
written there since the gate included (R82), scanned and recorded.  Each occurrence takes the steps it can; one that overlaps a
pre-emption in progress is served after it (R430). -/
def execPreemption (sx0 sy0 sx1 sy1 : Nat) (s : State) : Host.Outcome State Fault Refusal :=
  run s fun m =>
    let rect := m.s.rectFields sx0 sy0 sx1 sy1
    let fs := if m.s.gating.isEmpty then rect else m.s.gating
    if fs.isEmpty || !fs.all rect.contains then m
    else
      let m := m.on fun s => fs.foldl (fun s f => s.gateField f) { s with gating := fs, holds := (s.holds ++ s.vfieldsOf fs).eraseDups }
      if !(fs.all fun f => (m.s.fieldAt f).gated) || !m.s.drained fs then m
      else if fs.any m.s.fieldDirty then m.on fun s => fs.foldl State.flushField s
      else ((m.s.launches.filter fun l => l.2.fields.any fs.contains).foldl (fun m l => m.scan fs l.1) m).on fun s => { s with gating := [] }

/-! ### Cells that move -/

/-- Old and new cells; a cell that is not named stays, and a cluster or field goes with its cells. -/
abbrev Moves := List (Nat × Nat)
def mvCell (ms : Moves) (c : Nat) : Nat := ((ms.find? fun e => e.1 == c).map fun e => e.2).getD c
def mvCluster (ms : Moves) (k : Nat) : Nat := ((ms.find? fun e => clusterOf e.1 == k).map fun e => clusterOf e.2).getD k
def mvField (ms : Moves) (f : Nat) : Nat := ((ms.find? fun e => fieldOf e.1 == f).map fun e => fieldOf e.2).getD f
def mvRegion (ms : Moves) : Region → Region
  | .tcm c => .tcm (mvCell ms c)
  | .csp k => .csp (mvCluster ms k)
  | .fsram f => .fsram (mvField ms f)
  | .vault c => .vault (mvCell ms c)
  | .opm c => .opm (mvCell ms c)
  | .acm c => .acm (mvCell ms c)
  | r => r
def mvPlace (ms : Moves) (p : Place) : Place := { p with r := mvRegion ms p.r }
def mvRing (ms : Moves) : RingRef → RingRef
  | .cluster k n => .cluster (mvCluster ms k) n
  | .tcm c n => .tcm (mvCell ms c) n
def mvRoute (ms : Moves) : Route → Route
  | .here p => .here (mvPlace ms p)
  | .ring r k o => .ring (mvRing ms r) k o
  | .engine p => .engine (mvPlace ms p)
  | .split p n a => .split (mvPlace ms p) n a
  | r => r
def mvCmd (ms : Moves) (c : Cmd) : Cmd := { c with cell := mvCell ms c.cell, route := mvRoute ms c.route }
def mvWho (ms : Moves) : Who → Who
  | .ctx c x => .ctx (mvCell ms c) x
  | .vxe c x => .vxe (mvCell ms c) x
  | .mxe c x => .mxe (mvCell ms c) x
  | .txe c => .txe (mvCell ms c)
  | .seq c => .seq (mvCell ms c)
  | .fetch c x => .fetch (mvCell ms c) x
  | w => w
def mvBack (ms : Moves) : Back → Back
  | .inst c x b i => .inst (mvCell ms c) x b i
  | .slot c x i g => .slot (mvCell ms c) x i g
  | .store c x i => .store (mvCell ms c) x i
  | .vxe c p => .vxe (mvCell ms c) p
  | .mxe c p => .mxe (mvCell ms c) p
  | .txRead c p => .txRead (mvCell ms c) p
  | .txWrite c p => .txWrite (mvCell ms c) p
  | .code c x l => .code (mvCell ms c) x l
  | b => b
def mvOp (ms : Moves) : Op → Op
  | .atomic c => .atomic (mvCmd ms c)
  | .arrive r b => .arrive (mvRing ms r) b
  | o => o
def mvAcc (ms : Moves) (a : Acc) : Acc :=
  { a with who := mvWho ms a.who, cell := mvCell ms a.cell, place := a.place.map (mvPlace ms),
           ring := a.ring.map fun e => (mvRing ms e.1, e.2), op := mvOp ms a.op, back := mvBack ms a.back,
           lead := a.lead.map fun e => (mvPlace ms e.1, e.2) }
def mvAct (ms : Moves) : Act → Act
  | .queue c => .queue (mvCmd ms c)
  | .engine c => .engine (mvCmd ms c)
  | .dvault c => .dvault (mvCmd ms c)
  | .bind c t => .bind (mvCmd ms c) t
  | a => a
def mvBlock (ms : Moves) (b : Block) : Block :=
  { b with acts := b.acts.map (fun e => (e.1, mvAct ms e.2)), loads := b.loads.map (mvCmd ms),
           acqs := b.acqs.map fun e => (e.1, mvCmd ms e.2.1, e.2.2) }
def mvCtx (ms : Moves) (c : Ctx) : Ctx := { c with flight := c.flight.map (mvBlock ms), sq := c.sq.map (mvCmd ms) }
/-- A mask over the cells of a cluster, w bits to a cell, n masks side by side of 16·w bits each, at their new indices. -/
def mvMask (ms : Moves) (k w n v : Nat) : Nat :=
  (List.range (16 * w * n)).foldl (fun m j =>
    if v / 2 ^ j % 2 = 0 then m
    else m ||| 2 ^ (j / (16 * w) * (16 * w) + mvCell ms (k * 16 + j % (16 * w) / w) % 16 * w + j % w)) 0
def mvRingSt (ms : Moves) (k : Nat) (r : Ring) : Ring :=
  let f (v : BitVec 48) : BitVec 48 := BitVec.ofNat 48 (mvMask ms k 1 3 v.toNat)
  { r with part := f r.part, arr := f r.arr, pend := f r.pend }
def mvCluSt (ms : Moves) (k : Nat) (c : Cluster) : Cluster :=
  let f (v : Word) : Word := BitVec.ofNat 64 (mvMask ms k 4 1 v.toNat)
  { c with rd := c.rd.map (fun e => (e.1, mvRingSt ms k e.2)),
           cb := c.cb.map fun e => (e.1, { e.2 with mask := f e.2.mask, arr := f e.2.arr }) }
def mvCellSt (ms : Moves) (k : Cell) : Cell :=
  { k with txq := k.txq.map (mvCmd ms), vxq := k.vxq.map (mvCmd ms), mxq := k.mxq.map (mvCmd ms),
           txRun := k.txRun.map (fun r => { r with cmd := mvCmd ms r.cmd }), vxRun := k.vxRun.map (fun r => { r with cmd := mvCmd ms r.cmd }),
           mxRun := k.mxRun.map (fun r => { r with cmd := mvCmd ms r.cmd }), seq := { k.seq with cmds := k.seq.cmds.map (mvCmd ms) } }
/-- The key of a channel at a tree node that serves the new placement (R400). -/
def mvNode (ms : Moves) (level node : Nat) : Nat := if level = 0 then mvCluster ms node else if level = 1 then mvField ms node else node
def mvNodeKey (ms : Moves) (k : Nat) : Nat :=
  let level := k / 32 / 2 ^ 16
  nodeKey level (mvNode ms level (k / 32 % 2 ^ 16)) (k % 32)
def mvKeys {α : Type} (f : Nat → Nat) (t : Tab α) : Tab α := t.foldl (fun u e => Tab.set u (f e.1) e.2) []
def mvPost (ms : Moves) (p : Post) : Post := { p with cell := mvCell ms p.cell }
def mvInst (ms : Moves) (n : Inst) : Inst :=
  { n with members := n.members.map (fun e => (mvCell ms e.1, e.2)), posts := n.posts.map (mvPost ms),
           parts := n.parts.map fun p => { p with cell := mvCell ms p.cell } }
def mvLaunch (ms : Moves) (l : Launch) : Launch :=
  { l with nodes := l.nodes.map (fun n => { n with cell := mvCell ms n.cell }), cells := l.cells.map (mvCell ms),
           ctxs := l.ctxs.map (fun e => (mvCell ms e.1, e.2)), clusters := (l.clusters.map (mvCluster ms)).eraseDups,
           fields := (l.fields.map (mvField ms)).eraseDups, engine := l.engine.map fun e => (mvField ms e.1, e.2) }
/-- Everything outside the moved cells that names them. -/
def State.moveRefs (s : State) (ms : Moves) : State :=
  { s with net := s.net.map (mvAcc ms), held := s.held.map (mvAcc ms), waits := s.waits.map (mvAcc ms), misq := s.misq.map (fun e => (e.1, mvAcc ms e.2)),
           linkOut := s.linkOut.map (mvAcc ms), resps := s.resps.map (fun r => { r with back := mvBack ms r.back }),
           gateIn := s.gateIn.map (mvCmd ms), treeUp := s.treeUp.map (fun t => { t with node := mvNode ms t.level t.node }),
           treeDown := s.treeDown.map (fun t => { t with cell := mvCell ms t.cell }), treeRound := mvKeys (mvNodeKey ms) s.treeRound,
           anmask := mvKeys (mvNodeKey ms) s.anmask, reports := s.reports.map (fun r => (mvCell ms r.1, r.2)),
           gates := s.gates.map fun g => (g.1, { g.2 with insts := g.2.insts.map fun e => (e.1, mvInst ms e.2) }),
           cells := s.cells.map (fun c => (c.1, { c.2 with vault := { c.2.vault with queue := c.2.vault.queue.map (mvAcc ms) } })),
           fields := s.fields.map fun f => (f.1, { f.2 with slices := f.2.slices.map fun e => (e.1, { e.2 with waiting := e.2.waiting.map (mvAcc ms) }) }) }

/-! ### Misroutes (R436, R438) -/

/-- FLIT_MISROUTE: a flit of a stale generation goes to the manager of the misrouting router's field, up to 4,096 there (R438); no
later flit of its source, tag and VC comes before it (R439). -/
def execFlitMisroute (n : Nat) (s : State) : Host.Outcome State Fault Refusal :=
  run s fun m => m.on fun s =>
    match s.net[n]? with
    | some a =>
        if s.stale a && s.misRoom (s.misField a) && !((s.net.take n).any fun b => b.cell == a.cell && b.vc == a.vc && b.tagOf == a.tagOf) then
          { s with net := s.net.eraseIdx n, misq := s.misq ++ [(s.misField a, a)] }
        else s
    | none => s

/-- Whether an access's tag has a translation in the present tables. -/
def State.translates (s : State) (a : Acc) : Bool :=
  match a.tagOf with
  | none => true
  | some (t, r) =>
      let f := s.ftab.get 0 (t / 2 ^ 17 % 128)
      let c := (s.fieldAt (fld f 0 7)).ctab.get 0 (t / 2 ^ 13 % 16)
      f.getLsbD 15 && c.getLsbD 15 && (decide (2 ≤ r) || (s.tagCell t).isOk)
/-- The distance of a flit by the present tables. -/
def State.accDistance (s : State) (a : Acc) : Scope :=
  match a.op with
  | .message m => s.msgDistance a.cell m.tag.toNat
  | _ => s.tagDistance a.cell a.addr
/-- An outstanding operation counts at the distance of the home it is now bound for: its home decides coverage (R159). -/
def State.remeasure (s : State) (a : Acc) : State :=
  let d := s.accDistance a
  let put (id : Nat) (c : Ctx) : Ctx := { c with outs := c.outs.map fun o => if o.1 = id then (id, d) else o }
  match a.back with
  | .store c x id => s.onCtx c x (put id)
  | .slot c x id _ => s.onCtx c x (put id)
  | _ => s
/-- Re-inject the misrouted flits in arrival order, before any later one of their source; one without a translation is dropped. -/
def M.reinject (m : M) : M :=
  let q := m.s.misq.map fun e => e.2
  let ok := (q.filter m.s.translates).map fun a => ({ a with gen := m.s.gen.setWidth 2 } : Acc).sealed
  let lost := q.filter fun a => !m.s.translates a
  lost.foldl (fun m a => m.failAcc a cMisroute) (m.on fun s => ok.foldl State.remeasure { s with misq := [], net := ok ++ s.net, reinj := s.reinj ++ ok.map fun a => a.id })

/-! ### Restore (R428 to R431) -/

/-- The cells of a launch that still run nodes, with their snapshots. -/
def State.liveSnaps (s : State) (i : Nat) : List Snap :=
  let l := s.launchAt i
  s.snaps.filter fun p => p.launch == i && l.cells.contains p.cell && !(s.cellAt p.cell).dead
/-- Two cells of one cluster, or of one field, move together, and no two cells, clusters or fields meet. -/
def movesOk (ms : Moves) : Bool :=
  (ms.map fun e => e.1).eraseDups.length == ms.length && (ms.map fun e => e.2).eraseDups.length == ms.length &&
  ms.all fun a => ms.all fun b => (clusterOf a.1 == clusterOf b.1) == (clusterOf a.2 == clusterOf b.2) &&
    (fieldOf a.1 == fieldOf b.1) == (fieldOf a.2 == fieldOf b.2)
/-- A field that a launch moves to has cache slices and entries for it (R83), and is one that Saffron controls and that can run at the
launch's floor within VMAX (R210, R445). -/
def State.takesField (s : State) (l : Launch) (f g : Nat) : Bool :=
  let n := (l.slices.filter fun e => e.1 == f).length
  f == g || ((s.fieldAt g).governed && !Config.needsMoreThanVmax g l.fmin &&
    decide (n ≤ (s.fieldAt g).freeCaches.length ∧ n ≤ (s.fieldAt g).freeFcbs.length))
/-- The cells chosen meet R428, and R82 for the field SRAM, and the vaults that take resident data can be reached (R107); the dead cells
of a cluster that moves move with it. -/
def State.restorable (s : State) (i : Nat) (ms : Moves) : Bool :=
  let l := s.launchAt i
  let others := s.launches.filter fun e => e.1 != i
  movesOk ms && (s.liveSnaps i).all (fun p =>
    let c := mvCell ms p.cell
    ms.any (fun e => e.1 == p.cell) && s.snapIntact p &&
    decide (p.tcmsz ≤ s.tcmBytes c ∧ p.cspsz ≤ s.cspBytes (clusterOf c) ∧ p.vltsz ≤ (s.cellAt c).vltBytes)) &&
  ms.all (fun e => l.cells.contains e.1 && (e.1 == e.2 || (!(s.cellAt e.2).dead && !(s.cellAt e.2).failed)) &&
    !(s.vaultGone e.2 && s.residentIn i e.1) && !(others.any fun o => o.2.cells.contains e.2 || o.2.fields.contains (fieldOf e.2))) &&
  l.nodes.all (fun n => !(s.cellAt n.cell).dead && !(s.cellAt (mvCell ms n.cell)).failed) &&
  l.cells.all (fun c => mvCluster ms (clusterOf c) == clusterOf c || ms.any fun e => e.1 == c) &&
  l.fields.all (fun f => (decide ((s.fieldAt f).fsBytes ≤ (s.fieldAt (mvField ms f)).fsBytes) || mvField ms f == f) && s.takesField l f (mvField ms f)) &&
  ({ s with launches := s.launches.set i (mvLaunch ms l) } : State).regionsFit s.regions

/-- The tables for the new cells: each entry that named a unit that moves now names the new one, those of adopted nodes included
(R215). -/
def State.moveEntries (s : State) (ms : Moves) : List (RegRef × Word) :=
  let word (n : Nat) : Word := BitVec.ofNat 64 n
  let fs := ((ms.filter fun e => fieldOf e.1 != fieldOf e.2).map fun e => fieldOf e.1).eraseDups
  let ks := ((ms.filter fun e => clusterOf e.1 != clusterOf e.2).map fun e => clusterOf e.1).eraseDups
  let cs := ms.filter fun e => e.1 != e.2
  let adopted (k : Nat) : List (Nat × Nat × BitVec 24) := (List.range 64).filterMap fun j =>
    let e := s.atab.get 0 (k * 64 + j)
    if e.getLsbD 23 then some (j / 32, j % 32, e) else none
  let gone := fs.flatMap (fun f => (List.range 16).map fun v => (RegRef.ctab f v, word 0)) ++
    ks.flatMap fun k => ((List.range 16).map fun v => (RegRef.ltab k v, word 0)) ++ (adopted k).map fun e => (RegRef.atab k e.1 e.2.1, word 0)
  gone ++
  (fs.flatMap fun f => (s.vfieldsOf [f]).map fun v => (RegRef.ftab v, word (2 ^ 15 + mvField ms f))) ++
  (ks.flatMap fun k => (List.range 16).filterMap fun v =>
    let e := (s.fieldAt (fieldOfCluster k)).ctab.get 0 v
    if e.getLsbD 15 && fld e 0 4 == k % 12 then some (RegRef.ctab (mvField ms (fieldOfCluster k)) v, word (2 ^ 15 + mvCluster ms k % 12)) else none) ++
  (cs.flatMap fun e => (List.range 16).filterMap fun v =>
    let l := s.ltab.get 0 (clusterOf e.1 * 16 + v)
    if l.getLsbD 15 && fld l 0 4 == e.1 % 16 then some (RegRef.ltab (clusterOf e.2) v, word (fld l 4 12 * 16 + e.2 % 16)) else none) ++
  (cs.map fun e => clusterOf e.1).eraseDups.flatMap fun k => (adopted k).map fun e =>
    (RegRef.atab (mvCluster ms k) e.1 e.2.1, putFld (e.2.2.setWidth 64) 13 8 (mvCell ms (fieldOfCluster k * 192 + fld e.2.2 13 8) % 192))

/-- Cache bindings go with the cell they name; in another field they take free slices and entries. -/
def State.moveCaches (s : State) (i : Nat) (ms : Moves) : State :=
  let l := s.launchAt i
  let step (s : State) (e : Nat × Nat) : State :=
    let f := e.1
    let g := mvField ms f
    match (List.range 8).find? fun n => let v := (s.fieldAt f).fcb.get 0 n; v.getLsbD 63 && fld v 56 7 == e.2 with
    | none => s
    | some n =>
        let v := (s.fieldAt f).fcb.get 0 n
        let c := mvCell ms (f * 192 + fld v 48 8) % 192
        let clear := s.putFcb f n 0
        let (n', sl) := if f = g then (n, e.2) else ((clear.fieldAt g).freeFcbs.headD n, (clear.fieldAt g).freeCaches.headD e.2)
        let s := clear.putFcb g n' (putFld (putFld v 48 8 c) 56 7 sl)
        let l := s.launchAt i
        { s with launches := s.launches.set i { l with slices := l.slices.map fun q => if q = e then (g, sl) else q } }
  l.slices.foldl step s

/-- What has come to a scanned cell all the same: the state of its collective ports, and operations elsewhere that are through. -/
def State.refreshed (s : State) (p : Snap) : Snap :=
  { p with state := { p.state with cpstat := (s.cellAt p.cell).cpstat },
           ctxs := p.ctxs.mapIdx fun x c => { c with outs := c.outs.filter (s.ctxAt p.cell x).outs.contains } }
/-- A load is issued again, from its new place (R182). -/
def State.reissue (s : State) (a : Acc) : State :=
  s.inject { a with done := 0, got := a.got.take (a.got.length - a.done), due := 0, place := if fld a.addr 61 3 = 0 ∨ fld a.addr 61 3 = 7 then none else a.place }

/-- A core cycle of the field at which something lands or is there, as far ahead of the count of the field it moves to (R156, R249). -/
def rebased (old new d : Nat) : Nat := if d ≤ old then 0 else d - old + new
def PortSt.rebase (p : PortSt) (f : Nat → Nat) : PortSt := { p with due := f p.due }
def InstSt.rebase (n : InstSt) (f : Nat → Nat) : InstSt :=
  { n with due := f n.due, a := n.a.rebase f, b := n.b.rebase f, p := n.p.rebase f, c := n.c.rebase f, hi := n.hi.rebase f,
           w1 := n.w1.rebase f, w2 := n.w2.rebase f, w3 := n.w3.rebase f }
def Ctx.rebase (c : Ctx) (f : Nat → Nat) : Ctx :=
  { c with lands := c.lands.map (fun l => { l with due := l.due.map f }), flight := c.flight.map fun b => { b with insts := b.insts.map fun n => n.rebase f } }
/-- Scan one snapshot in: its memories, contexts and cell state; the cell keeps its own vault, live sizes and identity. -/
def M.scanIn (m : M) (ms : Moves) (p : Snap) : M :=
  let c := mvCell ms p.cell
  let m := m.clearListed (m.s.listed [.tcm c, .opm c, .acm c])
  let l : Listed := { bytes := p.bytes.filter fun e => !inShare p.cell e.1, full := p.full.filter fun q => !inShare p.cell q,
                      poison := p.poison.filter fun q => !inShare p.cell q }
  let m := m.putListed (l.move (mvRegion ms))
  m.on fun s =>
    let k := s.cellAt c
    let s := s.setCell c { mvCellSt ms p.state with
      vault := k.vault, vltLive := k.vltLive, tcmLive := k.tcmLive, dead := k.dead, vifDead := k.vifDead, routerDown := k.routerDown,
      avoided := k.avoided, failed := k.failed, misses := [], bcache := [] }
    (List.range 4).foldl (fun s x => s.setCtx c x ((mvCtx ms (p.ctxs.getD x {})).rebase (rebased p.tick (s.tickOf c)))) s
/-- Each cell index's share of a cluster's scratchpad, its rings and its barriers. -/
def M.scanCluster (m : M) (ms : Moves) (p : Snap) : M :=
  let k := clusterOf p.cell
  let old := m.s.listed [.csp (mvCluster ms k)]
  let mine (q : Place) : Bool := q.off / 131072 == p.cell % 16
  let m := m.clearListed { bytes := old.bytes.filter fun e => mine e.1, full := old.full.filter mine, poison := old.poison.filter mine }
  let l : Listed := { bytes := p.bytes.filter fun e => inShare p.cell e.1, full := p.full.filter (inShare p.cell),
                      poison := p.poison.filter (inShare p.cell) }
  let m := m.putListed (l.move (mvRegion ms))
  match p.cluster with
  | some c => m.on fun s => s.setCluster (mvCluster ms k) { mvCluSt ms k c with cspLive := (s.clusterAt (mvCluster ms k)).cspLive }
  | none => m
/-- A cell that a launch has left. -/
def State.vacate (s : State) (c : Nat) : State :=
  (List.range 4).foldl (fun s x => s.onCtx c x Ctx.emptied) (s.onCell c fun k => { k.emptied with seq := {} })

/-- A field's own part is restored: its duty pattern, what its manager had reported to it, and the folds of its nodes (R81, R400); the
bindings have gone with their cells, and the logs of the banks stay with the banks. -/
def State.restoreField (s : State) (ms : Moves) (p : FieldSnap) : State :=
  let g := mvField ms p.field
  let s := (s.putDuty g p.duty).onField g fun k => { k with msgDrops := k.msgDrops ++ p.msgDrops.filter fun d => !k.msgDrops.contains d }
  { s with treeUp := s.treeUp ++ p.folds.map fun t => { t with node := mvNode ms t.level t.node } }
/-- The fields that a launch moves to, where Saffron controls them and they stand below its floor, go to it first (R210, R428). -/
def State.raise (s : State) (fs : List Nat) (fmin : Nat) : State :=
  fs.foldl (fun s g => if (s.fieldAt g).freqGoal.toNat < fmin && (s.governedIn g).all (fun f => (s.fieldAt f).atRest) then s.aimAll (s.governedIn g) fmin else s) s

/-- A load of configuration was interrupted in some cell of a launch (R426). -/
def State.loadsLeft (s : State) (i : Nat) : Bool := (s.launchAt i).cells.any fun c => (s.cellAt c).lcur != 0
/-- The end of a restore (R428): what was scanned in runs again; its loads are issued again, its fields ungated and no longer held. -/
def State.finishRestore (s : State) (i : Nat) : State :=
  let l := s.launchAt i
  let loads := (s.snaps.filter fun p => p.launch == i).flatMap fun p => p.loads
  let s := { s with launches := s.launches.set i { l with snap := false, loading := false }, snaps := s.snaps.filter (fun p => p.launch != i),
                    fsnaps := s.fsnaps.filter fun p => p.launch != i }
  let s := loads.foldl State.reissue s
  ((s.ungate l.fields).setFloors l.fields).alignAll l.fields
/-- Restore a pre-empted launch: its vaults and field SRAM are copied where they move, its tags rebound, its snapshots scanned in, and
unless a load is still to be completed it runs again. -/
def M.restore (m : M) (i : Nat) (ms : Moves) : M :=
  let l := m.s.launchAt i
  let snaps := (m.s.liveSnaps i).map m.s.refreshed
  let shares := m.s.snaps.filter fun p => p.launch == i
  let parts := m.s.fsnaps.filter fun p => p.launch == i
  let m := m.copyRegions (ms.map (fun e => (.vault e.1, .vault e.2)) ++ l.fields.map fun f => (.fsram f, .fsram (mvField ms f)))
  let ents := m.s.moveEntries ms
  let m := m.on fun s => (if ents.isEmpty then s else s.writeEntries ents).moveCaches i ms
  let m := m.on fun s => (snaps.map fun p => p.cell).foldl (fun s c => if mvCell ms c = c then s else s.vacate c) s
  let m := shares.foldl (fun m p => M.scanCluster m ms p) (snaps.foldl (fun m p => M.scanIn m ms p) m)
  m.on fun s =>
    let s := s.moveRefs ms
    let r := mvLaunch ms (s.launchAt i)
    let s := { s with launches := s.launches.set i { r with reserve := reserveOf r.fmin r.engine, loading := true },
                      snaps := s.snaps.map fun (p : Snap) => if p.launch = i then { p with cell := mvCell ms p.cell, loads := p.loads.map (mvAcc ms) } else p }
    let s := parts.foldl (fun s p => s.restoreField ms p) s
    let left := l.fields.filter fun f => !r.fields.contains f
    let s := (s.ungate left).setFloors left
    let s := r.fields.foldl (fun s g => s.onField g fun k => { k with gated := true }) s
    if s.loadsLeft i then s else s.finishRestore i

/-- SNAPSHOT_RESTORE: a pre-empted launch is restored onto the cells named, once its slices are flushed (R87) and the fields there run at
its floor; with none named no placement exists and the launch is killed with STATUS 0x0008 (R431). -/
def execSnapshotRestore (i : Nat) (cells : List (Nat × Nat)) (s : State) : Host.Outcome State Fault Refusal :=
  run s fun m =>
    let l := m.s.launchAt i
    let gs := (l.fields.map (mvField cells)).eraseDups
    if 64 ≤ i ∨ m.s.recState i ≠ 4 ∨ l.snap = false ∨ l.loading ∨ l.dying ≠ none then m
    else if cells.isEmpty then m.supKill i 0x0008
    else if m.s.rebindStep ≠ 0 ∨ m.s.gating.any (l.fields.contains ·) ∨ m.s.restorable i cells = false then m
    else if m.s.unflushed l then m.on fun s => s.flushAll l
    else if gs.any fun g => decide ((m.s.fieldAt g).freq.toNat < l.fmin) then m.on fun s => s.raise gs l.fmin
    else m.restore i cells

/-! ### Configuration segments (R426, R427) -/

/-- The items of live state in a cell (R427). -/
def State.liveItems (s : State) (cell : Nat) : Nat :=
  let k := s.cellAt cell
  (List.range 4).foldl (fun n x =>
    let c := s.ctxAt cell x
    n + (if c.stopped || c.next != .idle then 1 else 0) + c.mq.length + c.flight.length + c.lands.length) 0 +
  k.txq.length + k.vxq.length + k.mxq.length + k.txRun.length + k.vxRun.length + k.mxRun.length + (match k.seq.st with
    | .armed => 1
    | .running => 1
    | .suspended => 1
    | _ => 0)
/-- DISCARD drops it. -/
def State.dropLive (s : State) (cell : Nat) : State :=
  let s := (List.range 4).foldl (fun s x => (s.discard cell x).onCtx cell x Ctx.emptied) s
  (s.stopNow cell true).onCell cell fun k =>
    { k with txq := [], vxq := [], mxq := [], txRun := [], vxRun := [], mxRun := [], txRes := 0, vxRes := 0, mxRes := 0 }
/-- LCUR: the index of the next segment and the load's identifier. -/
def lcurOf (load seg : Nat) : Word := BitVec.ofNat 64 (seg % 2 ^ 32 * 2 ^ 32 + load % 2 ^ 32)
/-- Write one segment: registers, and code or data by TCM offset. -/
def M.writeSegment (m : M) (cell : Nat) (regs : List (RegRef × BitVec 64)) (data : List (Nat × Byte)) : M :=
  let m := m.on fun s => regs.foldl (fun s e => s.writeReg e.1 e.2) s
  data.foldl (fun m e => M.loadBytes m { r := .tcm cell, off := e.1 } [e.2]) m

/-- A segment is written into a cell, but not into live state of another use, which is a load fault, unless DISCARD drops it (R427). -/
def M.loadSegment (m : M) (cell : Nat) (discard : Bool) (regs : List (RegRef × BitVec 64)) (data : List (Nat × Byte)) : M :=
  if m.s.liveState cell then
    (if discard then
      (m.on fun s => ({ s with supLog := s.supLog ++ [(cell, BitVec.ofNat 64 (s.liveItems cell))] } : State).dropLive cell).writeSegment cell regs data
    else m.on fun s => { s with supLog := s.supLog ++ [(cell, 0)] })
  else m.writeSegment cell regs data
/-- The launches whose restore waits for interrupted loads that are now complete go on. -/
def State.finishLoads (s : State) : State :=
  (s.launches.filter fun e => e.2.loading && !s.loadsLeft e.1).foldl (fun s e => s.finishRestore e.1) s

/-- CONFIG_SEGMENT_LOAD: one segment of a load.  A load in progress at the gate finishes this segment and records
LCUR; after the restore it goes on there, and the cell runs again when the load is complete (R426). -/
def execConfigSegmentLoad (cell load : Nat) (seg : SegNo) (discard : Bool) (regs : List (RegRef × BitVec 64)) (data : List (Nat × Byte))
    (s : State) : Host.Outcome State Fault Refusal :=
  run s fun m =>
    let k := m.s.cellAt cell
    let next : Word := if seg.last then 0 else lcurOf load (seg.n + 1)
    let loading := m.s.launches.any fun e => e.2.loading && e.2.cells.contains cell
    if 4096 < 8 * regs.length + data.length then m
    else if loading then
      (if k.lcur != 0 && k.lcur == lcurOf load seg.n then
        (m.writeSegment cell regs data).on fun s => (s.onCell cell fun k => { k with lcur := next }).finishLoads
      else m)
    else if (m.s.fieldAt (fieldOf cell)).gated then
      (if k.lcur != 0 || m.s.asleep cell || (m.s.liveState cell && !discard) then m
       else (m.loadSegment cell discard regs data).on fun s => s.onCell cell fun k => { k with lcur := next })
    else m.loadSegment cell discard regs data

/-! ### Debug halts (R432 to R435) -/

/-- HALT_SIGNAL: signalled groups, by a field manager now or by a cell or the mailbox before, reach some cells; one whose HGRP.IN names
a group halts, its program suspended (R432, R434). -/
def execHaltSignal (sig : HaltSig) (cells : List Nat) (s : State) : Host.Outcome State Fault Refusal :=
  run s fun m => m.on fun s =>
    let s := if sig.manager then { s with haltGroups := s.haltGroups ||| sig.groups } else s
    cells.foldl (fun s c =>
      let g := (s.cellAt c).hgrp.setWidth 16 &&& sig.groups &&& s.haltGroups
      if g = 0 then s else (s.stopNow c false).onCell c fun k => { k with halted := k.halted ||| g }) s
/-- HALT_RELEASE: released groups reach some cells; a suspended program stays suspended. -/
def execHaltRelease (groups : BitVec 16) (cells : List Nat) (s : State) : Host.Outcome State Fault Refusal :=
  run s fun m => m.on fun s => cells.foldl (fun s c =>
    s.onCell c fun k => { k with halted := k.halted &&& ~~~(groups &&& ~~~s.haltGroups) }) s

/-! ### Rebinding (R437) -/

/-- The virtual fields whose entries change. -/
def State.heldBy (s : State) (ents : List (RegRef × BitVec 64)) : List Nat :=
  (ents.flatMap fun e => match e.1 with
    | .ftab i => [i]
    | .ctab f _ => s.vfieldsOf [f]
    | .ltab k _ => s.vfieldsOf [fieldOfCluster k]
    | .atab k _ _ => s.vfieldsOf [fieldOfCluster k]
    | _ => []).eraseDups
def isBindReg : RegRef → Bool
  | .ftab _ => true
  | .ctab _ _ => true
  | .ltab _ _ => true
  | .atab _ _ _ => true
  | _ => false
/-- The ring descriptors and barriers go with the memory that holds their rings and the cells that arrive at them (R66, R305). -/
def State.moveRings (s : State) (ms : Moves) : State :=
  let cs := (ms.filter fun e => e.1 != e.2).map fun e => (e.2, (s.cellAt e.1).td)
  let ks := ((ms.map fun e => (clusterOf e.1, clusterOf e.2)).filter fun e => e.1 != e.2).eraseDups.map fun e =>
    (e.2, mvCluSt ms e.1 (s.clusterAt e.1))
  let s := cs.foldl (fun s e => s.onCell e.1 fun k => { k with td := e.2 }) s
  ks.foldl (fun s e => s.onCluster e.1 fun k => { k with rd := e.2.rd, cb := e.2.cb }) s
/-- An access to its home's new place, from the source it has. -/
def mvHome (ms : Moves) (a : Acc) : Acc := { a with place := a.place.map (mvPlace ms), ring := a.ring.map fun e => (mvRing ms e.1, e.2) }
/-- The homes that move: TCM and vault of each cell, scratchpad and field SRAM of a cluster or field that moves, and the rings.  What
waits at one, in a vault's queue or at a word, goes with it, before anything that arrives later (R439). -/
def M.copyHomes (m : M) (ms : Moves) : M :=
  let ks := (ms.map fun e => (clusterOf e.1, clusterOf e.2)).eraseDups
  let fs := (ms.map fun e => (fieldOf e.1, fieldOf e.2)).eraseDups
  let gone (a : Acc) : Bool := a.place.isSome && mvHome ms a != a
  let m := m.on fun s =>
    let back := (s.cells.flatMap (fun e => e.2.vault.queue) ++ s.fields.flatMap fun f => f.2.slices.flatMap fun e => e.2.waiting).filter gone
    let stay (l : List Acc) : List Acc := l.filter fun a => !gone a
    { s with net := back.map (mvHome ms) ++ s.net, waits := s.waits.map (mvHome ms), held := s.held.map (mvHome ms),
             reinj := s.reinj ++ back.map fun a => a.id,
             cells := s.cells.map (fun e => (e.1, { e.2 with vault := { e.2.vault with queue := stay e.2.vault.queue } })),
             fields := s.fields.map fun f => (f.1, { f.2 with slices := f.2.slices.map fun e => (e.1, { e.2 with waiting := stay e.2.waiting }) }) }
  (m.copyRegions ((ms.flatMap fun e => [(Region.tcm e.1, Region.tcm e.2), (.vault e.1, .vault e.2)]) ++
    ks.map (fun e => (.csp e.1, .csp e.2)) ++ fs.map fun e => (.fsram e.1, .fsram e.2))).on fun s => s.moveRings ms
/-- The virtual fields of the flits that wait to be re-injected. -/
def State.misFields (s : State) : List Nat := s.misq.filterMap fun e => e.2.tagOf.map fun t => t.1 / 2 ^ 17 % 128
/-- Every re-injected flit has been performed at its home. -/
def State.swept (s : State) : Bool := !((s.net ++ s.misq.map (fun e => e.2) ++ s.athome).any fun a => s.reinj.contains a.id)

/-- REBINDING, in its order: hold and write; once no stale flit is left in a router, copy, rewrite what goes with the tables, and
re-inject; once every re-injected flit has been performed, release.  Each occurrence takes the steps it can; one without entries serves the
entries that TBINDs have written (R437). -/
def execRebinding (ents : List (RegRef × BitVec 64)) (moves : List (Nat × Nat)) (s : State) : Host.Outcome State Fault Refusal :=
  run s fun m =>
    let es := ents.filter fun e => isBindReg e.1
    match m.s.rebindStep with
    | 0 =>
        if es.isEmpty && m.s.misq.isEmpty then m
        else m.on fun s =>
          let vs := s.heldBy es
          let s := if es.isEmpty then s else s.writeEntries es
          let vs := (vs ++ s.heldBy es ++ s.misFields).eraseDups
          { s with holds := (s.holds ++ vs).eraseDups, rebindVs := vs, rebindStep := 1 }
    | 1 =>
        if m.s.net.any m.s.stale then m
        else
          let m := (m.copyHomes moves).on fun s => ents.foldl (fun s e => s.placeReg e.1 e.2) s
          m.reinject.on fun s => { s with rebindStep := 2 }
    | _ =>
        if !m.s.swept then m
        else m.on fun s =>
          let kept := s.vfieldsOf ((List.range Config.nFields).filter fun f => (s.fieldAt f).gated)
          { s with holds := s.holds.filter (fun v => !s.rebindVs.contains v || kept.contains v), rebindVs := [], reinj := [], rebindStep := 0 }

end Sys2Proof.Machine
end

