-- ==== Sys2Proof/Machine/Clocks.lean ====
section
/-! DEFINITION. Machine/Clocks.lean: core cycles (R20, R71, R73, R150, R156, R198, R218, R219, R379, R449, R450), the vault clock (R8, R22,
R96, R99, R206, R380, R464), resets and boot (R6, R63, R469, R470). -/
namespace Sys2Proof.Machine
open Sys2Proof

/-! ### Core cycles -/

/-- A cell at the start of a core cycle: what is counted per cycle starts again, the releases and the counts that came too late for the
last one count (R8), and every 64 cycles the slew windows roll over. -/
def Cell.newCycle (k : Cell) (roll : Bool) : Cell :=
  let late := k.semLate
  let k := { k with commits := [], issN := 0, issCtx := none, issAt := 0, entered := false, ovfNow := 0, acqNow := [], semLate := [],
                    treeMiss := k.treeMiss || k.missNow, missNow := false,
                    hdrop := BitVec.ofNat 32 (min (k.hdrop.toNat + k.hdropNow.toNat) (2 ^ 32 - 1)), hdropNow := 0 }
  let k := late.foldl (fun k e => k.semAdd e.1 e.2) k
  if roll then { k with slewVp := k.slewV, slewV := 0, slewMp := k.slewM, slewM := 0 } else k
/-- The core clock goes on, at a new frequency if it switches (R446), and the energy bucket refills by EBFILL / 16 tokens, to at most
EBCAP. -/
def Field.newCycle (k : Field) : Field :=
  let k := k.edge.switchClock
  { k with ebbal := min (k.ebbal + k.ebfill.toNat) (16 * k.ebcap.toNat), cycle := k.cycle + 1 }

/-- The results of a cell whose bound has come land, those of the VXE with the end of its command (R156). -/
def State.landCell (s : State) (cell : Nat) : State :=
  let now := s.tickOf cell
  let s := s.vxDue cell now
  (List.range 4).foldl (fun s x => s.onCtx cell x fun c => Ctx.landDue c.lands.length c now s.vtime.toNat) s
/-- The rings whose home lies in a field. -/
def State.ringsOf (s : State) (field : Nat) : List RingRef :=
  (s.clusters.flatMap fun e => if e.1 / 12 = field then e.2.rd.map fun r => RingRef.cluster e.1 r.1 else []) ++
  s.cells.flatMap fun e => if fieldOf e.1 = field then e.2.td.map fun r => RingRef.tcm e.1 r.1 else []
/-- A ring at the end of a core cycle: a rotation in it shows at DCHK from vault clock E + 3 on, E being the next edge (R73). -/
def Ring.endCycle (d : Ring) (clock : Nat) : Ring :=
  { d with turned := false, seenAt := (d.seenAt.filter fun t => decide (clock < t)) ++ if d.turned then [clock + 4] else [] }
/-- The end of a core cycle for a field's rings: a complete one has rotated, once (R71). -/
def M.turnRings (m : M) (field : Nat) : M :=
  let rs := m.s.ringsOf field
  let m := rs.foldl (fun m r => m.rotate r) m
  m.on fun s => rs.foldl (fun s r => s.setRing r ((s.ringAt r).endCycle s.vtime.toNat)) s
/-- The SBARs at the head of a context's queue, one after another: each is recorded or waits (R70, R304). -/
def M.sbarsLeave : Nat → M → Nat → Nat → M
  | 0, m, _, _ => m
  | n + 1, m, cell, x =>
      match (m.s.ctxAt cell x).sq with
      | c :: _ => (match c.i with
          | .sbar .. =>
              let m' := m.sqLeave cell x
              if (m'.s.ctxAt cell x).sq.length < (m.s.ctxAt cell x).sq.length then M.sbarsLeave n m' cell x else m
          | _ => m)
      | [] => m
/-- The DSIGs of a cell's sequencer that have issued, ring by ring (R73, R121). -/
def State.dsigsArrive (s : State) (cell : Nat) : State :=
  (s.cellAt cell).seq.dsigs.foldl (fun s e => match e.1 with
    | .dsig _ false idx _ => s.seqArrive cell (ringRef cell idx.toNat)
    | _ => s) s
/-- The arrivals of a cell's agents by the end of a core cycle.  DESIGN CHOICE (log 90): an SBAR arrives in the core cycle in which it
comes to the head of its queue, a DSIG in the one in which nothing is left to wait for (R73 allows 4). -/
def M.arrivals (m : M) (cell : Nat) : M :=
  let m := (List.range 4).foldl (fun (m : M) x => m.sbarsLeave 16 cell x) m
  m.on fun s => s.dsigsArrive cell
/-- The commands to a cell's sequencer whose blocks have committed in the core cycle that ends now get their clock (R379). -/
def State.dueCommands (s : State) (cell : Nat) : State :=
  if (s.cellAt cell).seq.cmds.any fun c => c.len == 0 then
    s.onSeq cell fun q => { q with cmds := q.cmds.map fun c => if c.len = 0 then { c with len := s.vaultDue } else c }
  else s
/-- A context of a cell that has waited past its limit takes its progress fault, on the cycle on which it passes (R219). -/
def State.overdue (s : State) (cell : Nat) : State :=
  (List.range 4).foldl (fun s x => s.progressFault cell x) s
/-- What is still to happen in a cell before its core cycle ends, and the ages of its next one. -/
def State.endCycle (s : State) (cell : Nat) (roll : Bool) : State :=
  (((s.serveSems cell).ageCell cell).overdue cell).onCell cell fun k => k.newCycle roll
/-- Blocks that a barrier has released commit in the new cycle as far as its limit lets them (R306). -/
def State.commitAllBarred (s : State) (field : Nat) : State :=
  (List.range 12).foldl (fun s i => s.commitBarred (12 * field + i)) s

/-- The end of a field's core cycle: what the present cycle must still do is done (arrivals, rings, results, acquires, ages and their
faults), then the next cycle begins. -/
def M.coreCycle (m : M) (field : Nat) : M :=
  let cells := m.s.cellsWhere fun c => fieldOf c == field
  let m := cells.foldl M.arrivals m
  (m.turnRings field).on fun s =>
    let s := cells.foldl (fun s c => (s.dueCommands c).landCell c) s
    let s := s.onField field Field.newCycle
    let roll := (s.fieldAt field).cycle % 64 == 0
    (cells.foldl (fun s c => s.endCycle c roll) s).commitAllBarred field
/-- CORE_CYCLE of a field, when its clock edge is due and all that must issue has issued. -/
def execCoreCycle (field : Nat) (s : State) : Host.Outcome State Fault Refusal :=
  run s fun m => if m.s.cycleDue field then m.coreCycle field else m

/-! ### The vault clock -/

/-- Every cell of the wafer by itself: on the vault clocks on which a refresh tick may fall, each takes its part (R96, R99). -/
def State.listCells (s : State) : State := { s with cells := (List.range Config.nCells).map fun c => (c, s.cellAt c) }
/-- The results of a cell whose vault-clock bound has come land (R380, R381). -/
def State.landClock (s : State) (cell : Nat) : State :=
  (List.range 4).foldl (fun s x =>
    if (s.ctxAt cell x).lands.any fun l => l.vdue.isSome then s.onCtx cell x fun c => Ctx.landDue c.lands.length c 0 s.vtime.toNat else s) s
/-- The drops that HERR counts on a clock show from the next one on (R8). -/
def State.countHerr (s : State) : State :=
  { s with herr := BitVec.ofNat 64 (min (s.herr.toNat + s.herrNow.toNat) (2 ^ 32 - 1)), herrNow := 0 }
/-- What vaults, sequencers, the tree, the gateways, Saffron and the dispatcher do on the present vault clock; kills that waited end. -/
def M.clockWork (m : M) : M :=
  let m := if m.s.vtime.toNat % 1500 = 0 then m.on State.listCells else m
  let m := (m.s.cellsWhere fun _ => true).foldl (fun (m : M) c => m.vaultWork c) m
  let m := m.on fun s =>
    let s := (s.fields.map fun e => e.1).foldl (fun s f => s.classFall f) s
    let s := s.extractDue
    let s : State := { s with gates := s.gates.map fun g => (g.1, g.2.clock s.vtime.toNat) }
    let s := (s.gates.map fun g => g.1).foldl State.linkTimeout s
    let s := (s.cellsWhere fun _ => true).foldl State.landClock s
    s.powerWork.countHerr
  (if m.s.bootst = 6 then m.takeDecision.watch else m).endKills

/-- VAULT_CLOCK, when no core clock edge comes before it: the work of the clock, then VTIME advances by 1. -/
def execVaultClock (s : State) : Host.Outcome State Fault Refusal :=
  if s.clockDue then
    let m := M.clockWork { s := s }
    .next { m.s with mem := s.mem.applyAll m.ops, vtime := s.vtime + 1, fields := m.s.fields.map fun e => (e.1, e.2.pass) }
  else .next s

/-! ### Resets -/

/-- What no reset changes: host memory and the non-volatile store of G0 are not the wafer's; the agenda and the counters of fresh
numbers are the model's own (log 3). -/
def State.resetTo (s : State) (mem : Mem) : State :=
  { State.reset with mem := mem, fw := { minSvn := s.fw.minSvn, leaf := s.fw.leaf }, agenda := s.agenda, fresh := s.fresh, freeCtr := s.freeCtr }
/-- Host memory alone. -/
def Mem.hostPart (m : Mem) : Mem :=
  { bytes := m.bytes.filter fun e => e.1 / 2 ^ 96 == 7, full := [], poison := m.poison.filter fun u => u * 8 / 2 ^ 96 == 7 }

/-- POWER_ON_RESET: every field at its reset value, every full/empty bit empty, memory as it is when nothing has written it. -/
def execPowerOnReset (s : State) : Host.Outcome State Fault Refusal := .next (s.resetTo s.mem.hostPart)
/-- WAFER_RESET: as power-on reset, but supply stays and memory keeps its bytes and poison. -/
def execWaferReset (s : State) : Host.Outcome State Fault Refusal := .next (s.resetTo { s.mem with full := [] })

/-! ### Boot (Table 20-4) -/

/-- A vault row that the self-test has found faulty: its remap register is written. -/
def State.bootRemap (s : State) (e : Nat × Nat × Nat) : State :=
  match (s.cellAt e.1).vault.spareFor e.2.1 e.2.2 with
  | some i => s.onCell e.1 fun k => { k with vault := { k.vault with vrmap := k.vault.vrmap.set (e.2.1 * 128 + i) (BitVec.ofNat 16 (2 ^ 15 + e.2.2)) } }
  | none => s
/-- Sumac sets the carve-outs (R81), writes the remap registers, FTAB and ANPAD, and measures the tree (R397); the size registers follow
from what is live.  DESIGN CHOICE (log 89): no entry of FTAB is valid before a launch binds, and PAD is 192, or MAXPATH if that is
larger. -/
def State.bootTables (s : State) (rows : List (Nat × Nat × Nat)) : State :=
  let s := rows.foldl State.bootRemap s
  let s := (List.range Config.nFields).foldl (fun s f => s.onField f fun k =>
    let carve (k : Field) (sl : Nat) (mode : BitVec 2) : Field := { k with slices := k.slices.set sl { k.slice sl with mode := mode } }
    let k := carve (carve k 79 2) 77 3
    if f = 7 then carve k 78 2 else k) s
  { s with ftab := [], anpadMax := BitVec.ofNat 16 (min s.maxPath 65535), anpadPad := BitVec.ofNat 16 (min (max 192 s.maxPath) 65535) }
/-- The live map of the whole wafer (R470). -/
def M.publishMap (m : M) : M :=
  let fs := (List.range Config.nFields).map fun f => ((if (m.s.fieldAt f).retired then 1 else 0 : Byte), false)
  let cs := (List.range Config.nCells).map fun c => ((if (m.s.cellAt c).dead then 1 else 0 : Byte), false)
  let m := m.write (m.s.writeOps (hdm0 0x4008) (fs ++ cs))
  m.putNum (hdm0 0x4000) 8 m.s.gen.toNat
/-- Every record is cleared to FREE. -/
def M.freeRecords (m : M) : M :=
  ((List.range 64).foldl (fun (m : M) i => m.setState i 0 0) m).on fun s => { s with launches := [] }

/-- BOOT_PROGRESS: boot enters its next stage, or fails; stage 0x02 is reached by FWLOAD.  What the self-test of stage 0x03 finds comes
with it: whether the wafer passes, and the vault rows, by cell and bank, that stage 0x04 remaps. -/
def execBootProgress (found : Option (List (Nat × Nat × Nat))) (s : State) : Host.Outcome State Fault Refusal :=
  run s fun m =>
    let st := m.s.bootst.toNat
    let dst (m : M) (n : Word) : M := m.on fun s => { s with bootst := n }
    if st = 1 ∨ 6 ≤ st then m
    else match found, st with
      | none, _ => m.on State.bootFail
      | some _, 0 => dst m 1
      | some _, 2 => dst m 3
      | some rows, 3 => dst (m.on fun s => s.bootTables rows) 4
      | some _, 4 => dst (if m.s.fw.resume then m.publishMap else m.publishMap.freeRecords) 5
      | some _, _ => dst m 6

end Sys2Proof.Machine
end

