-- ==== Sys2Proof/Machine/Control.lean ====
section
/-! DEFINITION. Machine/Control.lean: exits, calls, moves, constants and tests (R247 to R259). -/
namespace Sys2Proof.Machine
open Sys2Proof

/-- The target of BR and CALL (R250): the own address with its offset part moved by OFF blocks; none beyond the width
of the offset part. -/
def relTarget (own : Word) (off : BitVec 26) : Option Word :=
  let n := if fld own 61 3 = 1 then 32 else 35
  let o : Int := (fld own 0 n : Int) + off.toInt * 64
  if 0 ≤ o ∧ o < 2 ^ n then some (BitVec.ofNat 64 (own.toNat - fld own 0 n + o.toNat)) else none

/-- An exit to an address with the poison of the predicate (R225, R226). -/
def Env.exitTo (e : Env) (v : Word) (poi : Bool) : Exit := .addr { v := v, poi := poi || e.pp }
/-- A relative exit, or the space or bound fault of R250. -/
def Env.relExit (e : Env) (off : BitVec 26) (r : Eff) : Eff :=
  match relTarget e.blk.addr off with
  | some t => { r with exit := some (e.exitTo t false) }
  | none => effFault cSpace (e.blk.addr + BitVec.ofInt 64 (off.toInt * 64))

def execBr (p : Pr) (off : BitVec 26) (s : State) : Host.Outcome State Fault Refusal :=
  fire (.br p off) (fun e => e.relExit off effNone) s
def execJmp (p : Pr) (s : State) : Host.Outcome State Fault Refusal :=
  fire (.jmp p) (fun e => { exit := some (e.exitTo (e.tok .a).v e.pa) }) s
/-- CALL delivers its port a, counts a call at commit (R251) and exits to its target. -/
def execCall (h : Hdr) (off : BitVec 26) (s : State) : Host.Outcome State Fault Refusal :=
  fire (.call h off) (fun e => e.relExit off { (e.res e.a e.pa) with acts := [.depth 1] }) s
def execCallr (h : Hdr) (s : State) : Host.Outcome State Fault Refusal :=
  fire (.callr h) (fun e =>
    { (e.res e.b e.pb) with acts := [.depth 1], exit := some (e.exitTo (e.tok .a).v e.pa) }) s
def execRet (p : Pr) (s : State) : Host.Outcome State Fault Refusal :=
  fire (.ret p) (fun e => { exit := some (e.exitTo (e.tok .a).v e.pa), acts := [.depth (-1)] }) s
def execDone (p : Pr) (s : State) : Host.Outcome State Fault Refusal :=
  fire (.done p) (fun _ => { exit := some .done }) s
def execYield (p : Pr) (s : State) : Host.Outcome State Fault Refusal :=
  fire (.yield p) (fun e => { exit := some (.yield { v := (e.tok .a).v, poi := e.pa || e.pp }) }) s
/-- TRAP faults when it fires (R254); an exit-class instruction, it also counts as an exit taken (R226), which names no block. -/
def execTrap (p : Pr) (s : State) : Host.Outcome State Fault Refusal :=
  fire (.trap p) (fun e =>
    { effFault cUserTrap (e.tok .a).v with exit := some .trap }) s
def execNull (h : Hdr) (s : State) : Host.Outcome State Fault Refusal :=
  fire (.null h) (fun _ => effNone) s
def execMov (h : Hdr) (w : Width) (s : State) : Host.Outcome State Fault Refusal :=
  fire (.mov h w) (fun e => e.res (zextN e.a w.bits) e.pa) s
def execMovi (h : Hdr) (w : Width) (zx : Bool) (imm : BitVec 26) (s : State) : Host.Outcome State Fault Refusal :=
  fire (.movi h w zx imm) (fun e => e.res (immZ imm zx w.bits) false) s
def execMovhi (h : Hdr) (f : HiPart) (s : State) : Host.Outcome State Fault Refusal :=
  fire (.movhi h f) (fun e => e.res (movhiVal e.a f) e.pa) s
def execSel (h : Hdr) (w : Width) (s : State) : Host.Outcome State Fault Refusal :=
  fire (.sel h w) (fun e =>
    if e.cv % 2 = 1 then e.res (zextN e.a w.bits) (e.pcv || e.pa) else e.res (zextN e.b w.bits) (e.pcv || e.pb)) s
def execBaddr (h : Hdr) (s : State) : Host.Outcome State Fault Refusal :=
  fire (.baddr h) (fun e => e.res e.blk.addr.toNat false) s

/-! ### Results of one and two operands at a width (R232) -/

def Env.res1 (e : Env) (w : Width) (g : Nat → Nat) : Eff := e.res (g (zextN e.a w.bits)) e.pa
def Env.res2 (e : Env) (w : Width) (g : Nat → Nat → Nat) : Eff :=
  e.res (g (zextN e.a w.bits) (zextN e.b w.bits)) (e.pa || e.pb)

/-! ### Tests (R259) -/

def execTeq (h : Hdr) (w : Width) (s : State) : Host.Outcome State Fault Refusal :=
  fire (.teq h w) (fun e => e.res2 w fun x y => ofBool (x == y)) s
def execTne (h : Hdr) (w : Width) (s : State) : Host.Outcome State Fault Refusal :=
  fire (.tne h w) (fun e => e.res2 w fun x y => ofBool (x != y)) s
def execTlt (h : Hdr) (w : Width) (s : State) : Host.Outcome State Fault Refusal :=
  fire (.tlt h w) (fun e => e.res2 w fun x y => ofBool (testLt w.bits x y)) s
def execTle (h : Hdr) (w : Width) (s : State) : Host.Outcome State Fault Refusal :=
  fire (.tle h w) (fun e => e.res2 w fun x y => ofBool (testLe w.bits x y)) s
def execTltu (h : Hdr) (w : Width) (s : State) : Host.Outcome State Fault Refusal :=
  fire (.tltu h w) (fun e => e.res2 w fun x y => ofBool (x < y)) s
def execTleu (h : Hdr) (w : Width) (s : State) : Host.Outcome State Fault Refusal :=
  fire (.tleu h w) (fun e => e.res2 w fun x y => ofBool (x ≤ y)) s
def execTeqi (h : Hdr) (w : Width) (imm : BitVec 26) (s : State) : Host.Outcome State Fault Refusal :=
  fire (.teqi h w imm) (fun e => e.res1 w fun x =>
    let y := immZ imm false w.bits
    ofBool (x == y)) s
def execTnei (h : Hdr) (w : Width) (imm : BitVec 26) (s : State) : Host.Outcome State Fault Refusal :=
  fire (.tnei h w imm) (fun e => e.res1 w fun x =>
    let y := immZ imm false w.bits
    ofBool (x != y)) s
def execTlti (h : Hdr) (w : Width) (imm : BitVec 26) (s : State) : Host.Outcome State Fault Refusal :=
  fire (.tlti h w imm) (fun e => e.res1 w fun x =>
    let y := immZ imm false w.bits
    ofBool (testLt w.bits x y)) s
def execTlei (h : Hdr) (w : Width) (imm : BitVec 26) (s : State) : Host.Outcome State Fault Refusal :=
  fire (.tlei h w imm) (fun e => e.res1 w fun x =>
    let y := immZ imm false w.bits
    ofBool (testLe w.bits x y)) s
def execTltui (h : Hdr) (w : Width) (imm : BitVec 26) (s : State) : Host.Outcome State Fault Refusal :=
  fire (.tltui h w imm) (fun e => e.res1 w fun x =>
    let y := immZ imm false w.bits
    ofBool (x < y)) s
def execTleui (h : Hdr) (w : Width) (imm : BitVec 26) (s : State) : Host.Outcome State Fault Refusal :=
  fire (.tleui h w imm) (fun e => e.res1 w fun x =>
    let y := immZ imm false w.bits
    ofBool (x ≤ y)) s
def execTbit (h : Hdr) (w : Width) (n : BitVec 6) (s : State) : Host.Outcome State Fault Refusal :=
  fire (.tbit h w n) (fun e => e.res1 w fun x => bitsN x n.toNat n.toNat) s
def execTnz (h : Hdr) (w : Width) (mask : Option (BitVec 26)) (s : State) : Host.Outcome State Fault Refusal :=
  fire (.tnz h w mask) (fun e => e.res1 w fun x =>
    match mask with
    | none => ofBool (x != 0)
    | some k => ofBool (x &&& k.toNat != 0)) s

end Sys2Proof.Machine
end

