-- ==== Sys2Proof/Machine/FloatInstr.lean ====
section
/-! DEFINITION. Machine/FloatInstr.lean: scalar floating point (R283 to R289).  Every instruction computes from the
operand bits as though clean and marks its result poisoned (R282); flags go to FCSR at commit (R280). -/
namespace Sys2Proof.Machine
open Sys2Proof

/-- A float result with its flags. -/
def Env.fres (e : Env) (r : Nat × Flags) (poi : Bool) : Eff := { (e.res r.1 poi) with acts := [.flags r.2] }
/-- One, two and three operands of a format under a rounding field (R284). -/
def Env.f1 (e : Env) (f : FFmt) (m : Rm) (g : Fmt → RMode → Nat → Nat → Nat × Flags) : Eff :=
  e.fres (g (fmtOf f) (rmMode e.c.frm m) e.draw e.a) e.pa
def Env.f2 (e : Env) (f : FFmt) (m : Rm) (g : Fmt → RMode → Nat → Nat → Nat → Nat × Flags) : Eff :=
  e.fres (g (fmtOf f) (rmMode e.c.frm m) e.draw e.a e.b) (e.pa || e.pb)

def execFadd (h : Hdr) (f : FFmt) (m : Rm) (s : State) : Host.Outcome State Fault Refusal :=
  fire (.fadd h f m) (fun e => e.f2 f m Machine.fadd) s
def execFsub (h : Hdr) (f : FFmt) (m : Rm) (s : State) : Host.Outcome State Fault Refusal :=
  fire (.fsub h f m) (fun e => e.f2 f m Machine.fsub) s
def execFmul (h : Hdr) (f : FFmt) (m : Rm) (s : State) : Host.Outcome State Fault Refusal :=
  fire (.fmul h f m) (fun e => e.f2 f m Machine.fmul) s
def execFdiv (h : Hdr) (f : FFmt) (m : Rm) (s : State) : Host.Outcome State Fault Refusal :=
  fire (.fdiv h f m) (fun e => e.f2 f m Machine.fdiv) s
def execFsqrt (h : Hdr) (f : FFmt) (m : Rm) (s : State) : Host.Outcome State Fault Refusal :=
  fire (.fsqrt h f m) (fun e => e.f1 f m Machine.fsqrt) s
def execFma (h : Hdr) (f : FFmt) (m : Rm) (s : State) : Host.Outcome State Fault Refusal :=
  fire (.fma h f m) (fun e =>
    e.fres (Machine.fma (fmtOf f) (rmMode e.c.frm m) e.draw e.a e.b e.cv) (e.pa || e.pb || e.pcv)) s
def execFmin (h : Hdr) (f : FFmt) (prop : Bool) (s : State) : Host.Outcome State Fault Refusal :=
  fire (.fmin h f prop) (fun e => e.fres (fminmax (fmtOf f) false prop e.a e.b) (e.pa || e.pb)) s
def execFmax (h : Hdr) (f : FFmt) (prop : Bool) (s : State) : Host.Outcome State Fault Refusal :=
  fire (.fmax h f prop) (fun e => e.fres (fminmax (fmtOf f) true prop e.a e.b) (e.pa || e.pb)) s
def execFsgn (h : Hdr) (f : FFmt) (k : Sgn) (s : State) : Host.Outcome State Fault Refusal :=
  fire (.fsgn h f k) (fun e => e.res (Machine.fsgn (fmtOf f) k e.a e.b) (e.pa || e.pb)) s
def execFcmp (h : Hdr) (f : FFmt) (k : FCond) (s : State) : Host.Outcome State Fault Refusal :=
  fire (.fcmp h f k) (fun e => e.fres (Machine.fcmp (fmtOf f) k e.a e.b) (e.pa || e.pb)) s
def execFclass (h : Hdr) (f : FFmt) (s : State) : Host.Outcome State Fault Refusal :=
  fire (.fclass h f) (fun e => e.res (Machine.fclass (fmtOf f) e.a) e.pa) s

/-- A conversion under the word at port b, or the illegal-instruction fault of R289. -/
def Env.conv (e : Env) (ok : ConvWord → Bool) : Eff :=
  match convWordOf (e.tok .b).v with
  | some c =>
      if ok c then e.fres (convElem c (bitsMode e.c.frm c.mode) e.draw (zextN e.a (codeBits c.frm))) (e.pa || e.pb)
      else effFault cIllegal (e.tok .b).v
  | none => effFault cIllegal (e.tok .b).v

def execFcvt (h : Hdr) (s : State) : Host.Outcome State Fault Refusal := fire (.fcvt h) (fun e => e.conv convFcvt) s
def execFtoi (h : Hdr) (s : State) : Host.Outcome State Fault Refusal := fire (.ftoi h) (fun e => e.conv convFtoi) s
def execItof (h : Hdr) (s : State) : Host.Outcome State Fault Refusal := fire (.itof h) (fun e => e.conv convItof) s

end Sys2Proof.Machine
end

