-- ==== Sys2Proof/Machine/Integer.lean ====
section
/-! DEFINITION. Machine/Integer.lean: integer arithmetic, logic, shifts, counts and bit fields (R260 to R267). -/
namespace Sys2Proof.Machine
open Sys2Proof

def execAdd (h : Hdr) (w : Width) (s : State) : Host.Outcome State Fault Refusal :=
  fire (.add h w) (fun e => e.res2 w (aluAdd w.bits)) s
def execSub (h : Hdr) (w : Width) (s : State) : Host.Outcome State Fault Refusal :=
  fire (.sub h w) (fun e => e.res2 w (aluSub w.bits)) s
def execAddi (h : Hdr) (w : Width) (imm : BitVec 26) (s : State) : Host.Outcome State Fault Refusal :=
  fire (.addi h w imm) (fun e => e.res1 w fun x => zextI ((x : Int) + immS imm) w.bits) s
def execAdds (h : Hdr) (w : Width) (s : State) : Host.Outcome State Fault Refusal :=
  fire (.adds h w) (fun e => e.res2 w (aluAdds w.bits)) s
def execAddsu (h : Hdr) (w : Width) (s : State) : Host.Outcome State Fault Refusal :=
  fire (.addsu h w) (fun e => e.res2 w (aluAddsu w.bits)) s
def execSubs (h : Hdr) (w : Width) (s : State) : Host.Outcome State Fault Refusal :=
  fire (.subs h w) (fun e => e.res2 w (aluSubs w.bits)) s
def execSubsu (h : Hdr) (w : Width) (s : State) : Host.Outcome State Fault Refusal :=
  fire (.subsu h w) (fun e => e.res2 w (aluSubsu w.bits)) s
def execNeg (h : Hdr) (w : Width) (sat : Bool) (s : State) : Host.Outcome State Fault Refusal :=
  fire (.neg h w sat) (fun e => e.res1 w (aluNeg sat w.bits)) s
def execAbs (h : Hdr) (w : Width) (sat : Bool) (s : State) : Host.Outcome State Fault Refusal :=
  fire (.abs h w sat) (fun e => e.res1 w (aluAbs sat w.bits)) s
def execMin (h : Hdr) (w : Width) (s : State) : Host.Outcome State Fault Refusal :=
  fire (.min h w) (fun e => e.res2 w (aluMin w.bits)) s
def execMax (h : Hdr) (w : Width) (s : State) : Host.Outcome State Fault Refusal :=
  fire (.max h w) (fun e => e.res2 w (aluMax w.bits)) s
def execMinu (h : Hdr) (w : Width) (s : State) : Host.Outcome State Fault Refusal :=
  fire (.minu h w) (fun e => e.res2 w (aluMinu w.bits)) s
def execMaxu (h : Hdr) (w : Width) (s : State) : Host.Outcome State Fault Refusal :=
  fire (.maxu h w) (fun e => e.res2 w (aluMaxu w.bits)) s
def execMul (h : Hdr) (w : Width) (s : State) : Host.Outcome State Fault Refusal :=
  fire (.mul h w) (fun e => e.res2 w (aluMul w.bits)) s
def execMulh (h : Hdr) (w : Width) (s : State) : Host.Outcome State Fault Refusal :=
  fire (.mulh h w) (fun e => e.res2 w (aluMulh w.bits)) s
def execMulhu (h : Hdr) (w : Width) (s : State) : Host.Outcome State Fault Refusal :=
  fire (.mulhu h w) (fun e => e.res2 w (aluMulhu w.bits)) s
def execMulhsu (h : Hdr) (w : Width) (s : State) : Host.Outcome State Fault Refusal :=
  fire (.mulhsu h w) (fun e => e.res2 w (aluMulhsu w.bits)) s
def execMadd (h : Hdr) (w : Width) (s : State) : Host.Outcome State Fault Refusal :=
  fire (.madd h w) (fun e =>
    e.res (aluMadd w.bits (zextN e.a w.bits) (zextN e.b w.bits) e.cv) (e.pa || e.pb || e.pcv)) s
def execDiv (h : Hdr) (w : Width) (s : State) : Host.Outcome State Fault Refusal :=
  fire (.div h w) (fun e => e.res2 w (aluDiv w.bits)) s
def execDivu (h : Hdr) (w : Width) (s : State) : Host.Outcome State Fault Refusal :=
  fire (.divu h w) (fun e => e.res2 w (aluDivu w.bits)) s
def execRem (h : Hdr) (w : Width) (s : State) : Host.Outcome State Fault Refusal :=
  fire (.rem h w) (fun e => e.res2 w (aluRem w.bits)) s
def execRemu (h : Hdr) (w : Width) (s : State) : Host.Outcome State Fault Refusal :=
  fire (.remu h w) (fun e => e.res2 w (aluRemu w.bits)) s
def execAnd (h : Hdr) (w : Width) (s : State) : Host.Outcome State Fault Refusal :=
  fire (.and h w) (fun e => e.res2 w (aluAnd w.bits)) s
def execOr (h : Hdr) (w : Width) (s : State) : Host.Outcome State Fault Refusal :=
  fire (.or h w) (fun e => e.res2 w (aluOr w.bits)) s
def execXor (h : Hdr) (w : Width) (s : State) : Host.Outcome State Fault Refusal :=
  fire (.xor h w) (fun e => e.res2 w (aluXor w.bits)) s
def execAndn (h : Hdr) (w : Width) (s : State) : Host.Outcome State Fault Refusal :=
  fire (.andn h w) (fun e => e.res2 w (aluAndn w.bits)) s
def execAndi (h : Hdr) (w : Width) (zx : Bool) (imm : BitVec 26) (s : State) : Host.Outcome State Fault Refusal :=
  fire (.andi h w zx imm) (fun e => e.res1 w fun x => aluAnd w.bits x (immZ imm zx w.bits)) s
def execOri (h : Hdr) (w : Width) (zx : Bool) (imm : BitVec 26) (s : State) : Host.Outcome State Fault Refusal :=
  fire (.ori h w zx imm) (fun e => e.res1 w fun x => aluOr w.bits x (immZ imm zx w.bits)) s
def execXori (h : Hdr) (w : Width) (zx : Bool) (imm : BitVec 26) (s : State) : Host.Outcome State Fault Refusal :=
  fire (.xori h w zx imm) (fun e => e.res1 w fun x => aluXor w.bits x (immZ imm zx w.bits)) s

/-- A shift: its amount is the immediate, or all 64 bits of port b (R265). -/
def Env.shift (e : Env) (w : Width) (amt : Option (BitVec 6)) (g : Nat → Nat → Nat → Nat) : Eff :=
  match amt with
  | some n => e.res (g w.bits (zextN e.a w.bits) n.toNat) e.pa
  | none => e.res (g w.bits (zextN e.a w.bits) e.b) (e.pa || e.pb)

def execShl (h : Hdr) (w : Width) (amt : Option (BitVec 6)) (s : State) : Host.Outcome State Fault Refusal :=
  fire (.shl h w amt) (fun e => e.shift w amt aluShl) s
def execShr (h : Hdr) (w : Width) (amt : Option (BitVec 6)) (s : State) : Host.Outcome State Fault Refusal :=
  fire (.shr h w amt) (fun e => e.shift w amt aluShr) s
def execSar (h : Hdr) (w : Width) (amt : Option (BitVec 6)) (s : State) : Host.Outcome State Fault Refusal :=
  fire (.sar h w amt) (fun e => e.shift w amt aluSar) s
def execRol (h : Hdr) (w : Width) (amt : Option (BitVec 6)) (s : State) : Host.Outcome State Fault Refusal :=
  fire (.rol h w amt) (fun e => e.shift w amt aluRol) s
def execRor (h : Hdr) (w : Width) (amt : Option (BitVec 6)) (s : State) : Host.Outcome State Fault Refusal :=
  fire (.ror h w amt) (fun e => e.shift w amt aluRor) s
def execClz (h : Hdr) (w : Width) (s : State) : Host.Outcome State Fault Refusal :=
  fire (.clz h w) (fun e => e.res1 w (aluClz w.bits)) s
def execCtz (h : Hdr) (w : Width) (s : State) : Host.Outcome State Fault Refusal :=
  fire (.ctz h w) (fun e => e.res1 w (aluCtz w.bits)) s
def execPopc (h : Hdr) (w : Width) (s : State) : Host.Outcome State Fault Refusal :=
  fire (.popc h w) (fun e => e.res1 w (aluPopc w.bits)) s
def execBfx (h : Hdr) (w : Width) (pos len1 : BitVec 6) (s : State) : Host.Outcome State Fault Refusal :=
  fire (.bfx h w pos len1) (fun e => e.res1 w fun x => aluBfx w.bits x pos.toNat (len1.toNat + 1)) s
def execBfxu (h : Hdr) (w : Width) (pos len1 : BitVec 6) (s : State) : Host.Outcome State Fault Refusal :=
  fire (.bfxu h w pos len1) (fun e => e.res1 w fun x => aluBfxu w.bits x pos.toNat (len1.toNat + 1)) s
def execBfi (h : Hdr) (w : Width) (pos len1 : BitVec 6) (s : State) : Host.Outcome State Fault Refusal :=
  fire (.bfi h w pos len1) (fun e => e.res2 w fun x y => aluBfi w.bits x y pos.toNat (len1.toNat + 1)) s

end Sys2Proof.Machine
end

