-- ==== Sys2Proof/Machine/Dispatch.lean ====
section
/-! DEFINITION. Machine/Dispatch.lean: one arm for each operation, a direct call of its meaning. -/
namespace Sys2Proof.Machine
open Sys2Proof

def exec (i : Instr) (s : State) : Host.Outcome State Fault Refusal :=
  match i with
  | .br p off => Sys2Proof.Machine.execBr p off s
  | .jmp p => Sys2Proof.Machine.execJmp p s
  | .call h off => Sys2Proof.Machine.execCall h off s
  | .callr h => Sys2Proof.Machine.execCallr h s
  | .ret p => Sys2Proof.Machine.execRet p s
  | .done p => Sys2Proof.Machine.execDone p s
  | .yield p => Sys2Proof.Machine.execYield p s
  | .trap p => Sys2Proof.Machine.execTrap p s
  | .null h => Sys2Proof.Machine.execNull h s
  | .mov h w => Sys2Proof.Machine.execMov h w s
  | .movi h w zx imm => Sys2Proof.Machine.execMovi h w zx imm s
  | .movhi h f => Sys2Proof.Machine.execMovhi h f s
  | .sel h w => Sys2Proof.Machine.execSel h w s
  | .baddr h => Sys2Proof.Machine.execBaddr h s
  | .teq h w => Sys2Proof.Machine.execTeq h w s
  | .tne h w => Sys2Proof.Machine.execTne h w s
  | .tlt h w => Sys2Proof.Machine.execTlt h w s
  | .tle h w => Sys2Proof.Machine.execTle h w s
  | .tltu h w => Sys2Proof.Machine.execTltu h w s
  | .tleu h w => Sys2Proof.Machine.execTleu h w s
  | .teqi h w imm => Sys2Proof.Machine.execTeqi h w imm s
  | .tnei h w imm => Sys2Proof.Machine.execTnei h w imm s
  | .tlti h w imm => Sys2Proof.Machine.execTlti h w imm s
  | .tlei h w imm => Sys2Proof.Machine.execTlei h w imm s
  | .tltui h w imm => Sys2Proof.Machine.execTltui h w imm s
  | .tleui h w imm => Sys2Proof.Machine.execTleui h w imm s
  | .tbit h w n => Sys2Proof.Machine.execTbit h w n s
  | .tnz h w mask => Sys2Proof.Machine.execTnz h w mask s
  | .add h w => Sys2Proof.Machine.execAdd h w s
  | .sub h w => Sys2Proof.Machine.execSub h w s
  | .addi h w imm => Sys2Proof.Machine.execAddi h w imm s
  | .adds h w => Sys2Proof.Machine.execAdds h w s
  | .addsu h w => Sys2Proof.Machine.execAddsu h w s
  | .subs h w => Sys2Proof.Machine.execSubs h w s
  | .subsu h w => Sys2Proof.Machine.execSubsu h w s
  | .neg h w sat => Sys2Proof.Machine.execNeg h w sat s
  | .abs h w sat => Sys2Proof.Machine.execAbs h w sat s
  | .min h w => Sys2Proof.Machine.execMin h w s
  | .max h w => Sys2Proof.Machine.execMax h w s
  | .minu h w => Sys2Proof.Machine.execMinu h w s
  | .maxu h w => Sys2Proof.Machine.execMaxu h w s
  | .mul h w => Sys2Proof.Machine.execMul h w s
  | .mulh h w => Sys2Proof.Machine.execMulh h w s
  | .mulhu h w => Sys2Proof.Machine.execMulhu h w s
  | .mulhsu h w => Sys2Proof.Machine.execMulhsu h w s
  | .madd h w => Sys2Proof.Machine.execMadd h w s
  | .div h w => Sys2Proof.Machine.execDiv h w s
  | .divu h w => Sys2Proof.Machine.execDivu h w s
  | .rem h w => Sys2Proof.Machine.execRem h w s
  | .remu h w => Sys2Proof.Machine.execRemu h w s
  | .and h w => Sys2Proof.Machine.execAnd h w s
  | .or h w => Sys2Proof.Machine.execOr h w s
  | .xor h w => Sys2Proof.Machine.execXor h w s
  | .andn h w => Sys2Proof.Machine.execAndn h w s
  | .andi h w zx imm => Sys2Proof.Machine.execAndi h w zx imm s
  | .ori h w zx imm => Sys2Proof.Machine.execOri h w zx imm s
  | .xori h w zx imm => Sys2Proof.Machine.execXori h w zx imm s
  | .shl h w amt => Sys2Proof.Machine.execShl h w amt s
  | .shr h w amt => Sys2Proof.Machine.execShr h w amt s
  | .sar h w amt => Sys2Proof.Machine.execSar h w amt s
  | .rol h w amt => Sys2Proof.Machine.execRol h w amt s
  | .ror h w amt => Sys2Proof.Machine.execRor h w amt s
  | .clz h w => Sys2Proof.Machine.execClz h w s
  | .ctz h w => Sys2Proof.Machine.execCtz h w s
  | .popc h w => Sys2Proof.Machine.execPopc h w s
  | .bfx h w pos len1 => Sys2Proof.Machine.execBfx h w pos len1 s
  | .bfxu h w pos len1 => Sys2Proof.Machine.execBfxu h w pos len1 s
  | .bfi h w pos len1 => Sys2Proof.Machine.execBfi h w pos len1 s
  | .fadd h f m => Sys2Proof.Machine.execFadd h f m s
  | .fsub h f m => Sys2Proof.Machine.execFsub h f m s
  | .fmul h f m => Sys2Proof.Machine.execFmul h f m s
  | .fdiv h f m => Sys2Proof.Machine.execFdiv h f m s
  | .fsqrt h f m => Sys2Proof.Machine.execFsqrt h f m s
  | .fma h f m => Sys2Proof.Machine.execFma h f m s
  | .fmin h f prop => Sys2Proof.Machine.execFmin h f prop s
  | .fmax h f prop => Sys2Proof.Machine.execFmax h f prop s
  | .fsgn h f k => Sys2Proof.Machine.execFsgn h f k s
  | .fcmp h f k => Sys2Proof.Machine.execFcmp h f k s
  | .fclass h f => Sys2Proof.Machine.execFclass h f s
  | .fcvt h => Sys2Proof.Machine.execFcvt h s
  | .ftoi h => Sys2Proof.Machine.execFtoi h s
  | .itof h => Sys2Proof.Machine.execItof h s
  | .ld h w sgn at_ x2 l => Sys2Proof.Machine.execLd h w sgn at_ x2 l s
  | .st h w at_ x2 l => Sys2Proof.Machine.execSt h w at_ x2 l s
  | .ldf h w sgn l => Sys2Proof.Machine.execLdf h w sgn l s
  | .ldfe h w sgn l => Sys2Proof.Machine.execLdfe h w sgn l s
  | .stf h w l => Sys2Proof.Machine.execStf h w l s
  | .aadd h w l => Sys2Proof.Machine.execAadd h w l s
  | .aand h w l => Sys2Proof.Machine.execAand h w l s
  | .aor h w l => Sys2Proof.Machine.execAor h w l s
  | .axor h w l => Sys2Proof.Machine.execAxor h w l s
  | .amin h w l => Sys2Proof.Machine.execAmin h w l s
  | .amax h w l => Sys2Proof.Machine.execAmax h w l s
  | .aminu h w l => Sys2Proof.Machine.execAminu h w l s
  | .amaxu h w l => Sys2Proof.Machine.execAmaxu h w l s
  | .aswap h w l => Sys2Proof.Machine.execAswap h w l s
  | .acas h w l => Sys2Proof.Machine.execAcas h w l s
  | .aadds h w u l => Sys2Proof.Machine.execAadds h w u l s
  | .afadd h f m l => Sys2Proof.Machine.execAfadd h f m l s
  | .afmin h f prop l => Sys2Proof.Machine.execAfmin h f prop l s
  | .afmax h f prop l => Sys2Proof.Machine.execAfmax h f prop l s
  | .fence h seq sc => Sys2Proof.Machine.execFence h seq sc s
  | .cfence h seq => Sys2Proof.Machine.execCfence h seq s
  | .sacq h l => Sys2Proof.Machine.execSacq h l s
  | .sacqt h l => Sys2Proof.Machine.execSacqt h l s
  | .srel h l => Sys2Proof.Machine.execSrel h l s
  | .syncw h l => Sys2Proof.Machine.execSyncw h l s
  | .sbar h seq tsc ring => Sys2Proof.Machine.execSbar h seq tsc ring s
  | .cbar h seq cb => Sys2Proof.Machine.execCbar h seq cb s
  | .send h l => Sys2Proof.Machine.execSend h l s
  | .wake h l => Sys2Proof.Machine.execWake h l s
  | .aaddb h w l => Sys2Proof.Machine.execAaddb h w l s
  | .vld h w l => Sys2Proof.Machine.execVld h w l s
  | .vst h w l => Sys2Proof.Machine.execVst h w l s
  | .vlds h w l => Sys2Proof.Machine.execVlds h w l s
  | .vsts h w l => Sys2Proof.Machine.execVsts h w l s
  | .vgath h w l => Sys2Proof.Machine.execVgath h w l s
  | .vscat h w l => Sys2Proof.Machine.execVscat h w l s
  | .vcst h w l => Sys2Proof.Machine.execVcst h w l s
  | .vmov h w l => Sys2Proof.Machine.execVmov h w l s
  | .vadd h o l => Sys2Proof.Machine.execVadd h o l s
  | .vsub h o l => Sys2Proof.Machine.execVsub h o l s
  | .vmul h o l => Sys2Proof.Machine.execVmul h o l s
  | .vfma h o l => Sys2Proof.Machine.execVfma h o l s
  | .vdiv h o l => Sys2Proof.Machine.execVdiv h o l s
  | .vsqrt h o l => Sys2Proof.Machine.execVsqrt h o l s
  | .vmin h o l => Sys2Proof.Machine.execVmin h o l s
  | .vmax h o l => Sys2Proof.Machine.execVmax h o l s
  | .vabs h o l => Sys2Proof.Machine.execVabs h o l s
  | .vneg h o l => Sys2Proof.Machine.execVneg h o l s
  | .vand h w l => Sys2Proof.Machine.execVand h w l s
  | .vor h w l => Sys2Proof.Machine.execVor h w l s
  | .vxor h w l => Sys2Proof.Machine.execVxor h w l s
  | .vshl h w sc1 l => Sys2Proof.Machine.execVshl h w sc1 l s
  | .vshr h w sc1 l => Sys2Proof.Machine.execVshr h w sc1 l s
  | .vsar h w sc1 l => Sys2Proof.Machine.execVsar h w sc1 l s
  | .vcvt h l => Sys2Proof.Machine.execVcvt h l s
  | .vcmp h o l => Sys2Proof.Machine.execVcmp h o l s
  | .vmask h w k l => Sys2Proof.Machine.execVmask h w k l s
  | .vsel h w l => Sys2Proof.Machine.execVsel h w l s
  | .vred h o l => Sys2Proof.Machine.execVred h o l s
  | .vscan h o l => Sys2Proof.Machine.execVscan h o l s
  | .vperm h w two l => Sys2Proof.Machine.execVperm h w two l s
  | .vbcast h w lane l => Sys2Proof.Machine.execVbcast h w lane l s
  | .vext h w l => Sys2Proof.Machine.execVext h w l s
  | .vins h w l => Sys2Proof.Machine.execVins h w l s
  | .vexp h o l => Sys2Proof.Machine.execVexp h o l s
  | .vlog h o l => Sys2Proof.Machine.execVlog h o l s
  | .vrsq h o l => Sys2Proof.Machine.execVrsq h o l s
  | .vtanh h o l => Sys2Proof.Machine.execVtanh h o l s
  | .vbms h o l => Sys2Proof.Machine.execVbms h o l s
  | .vsrch h o l => Sys2Proof.Machine.execVsrch h o l s
  | .mclaim h seq ot exp => Sys2Proof.Machine.execMclaim h seq ot exp s
  | .mrel h seq ot => Sys2Proof.Machine.execMrel h seq ot s
  | .mclr h seq at_ lf => Sys2Proof.Machine.execMclr h seq at_ lf s
  | .mma h l => Sys2Proof.Machine.execMma h l s
  | .mmasp h l om => Sys2Proof.Machine.execMmasp h l om s
  | .mmsc h l os => Sys2Proof.Machine.execMmsc h l os s
  | .mscl h seq at_ by_ => Sys2Proof.Machine.execMscl h seq at_ by_ s
  | .mcomb h seq atd ats op => Sys2Proof.Machine.execMcomb h seq atd ats op s
  | .mdrn h l => Sys2Proof.Machine.execMdrn h l s
  | .mdrnt h l => Sys2Proof.Machine.execMdrnt h l s
  | .mtrn h seq at_ => Sys2Proof.Machine.execMtrn h seq at_ s
  | .mcvt h seq at_ toA40 mode => Sys2Proof.Machine.execMcvt h seq at_ toA40 mode s
  | .macc h seq at_ ot f => Sys2Proof.Machine.execMacc h seq at_ ot f s
  | .mstat h seq => Sys2Proof.Machine.execMstat h seq s
  | .xcpy h seq => Sys2Proof.Machine.execXcpy h seq s
  | .xc2d h seq sp dp => Sys2Proof.Machine.execXc2d h seq sp dp s
  | .xgath h seq cntm1 => Sys2Proof.Machine.execXgath h seq cntm1 s
  | .xscat h seq cntm1 => Sys2Proof.Machine.execXscat h seq cntm1 s
  | .xfill h seq => Sys2Proof.Machine.execXfill h seq s
  | .xarr h seq ring => Sys2Proof.Machine.execXarr h seq ring s
  | .xqry h seq => Sys2Proof.Machine.execXqry h seq s
  | .cpost h seq tsc cp => Sys2Proof.Machine.execCpost h seq tsc cp s
  | .cwait h seq cp => Sys2Proof.Machine.execCwait h seq cp s
  | .cwaitChk h seq cp => Sys2Proof.Machine.execCwaitChk h seq cp s
  | .cpoll h seq cp => Sys2Proof.Machine.execCpoll h seq cp s
  | .cabrt h seq tsc cp => Sys2Proof.Machine.execCabrt h seq tsc cp s
  | .drun h => Sys2Proof.Machine.execDrun h s
  | .drunRel h => Sys2Proof.Machine.execDrunRel h s
  | .drunRes h => Sys2Proof.Machine.execDrunRes h s
  | .drunResp h => Sys2Proof.Machine.execDrunResp h s
  | .dstop h => Sys2Proof.Machine.execDstop h s
  | .dstopEnd h => Sys2Proof.Machine.execDstopEnd h s
  | .dpos h => Sys2Proof.Machine.execDpos h s
  | .dposElap h => Sys2Proof.Machine.execDposElap h s
  | .dposT0 h => Sys2Proof.Machine.execDposT0 h s
  | .csrr h csr => Sys2Proof.Machine.execCsrr h csr s
  | .csrw h csr => Sys2Proof.Machine.execCsrw h csr s
  | .csrs h csr => Sys2Proof.Machine.execCsrs h csr s
  | .csrc h csr => Sys2Proof.Machine.execCsrc h csr s
  | .csrx h csr => Sys2Proof.Machine.execCsrx h csr s
  | .scall h svc => Sys2Proof.Machine.execScall h svc s
  | .sret h => Sys2Proof.Machine.execSret h s
  | .brk h code => Sys2Proof.Machine.execBrk h code s
  | .xtrig h => Sys2Proof.Machine.execXtrig h s
  | .tbind h => Sys2Proof.Machine.execTbind h s
  | .tbindGen h => Sys2Proof.Machine.execTbindGen h s
  | .bcinv h => Sys2Proof.Machine.execBcinv h s
  | .bcinvLine h => Sys2Proof.Machine.execBcinvLine h s
  | .wfm h => Sys2Proof.Machine.execWfm h s
  | .dact delta bank row rinc => Sys2Proof.Machine.execDact delta bank row rinc s
  | .drd delta bank col t step cinc => Sys2Proof.Machine.execDrd delta bank col t step cinc s
  | .dwr delta bank col t step cinc => Sys2Proof.Machine.execDwr delta bank col t step cinc s
  | .dpre delta bank => Sys2Proof.Machine.execDpre delta bank s
  | .dprea delta => Sys2Proof.Machine.execDprea delta s
  | .drefa delta th => Sys2Proof.Machine.execDrefa delta th s
  | .drefb delta bank th => Sys2Proof.Machine.execDrefb delta bank th s
  | .dwait delta count => Sys2Proof.Machine.execDwait delta count s
  | .dchk delta kind index ginc value => Sys2Proof.Machine.execDchk delta kind index ginc value s
  | .dsig delta sem index amount => Sys2Proof.Machine.execDsig delta sem index amount s
  | .drpt delta back count => Sys2Proof.Machine.execDrpt delta back count s
  | .dend delta => Sys2Proof.Machine.execDend delta s
  | .blockEntry cell x => Sys2Proof.Machine.execBlockEntry cell x s
  | .blockCommit cell x => Sys2Proof.Machine.execBlockCommit cell x s
  | .slotExpiry cell x slot => Sys2Proof.Machine.execSlotExpiry cell x slot s
  | .storeQueueLeave cell x => Sys2Proof.Machine.execStoreQueueLeave cell x s
  | .remoteLoadIssue cell x => Sys2Proof.Machine.execRemoteLoadIssue cell x s
  | .homeAccess n => Sys2Proof.Machine.execHomeAccess n s
  | .loadResponse n => Sys2Proof.Machine.execLoadResponse n s
  | .lateDropStop cell x => Sys2Proof.Machine.execLateDropStop cell x s
  | .fullEmptyRelease unit => Sys2Proof.Machine.execFullEmptyRelease unit s
  | .ringArrival who ring => Sys2Proof.Machine.execRingArrival who ring s
  | .ringRotation ring => Sys2Proof.Machine.execRingRotation ring s
  | .ringHoldRelease n => Sys2Proof.Machine.execRingHoldRelease n s
  | .semaphoreAcquireServe cell q => Sys2Proof.Machine.execSemaphoreAcquireServe cell q s
  | .syncWordArrival n => Sys2Proof.Machine.execSyncWordArrival n s
  | .syncwRelease unit => Sys2Proof.Machine.execSyncwRelease unit s
  | .clusterBarrierComplete cluster n => Sys2Proof.Machine.execClusterBarrierComplete cluster n s
  | .messageDelivery n => Sys2Proof.Machine.execMessageDelivery n s
  | .messageDispatch cell x => Sys2Proof.Machine.execMessageDispatch cell x s
  | .wfmWake cell x => Sys2Proof.Machine.execWfmWake cell x s
  | .resultLanding cell x n => Sys2Proof.Machine.execResultLanding cell x n s
  | .txeAccept cell => Sys2Proof.Machine.execTxeAccept cell s
  | .txePieceIssue cell => Sys2Proof.Machine.execTxePieceIssue cell s
  | .txeComplete cell n => Sys2Proof.Machine.execTxeComplete cell n s
  | .vxeCommandStart cell => Sys2Proof.Machine.execVxeCommandStart cell s
  | .vxeCommandComplete cell => Sys2Proof.Machine.execVxeCommandComplete cell s
  | .mxeCommandStart cell => Sys2Proof.Machine.execMxeCommandStart cell s
  | .accumulatorWriteDone cell => Sys2Proof.Machine.execAccumulatorWriteDone cell s
  | .drainComplete cell n => Sys2Proof.Machine.execDrainComplete cell n s
  | .engineReportStop cell x => Sys2Proof.Machine.execEngineReportStop cell x s
  | .progressFault cell x => Sys2Proof.Machine.execProgressFault cell x s
  | .drunAccept cell => Sys2Proof.Machine.execDrunAccept cell s
  | .programStart cell => Sys2Proof.Machine.execProgramStart cell s
  | .resumePreamble cell => Sys2Proof.Machine.execResumePreamble cell s
  | .dstopEffect cell => Sys2Proof.Machine.execDstopEffect cell s
  | .seqFetch cell => Sys2Proof.Machine.execSeqFetch cell s
  | .vaultDelivery cell => Sys2Proof.Machine.execVaultDelivery cell s
  | .dwrStaging cell => Sys2Proof.Machine.execDwrStaging cell s
  | .faultPrecharge cell => Sys2Proof.Machine.execFaultPrecharge cell s
  | .refreshTick cell => Sys2Proof.Machine.execRefreshTick cell s
  | .guardRefresh cell => Sys2Proof.Machine.execGuardRefresh cell s
  | .refreshClassFall field => Sys2Proof.Machine.execRefreshClassFall field s
  | .untimedAccess cell => Sys2Proof.Machine.execUntimedAccess cell s
  | .rowRemap cell bank row => Sys2Proof.Machine.execRowRemap cell bank row s
  | .cacheFill field slice => Sys2Proof.Machine.execCacheFill field slice s
  | .cacheFlush field slice => Sys2Proof.Machine.execCacheFlush field slice s
  | .treeinjPush cell x => Sys2Proof.Machine.execTreeinjPush cell x s
  | .treeextPop cell x => Sys2Proof.Machine.execTreeextPop cell x s
  | .treestatRead cell => Sys2Proof.Machine.execTreestatRead cell s
  | .treeNodeCombine level node chan => Sys2Proof.Machine.execTreeNodeCombine level node chan s
  | .treeExtractValid n => Sys2Proof.Machine.execTreeExtractValid n s
  | .collectivePostAccept cell x => Sys2Proof.Machine.execCollectivePostAccept cell x s
  | .collectiveRoundStart g inst => Sys2Proof.Machine.execCollectiveRoundStart g inst s
  | .bucketStep g inst recv => Sys2Proof.Machine.execBucketStep g inst recv s
  | .collectivePostFinish g inst => Sys2Proof.Machine.execCollectivePostFinish g inst s
  | .cwaitRelease cell x => Sys2Proof.Machine.execCwaitRelease cell x s
  | .abortMarker g inst round link => Sys2Proof.Machine.execAbortMarker g inst round link s
  | .linkFrameReceive g f => Sys2Proof.Machine.execLinkFrameReceive g f s
  | .linkWake g peer => Sys2Proof.Machine.execLinkWake g peer s
  | .wavelengthReady g lam => Sys2Proof.Machine.execWavelengthReady g lam s
  | .wakeTimeout g => Sys2Proof.Machine.execWakeTimeout g s
  | .linkPark g mask => Sys2Proof.Machine.execLinkPark g mask s
  | .hostMemAccess a => Sys2Proof.Machine.execHostMemAccess a s
  | .launchPosting rec => Sys2Proof.Machine.execLaunchPosting rec s
  | .launchDispatch rec => Sys2Proof.Machine.execLaunchDispatch rec s
  | .timedDispatch rec placeable => Sys2Proof.Machine.execTimedDispatch rec placeable s
  | .launchCancel rec => Sys2Proof.Machine.execLaunchCancel rec s
  | .launchKill rec => Sys2Proof.Machine.execLaunchKill rec s
  | .launchBinding rec p => Sys2Proof.Machine.execLaunchBinding rec p s
  | .completionToken rec => Sys2Proof.Machine.execCompletionToken rec s
  | .nodeAdoption rec deadCell acell actx node am abase => Sys2Proof.Machine.execNodeAdoption rec deadCell acell actx node am abase s
  | .fwload floor => Sys2Proof.Machine.execFwload floor s
  | .getid => Sys2Proof.Machine.execGetid s
  | .attest => Sys2Proof.Machine.execAttest s
  | .dumpbuf => Sys2Proof.Machine.execDumpbuf s
  | .halt => Sys2Proof.Machine.execHalt s
  | .telem => Sys2Proof.Machine.execTelem s
  | .grant approve => Sys2Proof.Machine.execGrant approve s
  | .syscfg => Sys2Proof.Machine.execSyscfg s
  | .herrRead => Sys2Proof.Machine.execHerrRead s
  | .hdropRead cell => Sys2Proof.Machine.execHdropRead cell s
  | .sterrClear cell x => Sys2Proof.Machine.execSterrClear cell x s
  | .vxstatClear cell x => Sys2Proof.Machine.execVxstatClear cell x s
  | .mxstatClear cell x => Sys2Proof.Machine.execMxstatClear cell x s
  | .txstatClear cell x => Sys2Proof.Machine.execTxstatClear cell x s
  | .semovfClear cell mask => Sys2Proof.Machine.execSemovfClear cell mask s
  | .srseedWrite cell x v => Sys2Proof.Machine.execSrseedWrite cell x v s
  | .registerWrite r v => Sys2Proof.Machine.execRegisterWrite r v s
  | .atsMiss pasid page entry => Sys2Proof.Machine.execAtsMiss pasid page entry s
  | .atsInvalidation pasid page => Sys2Proof.Machine.execAtsInvalidation pasid page s
  | .stopReport cell x handled => Sys2Proof.Machine.execStopReport cell x handled s
  | .resume cell x => Sys2Proof.Machine.execResume cell x s
  | .redirect cell x addr => Sys2Proof.Machine.execRedirect cell x addr s
  | .setslot cell x slot v life => Sys2Proof.Machine.execSetslot cell x slot v life s
  | .endh cell x => Sys2Proof.Machine.execEndh cell x s
  | .mode cell x sup => Sys2Proof.Machine.execMode cell x sup s
  | .clrstat cell x => Sys2Proof.Machine.execClrstat cell x s
  | .hwFatalFault cell unit => Sys2Proof.Machine.execHwFatalFault cell unit s
  | .fatalDump rec manager => Sys2Proof.Machine.execFatalDump rec manager s
  | .supervisorRecovery => Sys2Proof.Machine.execSupervisorRecovery s
  | .bankErrorEvent b key correctable => Sys2Proof.Machine.execBankErrorEvent b key correctable s
  | .bankRetirement b => Sys2Proof.Machine.execBankRetirement b s
  | .cellRetirement cell => Sys2Proof.Machine.execCellRetirement cell s
  | .preemption sx0 sy0 sx1 sy1 => Sys2Proof.Machine.execPreemption sx0 sy0 sx1 sy1 s
  | .snapshotRestore rec cells => Sys2Proof.Machine.execSnapshotRestore rec cells s
  | .configSegmentLoad cell load seg discard regs data => Sys2Proof.Machine.execConfigSegmentLoad cell load seg discard regs data s
  | .haltSignal sig cells => Sys2Proof.Machine.execHaltSignal sig cells s
  | .haltRelease groups cells => Sys2Proof.Machine.execHaltRelease groups cells s
  | .rebinding ents moves => Sys2Proof.Machine.execRebinding ents moves s
  | .flitMisroute n => Sys2Proof.Machine.execFlitMisroute n s
  | .saffronControlPeriod fields fvf pwctl duty => Sys2Proof.Machine.execSaffronControlPeriod fields fvf pwctl duty s
  | .operatingPointChange field volt freq => Sys2Proof.Machine.execOperatingPointChange field volt freq s
  | .sensorSample field rec raw => Sys2Proof.Machine.execSensorSample field rec raw s
  | .thermalTrip field => Sys2Proof.Machine.execThermalTrip field s
  | .tripClear field => Sys2Proof.Machine.execTripClear field s
  | .waferReset => Sys2Proof.Machine.execWaferReset s
  | .bootProgress found => Sys2Proof.Machine.execBootProgress found s
  | .coreCycle field => Sys2Proof.Machine.execCoreCycle field s
  | .vaultClock => Sys2Proof.Machine.execVaultClock s
  | .powerOnReset => Sys2Proof.Machine.execPowerOnReset s
  | .mailboxOverrun payload => Sys2Proof.Machine.execMailboxOverrun payload s
  | .unknownMailboxCommand => Sys2Proof.Machine.execUnknownMailboxCommand s
  | .sensorSuspectClear field rec => Sys2Proof.Machine.execSensorSuspectClear field rec s
  | .voltageSettled field => Sys2Proof.Machine.execVoltageSettled field s
  | .vaultInterfaceFailure cell => Sys2Proof.Machine.execVaultInterfaceFailure cell s
  | .treeRepair lat => Sys2Proof.Machine.execTreeRepair lat s
  | .meshRouteRepair cell => Sys2Proof.Machine.execMeshRouteRepair cell s

end Sys2Proof.Machine
end

