-- ==== Sys2Proof/Machine/Units.lean ====
section
/-! DEFINITION. Machine/Units.lean: the units an event names, checked against what the part has (R14, R15). -/
namespace Sys2Proof.Machine
open Sys2Proof

def isCell (k : Nat) : Bool := decide (k < Config.nCells)
def isCtx (k x : Nat) : Bool := isCell k && decide (x < 4)
def isCluster (k : Nat) : Bool := decide (k < Config.nClusters)
def isField (k : Nat) : Bool := decide (k < Config.nFields)
def isGate (k : Nat) : Bool := decide (k < 8)

/-- A ring of Table 3-4. -/
def isRing : RingRef → Bool
  | .cluster k n => isCluster k && decide (n < 16)
  | .tcm c n => isCell c && decide (n < 4)
def isAgent : RingAgent → Bool
  | .ctx c x => isCtx c x
  | .seq c => isCell c
  | .txe c => isCell c
/-- A bank of R421. -/
def isBank : BankRef → Bool
  | .tcm c b => isCell c && decide (b < 16)
  | .csp k b => isCluster k && decide (b < 32)
  | .fsram f s b => isField f && decide (s < 80 ∧ b < 20)
  | .opm c b => isCell c && decide (b < 16)
  | .acm c b => isCell c && decide (b < 24)
  | .vault c b => isCell c && decide (b < 8)
/-- A register of R5. -/
def isReg : RegRef → Bool
  | .ctxCsr c x _ => isCtx c x
  | .cellCsr c _ => isCell c
  | .cellCfg c => isCell c
  | .codeRgn c => isCell c
  | .htab c i => isCell c && decide (i < 256)
  | .ahtab c i => isCell c && decide (i < 256)
  | .treech c n => isCell c && decide (n < 32)
  | .vrmap c b i => isCell c && decide (b < 8 ∧ i < 128)
  | .fsslc f s => isField f && decide (s < 80)
  | .fcb f n => isField f && decide (n < 8)
  | .fvf f => isField f
  | .pwctl f => isField f
  | .ebcap f => isField f
  | .duty f => isField f
  | .ftab i => decide (i < 128)
  | .ctab f i => isField f && decide (i < 16)
  | .ltab k i => isCluster k && decide (i < 16)
  | .atab k a i => isCluster k && decide (a < 2 ∧ i < 32)
  | .anmask l n c => decide (c < 32 ∧ l < 4) && (match l with
      | 0 => isCluster n
      | 1 => isField n
      | 2 => isGate n
      | _ => n == 0)
  | .anpad => true
  | .slkcfg g => isGate g
  | .slkpark g => isGate g
  | .pgrant h => decide (h < 16)
  | .hwin n => decide (n < 8)
  | .mbctl => true
  | .mbstat => true

/-- The units that an event names exist. -/
def unitsOk : Instr → Bool
  | .blockEntry c x => isCtx c x
  | .blockCommit c x => isCtx c x
  | .slotExpiry c x n => isCtx c x && decide (n < 64)
  | .storeQueueLeave c x => isCtx c x
  | .remoteLoadIssue c x => isCtx c x
  | .lateDropStop c x => isCtx c x
  | .ringArrival a r => isAgent a && isRing r
  | .ringRotation r => isRing r
  | .semaphoreAcquireServe c q => isCell c && decide (q < 64)
  | .clusterBarrierComplete k n => isCluster k && decide (n < 8)
  | .messageDispatch c x => isCtx c x
  | .wfmWake c x => isCtx c x
  | .resultLanding c x _ => isCtx c x
  | .txeAccept c => isCell c
  | .txePieceIssue c => isCell c
  | .txeComplete c _ => isCell c
  | .vxeCommandStart c => isCell c
  | .vxeCommandComplete c => isCell c
  | .mxeCommandStart c => isCell c
  | .accumulatorWriteDone c => isCell c
  | .drainComplete c _ => isCell c
  | .engineReportStop c x => isCtx c x
  | .progressFault c x => isCtx c x
  | .drunAccept c => isCell c
  | .programStart c => isCell c
  | .resumePreamble c => isCell c
  | .dstopEffect c => isCell c
  | .seqFetch c => isCell c
  | .vaultDelivery c => isCell c
  | .dwrStaging c => isCell c
  | .faultPrecharge c => isCell c
  | .refreshTick c => isCell c
  | .guardRefresh c => isCell c
  | .refreshClassFall f => isField f
  | .untimedAccess c => isCell c
  | .rowRemap c b _ => isCell c && decide (b < 8)
  | .cacheFill f sl => isField f && decide (sl < 80)
  | .cacheFlush f sl => isField f && decide (sl < 80)
  | .treeinjPush c x => isCtx c x
  | .treeextPop c x => isCtx c x
  | .treestatRead c => isCell c
  | .collectivePostAccept c x => isCtx c x
  | .collectiveRoundStart g _ => isGate g
  | .bucketStep g _ _ => isGate g
  | .collectivePostFinish g _ => isGate g
  | .cwaitRelease c x => isCtx c x
  | .abortMarker g _ _ _ => isGate g
  | .linkFrameReceive g _ => isGate g
  | .linkWake g _ => isGate g
  | .wavelengthReady g _ => isGate g
  | .wakeTimeout g => isGate g
  | .linkPark g _ => isGate g
  | .nodeAdoption _ d a x _ _ _ => isCell d && isCtx a x
  | .hdropRead c => isCell c
  | .sterrClear c x => isCtx c x
  | .vxstatClear c x => isCtx c x
  | .mxstatClear c x => isCtx c x
  | .txstatClear c x => isCtx c x
  | .semovfClear c _ => isCell c
  | .srseedWrite c x _ => isCtx c x
  | .registerWrite r _ => isReg r
  | .stopReport c x _ => isCtx c x
  | .resume c x => isCtx c x
  | .redirect c x _ => isCtx c x
  | .setslot c x n _ _ => isCtx c x && decide (n < 64)
  | .endh c x => isCtx c x
  | .mode c x _ => isCtx c x
  | .clrstat c x => isCtx c x
  | .hwFatalFault c _ => isCell c
  | .bankErrorEvent b _ _ => isBank b
  | .bankRetirement b => isBank b
  | .cellRetirement c => isCell c
  | .snapshotRestore _ cs => cs.all fun e => isCell e.1 && isCell e.2
  | .configSegmentLoad c _ _ _ rs _ => isCell c && rs.all fun e => isReg e.1
  | .haltSignal _ cs => cs.all isCell
  | .haltRelease _ cs => cs.all isCell
  | .rebinding es _ => es.all fun e => isReg e.1
  | .saffronControlPeriod fs _ _ _ => fs.all isField
  | .operatingPointChange f _ _ => isField f
  | .sensorSample f i _ => isField f && decide (i < 32)
  | .thermalTrip f => isField f
  | .tripClear f => isField f
  | .bootProgress rs => (rs.getD []).all fun r => isCell r.1 && decide (r.2.1 < 8 ∧ r.2.2 < 5184)
  | .coreCycle f => isField f
  | .sensorSuspectClear f i => isField f && decide (i < 32)
  | .voltageSettled f => isField f
  | .vaultInterfaceFailure c => isCell c
  | .meshRouteRepair c => isCell c
  | .launchBinding _ p =>
      p.fields.all (fun e => isField e.2) && p.clusters.all (fun e => isCluster e.2.2) && p.cells.all fun e => isCell e.2.2
  | _ => true

end Sys2Proof.Machine
end

