-- ==== Sys2Proof/Machine/Step.lean ====
section
/-! DEFINITION. Machine/Step.lean: one step of the machine: the next move of the agenda, or, when none is listed, the one
that is due (log 3).  A `fire` move decodes the word of an instruction in flight and runs it when its turn to issue has come (R197,
R452); an `entry` move runs the entry that a vault sequencer holds next; an event runs as it stands. -/
namespace Sys2Proof.Machine
open Sys2Proof

/-- The entry a sequencer holds next (R108). -/
def State.entryAt (s : State) (cell : Nat) : Option Instr := ((s.cellAt cell).seq.fetched.head?).map fun f => f.entry

/-- Run the move m from a state whose agenda it has left. -/
def runMove (m : Move) (s : State) : Host.Outcome State Fault Refusal :=
  match m with
  | .event i => if i.isBlock || i.isVault then .refused .noInstruction else if unitsOk i then exec i s else .fault .noSuchUnit
  | .fire cell x pos idx =>
      if isCtx cell x then
        match s.instrAt cell x pos idx with
        | some i => if s.mayFire cell x pos idx then exec i { s with cur := { cell := cell, x := x, pos := pos, idx := idx } } else .next s
        | none => .refused .noInstruction
      else .fault .noSuchUnit
  | .entry cell =>
      if isCell cell then
        match s.entryAt cell with
        | some i => exec i { s with cur := { cell := cell } }
        | none => .refused .noInstruction
      else .fault .noSuchUnit

/-- One step. -/
def step (s : State) : Host.Outcome State Fault Refusal :=
  match s.agenda with
  | [] => (match s.idleMove with
      | .issue cell x pos idx => runMove (.fire cell x pos idx) s
      | .cycle f => execCoreCycle f s
      | .clock => exec .vaultClock s)
  | m :: t => runMove m { s with agenda := t }

/-- A port at which a token of value 0 has arrived from one producer. -/
def zeroPort : PortSt := { prod := 1, tok := some {} }

/-- `s` with an instruction word in flight as the one instruction of a block of context 0 of cell 0, its operands
there, its field's energy bucket full (R450), and the next move its firing. -/
def State.withWord (s : State) (w : Word) : State :=
  let n : InstSt := { word := w, a := zeroPort, b := zeroPort, p := zeroPort, hi := zeroPort, w1 := zeroPort, w2 := zeroPort,
                      w3 := zeroPort, c := (match (decodeRaw w).toOption.bind infoOf with
                        | some f => if f.pc == .operand then zeroPort else {}
                        | none => {}) }
  let b : Block := { id := s.fresh, addr := 0x2000000000000000, sup := true, insts := [n] }
  let s := (s.onCtx 0 0 fun c => { c with flight := [b], stopped := false }).onField 0 fun f => { f with ebbal := 16 * f.ebcap.toNat }
  { s.onCell 0 fun k => { k with halted := 0, issCtx := some 0, issN := 0, issAt := 0 } with
    agenda := .fire 0 0 0 0 :: s.agenda }

/-- `s` with the instruction word `w` placed where the next step takes its instruction from. -/
def State.withFetchWord (s : State) (_nbits w : Nat) : State := s.withWord (BitVec.ofNat 64 w)

end Sys2Proof.Machine
end

