-- ==== Sys2Proof/Safety.lean ====
section
/-! DEFINITION. Safety.lean: the words that claims use: the canonical form of memory, when an instruction of a block
fires and what the state is after a firing, which instructions act only inside their block. -/
namespace Sys2Proof.Machine
open Sys2Proof

/-- Memory keeps its canonical form. -/
def State.Canon (s : State) : Prop := s.mem.wf = true

/-- The instruction under way may fire (R197, R225): it waits in a block in flight, its operands and predicate have come by
the present core cycle and select it, the issue slot of its cell takes it, and no handle stands where a value is wanted or the reverse (R168). -/
structure CanFire (s : State) (i : Instr) (e : Env) : Prop where
  env : s.envOf i = some e
  go : readiness e.f (e.n.by e.now) = .go
  slot : s.canIssue e.cell e.x = true
  ports : e.badPort = none

/-- The state after a firing whose whole effect is inside its block: the issue counted, the outcome in the block. -/
def State.fired (s : State) (e : Env) (r : Eff) : State := (s.onCell e.cell fun k => k.issued e.x e.num).put e r

/-- Whenever it may fire, the instruction answers the next state in which it has fired with the effect `r`. -/
def Fires (i : Instr) (r : Env → Eff) : Prop := ∀ s e, CanFire s i e → exec i s = .next (s.fired e (r e))

/-- The result of an instruction on both its targets: a 64-bit value and its poison, that of the predicate included. -/
def Env.value (e : Env) (v : Word) (poi : Bool) : Eff :=
  { outA := .tok { v := v, poi := poi || e.pp }, outB := .tok { v := v, poi := poi || e.pp } }

/-- The operand at port a or b at a width: read unsigned, and read signed (R233). -/
def Env.ua (e : Env) (w : Width) : Int := (e.tok .a).v.toNat % 2 ^ w.bits
def Env.ub (e : Env) (w : Width) : Int := (e.tok .b).v.toNat % 2 ^ w.bits
def Env.sa (e : Env) (w : Width) : Int := ((e.tok .a).v.setWidth w.bits).toInt
def Env.sb (e : Env) (w : Width) : Int := ((e.tok .b).v.setWidth w.bits).toInt
/-- The low bits of an integer at a width, as a 64-bit value (R233). -/
def low (w : Width) (z : Int) : Word := BitVec.ofNat 64 (z % 2 ^ w.bits).toNat
/-- Saturation to the signed and the unsigned range of a width (R233). -/
def clampS (w : Width) (z : Int) : Int :=
  if z < -2 ^ (w.bits - 1) then -2 ^ (w.bits - 1) else if 2 ^ (w.bits - 1) ≤ z then 2 ^ (w.bits - 1) - 1 else z
def clampU (w : Width) (z : Int) : Int := if z < 0 then 0 else if 2 ^ w.bits ≤ z then 2 ^ w.bits - 1 else z
/-- Truth as a token value (R259). -/
def truth (b : Bool) : Word := if b then 1 else 0
/-- A result computed from port a, and one from ports a and b, with the poison of what it read (R232). -/
def Env.of1 (e : Env) (v : Word) : Eff := e.value v (e.tok .a).poi
def Env.of2 (e : Env) (v : Word) : Eff := e.value v ((e.tok .a).poi || (e.tok .b).poi)

/-- The amount of a shift, all 64 bits of port b or the immediate, and whether its poison counts (R265). -/
def Env.shiftBy (e : Env) : Option (BitVec 6) → Nat
  | some n => n.toNat
  | none => (e.tok .b).v.toNat
def Env.shifted (e : Env) (amt : Option (BitVec 6)) (v : Word) : Eff :=
  e.value v ((e.tok .a).poi || (amt.isNone && (e.tok .b).poi))
/-- The operand at port a at a width, as a bit vector. -/
def Env.xa (e : Env) (w : Width) : BitVec w.bits := (e.tok .a).v.setWidth w.bits
/-- An immediate at a width: sign- or zero-extended, then reduced (R256, R264). -/
def immAt (zx : Bool) (imm : BitVec 26) (w : Width) : Word :=
  ((if zx then imm.setWidth 64 else imm.signExtend 64).setWidth w.bits).setWidth 64
/-- An exit taken to an address, with its poison (R226). -/
def exitAt (v : Word) (poi : Bool) : Eff := { exit := some (.addr { v := v, poi := poi }) }

/-- A float result on both targets, its flags to FCSR at the commit (R280). -/
def Env.flagged (e : Env) (r : Nat × Flags) (poi : Bool) : Eff := { e.value (BitVec.ofNat 64 r.1) poi with acts := [.flags r.2] }
/-- The value of a port read in a float format (R271). -/
def Env.fv (e : Env) (F : Fmt) (q : PortId) : Fv := F.value (e.tok q).v.toNat
/-- The NaN rows of Table 12-10: a signalling NaN gives the canonical NaN with NV, a quiet one gives it without a flag. -/
def NanRows (F : Fmt) (xs : List Fv) (r : Nat × Flags) : Prop :=
  (xs.any Fv.isSnan = true → r = (F.cnan, fNV)) ∧
  (xs.any Fv.isSnan = false → xs.any Fv.isNan = true → r = (F.cnan, 0))
/-- Table 12-10 for a sum of two values that are no NaN, and the one rounding where no row applies (R284). -/
def SumRows (F : Fmt) (M : RMode) (d : Nat) (x y : Fv) (r : Nat × Flags) : Prop :=
  (∀ s, x = .inf s → y = .inf s → r = (F.infOf s, 0)) ∧
  (∀ s, x = .inf s → y = .inf (!s) → r = (F.cnan, fNV)) ∧
  (∀ s t n q, x = .inf s → y = .fin t n q → r = (F.infOf s, 0)) ∧
  (∀ s t n q, x = .fin t n q → y = .inf s → r = (F.infOf s, 0)) ∧
  (∀ s n e t k q, x = .fin s n e → y = .fin t k q →
    let v := sgnInt s n * 2 ^ (e - min e q).toNat + sgnInt t k * 2 ^ (q - min e q).toNat
    (v = 0 → r = (F.pack (if n = 0 ∧ k = 0 ∧ s = t then s else M == .rdn) 0, 0)) ∧
    (v ≠ 0 → r = F.roundFin M d (decide (v < 0)) v.natAbs (min e q)))
/-- Which of two values that are no NaN is less, −0 counting as less than +0 (R285). -/
def Fv.less (x y : Fv) : Bool := fvCmp x y < 0 || (fvCmp x y == 0 && x.sign && !y.sign)

/-- The state after a firing that gives its operation a done token, when TSC names a scope (R168): the token is made,
emitted at once for an operation already performed, and goes to TA as a handle; `act` is what else happens. -/
def State.firedTok (s : State) (e : Env) (emitted : Bool) (act : Option (Nat × Scope) → State → State)
    (g : Option (Nat × Scope) → Sent → Eff) : State :=
  let u := s.onCell e.cell fun k => k.issued e.x e.num
  if e.f.tsc = .none then (act none u).put e (g none .null)
  else
    let v := if emitted then u.newTok.2.emit u.fresh else u.newTok.2
    (act (some (u.fresh, e.f.tsc)) v).put e (g (some (u.fresh, e.f.tsc)) (.tok { v := 0, hnd := some u.fresh }))

/-- Whenever it may fire and its address is `acc`, an instruction answers: the fault of its address; the space or bound fault
of a location closed to it (an MMIO offset it may not name, a user code region it would write, R48, R60); else the
firing that queues its command for the commit (R164). -/
def QueuesAt (i : Instr) (acc : Env → Except (Cause × Word) (Word × Route)) (n : Nat) (mmioOk : Nat → Bool) (writes : Bool) :
    Prop :=
  ∀ s e, CanFire s i e →
    (∀ c v, acc e = .error (c, v) → exec i s = .next (s.fired e (effFault c v))) ∧
    (∀ ea rt, acc e = .ok (ea, rt) →
      ((∃ o, rt = .mmio o ∧ mmioOk o = false) ∨ (∃ p, rt = .here p ∧ writes = true ∧ e.s.codeWrite p n e.blk.sup = true) ∨
        (∃ p k t, rt = .split p k t ∧ writes = true ∧ e.s.codeWrite p k e.blk.sup = true)) →
      exec i s = .next (s.fired e (effFault cSpace ea))) ∧
    (∀ ea rt, acc e = .ok (ea, rt) → (∀ o, rt = .mmio o → mmioOk o = true) →
      (∀ p, rt = .here p → writes = true → e.s.codeWrite p n e.blk.sup = false) →
      (∀ p k t, rt = .split p k t → writes = true → e.s.codeWrite p k e.blk.sup = false) →
      exec i s = .next (s.firedTok e false (fun _ u => u) fun tk h =>
        { outA := h, acts := [.queue { e.cmd i with ea := ea, route := rt, len := n, tok := tk, slots := e.f.slotTargets }] }))
/-- An atomic of a width queues at its base plus DISP, aligned to the width and outside the MMIO window (R299). -/
def QueuesAtomic (i : Instr) (a : LayA) (n : Nat) : Prop :=
  QueuesAt i (fun e => e.accessMem (e.tok .a) a.disp.toInt n true) n (fun _ => false) true
/-- Whenever it may fire and `ok` holds, an instruction queues the command `c` for the commit. -/
def Queues (i : Instr) (ok : Env → Prop) (c : Env → Cmd) : Prop :=
  ∀ s e, CanFire s i e → ok e → exec i s = .next (s.firedTok e false (fun _ u => u) fun tk h =>
    { outA := h, acts := [.queue { c e with tok := tk, slots := e.f.slotTargets }] })
/-- Whenever it may fire and `ok` holds, an instruction waits for its service at the commit (R166). -/
def Acquires (i : Instr) (ok : Env → Prop) (c : Env → Cmd) : Prop :=
  ∀ s e, CanFire s i e → ok e → exec i s = .next (s.firedTok e false
    (fun tk u => u.onCtx e.cell e.x fun q => match q.block e.pos with
      | some b => q.setBlock e.pos { b with acqs := b.acqs ++ [(e.idx, { c e with tok := tk, slots := e.f.slotTargets }, false)] }
      | none => q)
    fun _ h => { outA := h, st := .acquiring })
/-- Whenever it may fire, the slew window and the energy bucket take its charge (R448 to R450) and `ok` holds, an engine
instruction is charged and its command is queued for the commit (R137). -/
def Engages (i : Instr) (mxe : Bool) (charge : Env → Nat) (ok : Env → Prop) : Prop :=
  ∀ s e, CanFire s i e → e.engOk mxe (charge e) = true → ok e →
    exec i s = .next (s.firedTok e false (fun _ u => u.charge e.cell mxe (charge e)) fun tk h =>
      { outA := h, acts := [.engine { e.cmd i with tok := tk, slots := e.f.slotTargets }] })
/-- Whenever it may fire, the slew window and the energy bucket take its charge and a check finds a fault, an engine
instruction takes that fault, and is charged (R448). -/
def EngineFaults (i : Instr) (mxe : Bool) (charge : Env → Nat) (bad : Env → Cause → Word → Prop) : Prop :=
  ∀ s e c v, CanFire s i e → e.engOk mxe (charge e) = true → bad e c v →
    exec i s = .next (((s.onCell e.cell fun k => k.issued e.x e.num).charge e.cell mxe (charge e)).put e (effFault c v))

/-- The state with some bytes written at a place. -/
def State.stored (s : State) (p : Place) (d : List (Byte × Bool)) : State := { s with mem := s.mem.applyAll (s.writeOps p d) }
/-- The state with COUNT, GEN and FLAGS of a sync word written (Table 7-4). -/
def State.storedWord (s : State) (p : Place) (count gen flags : Nat) : State :=
  ((s.stored { p with off := p.off + 4 } (bytesOf 4 count)).stored { p with off := p.off + 8 } (bytesOf 4 gen)).stored
    { p with off := p.off + 12 } (bytesOf 4 flags)
/-- An answer on its way back to the one who asked. -/
def State.Answered (s t : State) (a : Acc) (d : List (Byte × Bool)) (err : Option Cause) : Prop :=
  ∃ r, t.resps = s.resps ++ [r] ∧ r.back = a.back ∧ r.data = d ∧ r.err = err ∧ r.addr = a.addr

/-- The same, behind the answers of waiters that the step has released: it alone when nothing waits. -/
def State.AnsweredLast (s t : State) (a : Acc) (d : List (Byte × Bool)) (err : Option Cause) : Prop :=
  ∃ r, t.resps.getLast? = some r ∧ (s.waits = [] → t.resps = s.resps ++ [r]) ∧ r.back = a.back ∧ r.data = d ∧ r.err = err ∧ r.addr = a.addr
/-- Memory `m` after the waiters that a step has released: an LDFE among them empties its words, and no byte changes (R64, R65). -/
def State.Woken (s : State) (m t : Mem) : Prop :=
  (s.waits = [] → t = m) ∧ ∃ l : List Nat, t = m.applyAll (l.map fun k => MemOp.full k false)

/-- A field of 2 bytes of a launch record written by the device, and STATUS and then STATE written (Table 9-4). -/
def State.recSet (s : State) (i off v : Nat) : State := s.stored (hdm0 (256 * i + off)) (bytesOf 2 v)
def State.recorded (s : State) (i st status : Nat) : State := (s.recSet i 2 status).recSet i 0 st
/-- A mailbox command has completed with a return code (Table 20-2). -/
def MbDone (s t : State) (rc : Nat) : Prop := t.mbctl.getLsbD 0 = false ∧ fld t.mbstat 8 8 = rc ∧ t.mem = s.mem
/-- The mailbox payload begins with some bytes. -/
def State.PayloadIs (s : State) (d : List Byte) : Prop := ∀ k < min d.length 4096, s.mbox.get 0 k = d.getD k 0
/-- A unit's table answers as before for every key but those of a predicate. -/
def SameCells (s t : State) (P : Nat → Prop) : Prop := ∀ k, ¬P k → t.cellAt k = s.cellAt k
/-- An instruction or event answers a next state of which `P` holds. -/
def Gives (i : Instr) (s : State) (P : State → Prop) : Prop := ∃ t, exec i s = .next t ∧ P t
/-- A context has stopped (R184, Table 18-2): nothing is in flight, the trap registers name the cause, SRC and DETAIL, the
block, the index and the value, and its slots are as they were. -/
def StoppedBy (t : State) (c : Ctx) (cell x : Nat) (cause : Cause) (src : BitVec 3) (detail : BitVec 8) (tpois : Bool)
    (blk : Word) (idx : BitVec 8) (tval : Word) : Prop :=
  (t.ctxAt cell x).stopped = true ∧ (t.ctxAt cell x).flight = [] ∧
  (t.ctxAt cell x).tcause = (1#1 ++ src ++ BitVec.ofBool tpois ++ 0#43 ++ detail ++ cause : BitVec 64) ∧
  (t.ctxAt cell x).tblk = blk ∧ (t.ctxAt cell x).tidx = idx.setWidth 64 ∧ (t.ctxAt cell x).tval = tval ∧
  (t.ctxAt cell x).slots = c.slots

/-- The entry a sequencer holds next is due now, nothing else of R129 being due on this clock, and its class covers the
sensed one (R98, R111). -/
structure EntryDue (s : State) (f : Fetched) (rest : List Fetched) : Prop where
  st : (s.cellAt s.cur.cell).seq.st = .running
  pre : (s.cellAt s.cur.cell).seq.pre = []
  ended : (s.cellAt s.cur.cell).seq.ended = false
  next : (s.cellAt s.cur.cell).seq.fetched = f :: rest
  tick : s.vtime.toNat % 1500 ≠ 0
  stops : (s.cellAt s.cur.cell).seq.stops = []
  due : (s.cellAt s.cur.cell).seq.ref + deltaOf f.entry ≤ (s.vtime.toNat : Int)
/-- An entry has issued at the vault clock of `s`: position and elapsed time name what follows it (R111, R133). -/
def Issued (s t : State) (index : BitVec 12) (iter : BitVec 32) (wait : Nat) : Prop :=
  let q := (t.cellAt s.cur.cell).seq
  q.st = .running ∧ q.index = index ∧ q.iter = iter ∧ q.ref = (s.vtime.toNat : Int) + wait ∧ q.refb = (s.vtime.toNat : Int) ∧
  q.elap = s.vtime - (s.cellAt s.cur.cell).seq.t0
/-- The sequencer of a cell has faulted (R128, R130, Table 6-6): it is suspended, or stopped by a format fault, the guard
takes over, and the fault is reported to the field manager and to the owner of the program. -/
def SeqFaulted (s t : State) (cell : Nat) (cause : Cause) (detail : BitVec 8) : Prop :=
  let q := (s.cellAt cell).seq
  let r : Report := { cause := cause, detail := detail, src := 4, tval := BitVec.ofNat 64 q.posn }
  (t.cellAt cell).seq.st = (if cause = 0x10 then .stopped else .suspended) ∧ (t.cellAt cell).seq.cause = cause ∧
  (t.cellAt cell).seq.detail = detail ∧ (t.cellAt cell).seq.fetched = [] ∧ (t.cellAt cell).vault.owned = false ∧
  (t.ctxAt cell q.owner).reports = (s.ctxAt cell q.owner).reports ++ [r] ∧ t.reports = s.reports ++ [(cell, q.owner, r)] ∧ t.mem = s.mem

/-- Nothing holds a read of a control register back: a cell's is read at once, a context's when every older block has committed,
VTIME when no older block holds a read of it still to fire (R22, R383). -/
def Env.csrFree (e : Env) (n : BitVec 12) : Prop := if n = 0x100 then e.vtimeClear = true else 256 ≤ n.toNat ∨ e.pos = 0

/-- Everything of a state but the block under way, the issue counters of the cells and the free-value counter. -/
def LocalOnly (s t : State) : Prop :=
  t = { s with cells := t.cells, ctxs := t.ctxs, freeCtr := t.freeCtr } ∧
  (∀ k, ∃ ic n l a, t.cellAt k = { s.cellAt k with issCtx := ic, issN := n, lastIss := l, issAt := a }) ∧
  (∀ k x, ∃ fl, t.ctxAt k x = { s.ctxAt k x with flight := fl } ∧
    ∀ j, ¬ (4 * k + x = 4 * s.cur.cell + s.cur.x ∧ j = s.cur.pos) → fl[j]? = (s.ctxAt k x).flight[j]?)

/-- Instructions whose firing computes, tests, moves or branches: they reach nothing outside their block before its commit. -/
def isLocal : Instr → Bool
  | .br .. | .jmp .. | .call .. | .callr .. | .ret .. | .done .. | .yield .. | .null .. | .mov .. | .movi .. | .movhi ..
  | .sel .. | .baddr .. | .teq .. | .tne .. | .tlt .. | .tle .. | .tltu .. | .tleu .. | .teqi .. | .tnei .. | .tlti ..
  | .tlei .. | .tltui .. | .tleui .. | .tbit .. | .tnz .. | .add .. | .sub .. | .addi .. | .adds .. | .addsu .. | .subs ..
  | .subsu .. | .neg .. | .abs .. | .min .. | .max .. | .minu .. | .maxu .. | .mul .. | .mulh .. | .mulhu .. | .mulhsu ..
  | .madd .. | .div .. | .divu .. | .rem .. | .remu .. | .and .. | .or .. | .xor .. | .andn .. | .andi .. | .ori ..
  | .xori .. | .shl .. | .shr .. | .sar .. | .rol .. | .ror .. | .clz .. | .ctz .. | .popc .. | .bfx .. | .bfxu ..
  | .bfi .. | .fadd .. | .fsub .. | .fmul .. | .fdiv .. | .fsqrt .. | .fma .. | .fmin .. | .fmax .. | .fsgn .. | .fcmp ..
  | .fclass .. | .fcvt .. | .ftoi .. | .itof .. => true
  | _ => false

end Sys2Proof.Machine
end

