-- ==== Sys2Proof/Certificates/Slice0/Obligations.lean ====
section
/-! DEFINITION. Certificates/Slice0/Obligations.lean: the statements for the provers. -/
open Sys2Proof Sys2Proof.Machine

/-- R260, R261: addition and subtraction, wrapping and saturating, of operands read at the width; negation, absolute value
(XM 1 saturates) and the extremes. -/
def Obligations.SumsAndExtremes : Prop := ∀ (h : Hdr) (w : Width) (imm : BitVec 26),
  Fires (.add h w) (fun e => e.of2 (low w (e.ua w + e.ub w))) ∧
  Fires (.sub h w) (fun e => e.of2 (low w (e.ua w - e.ub w))) ∧
  Fires (.addi h w imm) (fun e => e.of1 (low w (e.ua w + imm.toInt))) ∧
  Fires (.adds h w) (fun e => e.of2 (low w (clampS w (e.sa w + e.sb w)))) ∧
  Fires (.addsu h w) (fun e => e.of2 (low w (clampU w (e.ua w + e.ub w)))) ∧
  Fires (.subs h w) (fun e => e.of2 (low w (clampS w (e.sa w - e.sb w)))) ∧
  Fires (.subsu h w) (fun e => e.of2 (low w (clampU w (e.ua w - e.ub w)))) ∧
  Fires (.neg h w false) (fun e => e.of1 (low w (-e.sa w))) ∧
  Fires (.neg h w true) (fun e => e.of1 (low w (clampS w (-e.sa w)))) ∧
  Fires (.abs h w false) (fun e => e.of1 (low w (e.sa w).natAbs)) ∧
  Fires (.abs h w true) (fun e => e.of1 (low w (clampS w (e.sa w).natAbs))) ∧
  Fires (.min h w) (fun e => e.of2 (low w (min (e.sa w) (e.sb w)))) ∧
  Fires (.max h w) (fun e => e.of2 (low w (max (e.sa w) (e.sb w)))) ∧
  Fires (.minu h w) (fun e => e.of2 (low w (min (e.ua w) (e.ub w)))) ∧
  Fires (.maxu h w) (fun e => e.of2 (low w (max (e.ua w) (e.ub w))))

/-- R262, R263: products are exact, a high half is the floor of the quotient by 2^w; division rounds toward zero, and by zero and on
the signed overflow it is defined and never faults. -/
def Obligations.ProductsAndQuotients : Prop := ∀ (h : Hdr) (w : Width),
  Fires (.mul h w) (fun e => e.of2 (low w (e.ua w * e.ub w))) ∧
  Fires (.mulh h w) (fun e => e.of2 (low w ((e.sa w * e.sb w).fdiv (2 ^ w.bits)))) ∧
  Fires (.mulhu h w) (fun e => e.of2 (low w ((e.ua w * e.ub w).fdiv (2 ^ w.bits)))) ∧
  Fires (.mulhsu h w) (fun e => e.of2 (low w ((e.sa w * e.ub w).fdiv (2 ^ w.bits)))) ∧
  Fires (.madd h w) (fun e => e.value (low w (e.ua w * e.ub w + (e.tok .c).v.toNat))
    ((e.tok .a).poi || (e.tok .b).poi || (e.tok .c).poi)) ∧
  Fires (.div h w) (fun e => e.of2 (low w (if e.sb w = 0 then -1 else (e.sa w).tdiv (e.sb w)))) ∧
  Fires (.rem h w) (fun e => e.of2 (low w (if e.sb w = 0 then e.sa w else (e.sa w).tmod (e.sb w)))) ∧
  Fires (.divu h w) (fun e => e.of2 (low w (if e.ub w = 0 then -1 else e.ua w / e.ub w))) ∧
  Fires (.remu h w) (fun e => e.of2 (low w (if e.ub w = 0 then e.ua w else e.ua w % e.ub w)))

/-- R264: logic, bit by bit at the width; the immediate forms extend the immediate by its sign or by zeros. -/
def Obligations.LogicResults : Prop := ∀ (h : Hdr) (w : Width) (zx : Bool) (imm : BitVec 26),
  Fires (.and h w) (fun e => e.of2 ((((e.tok .a).v &&& (e.tok .b).v).setWidth w.bits).setWidth 64)) ∧
  Fires (.or h w) (fun e => e.of2 ((((e.tok .a).v ||| (e.tok .b).v).setWidth w.bits).setWidth 64)) ∧
  Fires (.xor h w) (fun e => e.of2 ((((e.tok .a).v ^^^ (e.tok .b).v).setWidth w.bits).setWidth 64)) ∧
  Fires (.andn h w) (fun e => e.of2 ((((e.tok .a).v &&& ~~~(e.tok .b).v).setWidth w.bits).setWidth 64)) ∧
  Fires (.andi h w zx imm) (fun e =>
    e.of1 ((((e.tok .a).v &&& (if zx then imm.setWidth 64 else imm.signExtend 64)).setWidth w.bits).setWidth 64)) ∧
  Fires (.ori h w zx imm) (fun e =>
    e.of1 ((((e.tok .a).v ||| (if zx then imm.setWidth 64 else imm.signExtend 64)).setWidth w.bits).setWidth 64)) ∧
  Fires (.xori h w zx imm) (fun e =>
    e.of1 ((((e.tok .a).v ^^^ (if zx then imm.setWidth 64 else imm.signExtend 64)).setWidth w.bits).setWidth 64))

/-- R265: shifts by all 64 bits of port b or by the immediate; rotates by the amount modulo the width. -/
def Obligations.ShiftsAndRotates : Prop := ∀ (h : Hdr) (w : Width) (amt : Option (BitVec 6)),
  Fires (.shl h w amt) (fun e => e.shifted amt (low w (e.ua w * 2 ^ e.shiftBy amt))) ∧
  Fires (.shr h w amt) (fun e => e.shifted amt (low w (e.ua w / 2 ^ e.shiftBy amt))) ∧
  Fires (.sar h w amt) (fun e => e.shifted amt (low w ((e.sa w).fdiv (2 ^ e.shiftBy amt)))) ∧
  Fires (.rol h w amt) (fun e => e.shifted amt (((e.xa w).rotateLeft (e.shiftBy amt % w.bits)).setWidth 64)) ∧
  Fires (.ror h w amt) (fun e => e.shifted amt (((e.xa w).rotateRight (e.shiftBy amt % w.bits)).setWidth 64))

/-- R266: CLZ, CTZ and POPC count the zero bits above the highest one, below the lowest one, and the ones. -/
def Obligations.BitCounts : Prop := ∀ (h : Hdr) (w : Width), ∃ lz tz pc : Env → Nat,
  Fires (.clz h w) (fun e => e.of1 (BitVec.ofNat 64 (lz e))) ∧
  Fires (.ctz h w) (fun e => e.of1 (BitVec.ofNat 64 (tz e))) ∧
  Fires (.popc h w) (fun e => e.of1 (BitVec.ofNat 64 (pc e))) ∧
  ∀ e, (e.xa w = 0 → lz e = w.bits ∧ tz e = w.bits) ∧
    (e.xa w ≠ 0 → lz e < w.bits ∧ (e.xa w).getMsbD (lz e) = true ∧ (∀ j < lz e, (e.xa w).getMsbD j = false) ∧
      tz e < w.bits ∧ (e.xa w).getLsbD (tz e) = true ∧ (∀ j < tz e, (e.xa w).getLsbD j = false)) ∧
    pc e = ((List.range w.bits).filter fun j => (e.xa w).getLsbD j).length

/-- R267: BFX and BFXU deliver the field of length LEN at POS, sign- and zero-extended; BFI replaces it by the low bits of
port b and keeps every other bit. -/
def Obligations.BitFields : Prop := ∀ (h : Hdr) (w : Width) (pos len1 : BitVec 6), pos.toNat + len1.toNat + 1 ≤ w.bits →
  Fires (.bfxu h w pos len1) (fun e => e.of1 (((e.xa w).extractLsb' pos.toNat (len1.toNat + 1)).setWidth 64)) ∧
  Fires (.bfx h w pos len1) (fun e =>
    e.of1 ((((e.xa w).extractLsb' pos.toNat (len1.toNat + 1)).signExtend w.bits).setWidth 64)) ∧
  ∃ v : Env → Word, Fires (.bfi h w pos len1) (fun e => e.of2 (v e)) ∧
    ∀ e j, (v e).getLsbD j =
      if pos.toNat ≤ j ∧ j < pos.toNat + (len1.toNat + 1) then (e.tok .b).v.getLsbD (j - pos.toNat) else (e.xa w).getLsbD j

/-- R255 to R258: NULL sends nulls, MOV reduces, MOVI builds a constant, MOVHI replaces one field, SEL takes the operand that
bit 0 of port c names with its poison alone, BADDR gives the address the block was fetched from. -/
def Obligations.Moves : Prop := ∀ (h : Hdr) (w : Width) (zx : Bool) (imm : BitVec 26) (v12 : BitVec 12),
  Fires (.null h) (fun _ => { outA := .null, outB := .null }) ∧
  Fires (.mov h w) (fun e => e.of1 ((e.xa w).setWidth 64)) ∧
  Fires (.movi h w zx imm) (fun e => e.value (immAt zx imm w) false) ∧
  Fires (.movhi h (.mid imm)) (fun e =>
    e.of1 ((e.tok .a).v.extractLsb' 52 12 ++ imm ++ (e.tok .a).v.extractLsb' 0 26 : BitVec 64)) ∧
  Fires (.movhi h (.top v12)) (fun e => e.of1 (v12 ++ (e.tok .a).v.extractLsb' 0 52 : BitVec 64)) ∧
  Fires (.sel h w) (fun e =>
    if (e.tok .c).v.getLsbD 0 then e.value ((e.xa w).setWidth 64) ((e.tok .c).poi || (e.tok .a).poi)
    else e.value (((e.tok .b).v.setWidth w.bits).setWidth 64) ((e.tok .c).poi || (e.tok .b).poi)) ∧
  Fires (.baddr h) (fun e => e.value e.blk.addr false)

/-- R259: each test delivers 1 when its condition holds and 0 otherwise; the immediate forms compare at the width. -/
def Obligations.Tests : Prop := ∀ (h : Hdr) (w : Width) (imm : BitVec 26) (n : BitVec 6),
  let iu : Int := (immAt false imm w).toNat
  let is : Int := ((immAt false imm w).setWidth w.bits).toInt
  Fires (.teq h w) (fun e => e.of2 (truth (e.ua w = e.ub w))) ∧ Fires (.tne h w) (fun e => e.of2 (truth (e.ua w ≠ e.ub w))) ∧
  Fires (.tlt h w) (fun e => e.of2 (truth (e.sa w < e.sb w))) ∧ Fires (.tle h w) (fun e => e.of2 (truth (e.sa w ≤ e.sb w))) ∧
  Fires (.tltu h w) (fun e => e.of2 (truth (e.ua w < e.ub w))) ∧ Fires (.tleu h w) (fun e => e.of2 (truth (e.ua w ≤ e.ub w))) ∧
  Fires (.teqi h w imm) (fun e => e.of1 (truth (e.ua w = iu))) ∧ Fires (.tnei h w imm) (fun e => e.of1 (truth (e.ua w ≠ iu))) ∧
  Fires (.tlti h w imm) (fun e => e.of1 (truth (e.sa w < is))) ∧ Fires (.tlei h w imm) (fun e => e.of1 (truth (e.sa w ≤ is))) ∧
  Fires (.tltui h w imm) (fun e => e.of1 (truth (e.ua w < iu))) ∧ Fires (.tleui h w imm) (fun e => e.of1 (truth (e.ua w ≤ iu))) ∧
  Fires (.tbit h w n) (fun e => e.of1 (truth ((e.xa w).getLsbD n.toNat))) ∧
  Fires (.tnz h w none) (fun e => e.of1 (truth (e.ua w ≠ 0))) ∧
  Fires (.tnz h w (some imm)) (fun e => e.of1 (truth ((e.xa w).setWidth 64 &&& imm.setWidth 64 ≠ 0)))

/-- R250 to R254: where each exit goes, what CALL and CALLR deliver and RET counts, and the trap of TRAP.  The relative
target moves the offset part of the block's own address by OFF blocks; beyond it the block takes a space or bound fault.  TRAP
names no next block: its port a is data. -/
def Obligations.Exits : Prop := ∀ (h : Hdr) (p : Pr) (off : BitVec 26),
  let width (e : Env) : Nat := if e.blk.addr.extractLsb' 61 3 = 1#3 then 32 else 35
  let within (e : Env) : Prop := 0 ≤ (e.blk.addr.toNat % 2 ^ width e : Int) + off.toInt * 64 ∧
    (e.blk.addr.toNat % 2 ^ width e : Int) + off.toInt * 64 < 2 ^ width e
  let goal (e : Env) : Word := e.blk.addr + BitVec.ofInt 64 (off.toInt * 64)
  (∀ s e, CanFire s (.br p off) e → within e → exec (.br p off) s = .next (s.fired e (exitAt (goal e) e.pp))) ∧
  (∀ s e, CanFire s (.br p off) e → ¬ within e → exec (.br p off) s = .next (s.fired e (effFault cSpace (goal e)))) ∧
  (∀ s e, CanFire s (.call h off) e → within e → exec (.call h off) s = .next (s.fired e
    { e.of1 (e.tok .a).v with acts := [.depth 1], exit := some (.addr { v := goal e, poi := e.pp }) })) ∧
  (∀ s e, CanFire s (.call h off) e → ¬ within e → exec (.call h off) s = .next (s.fired e (effFault cSpace (goal e)))) ∧
  Fires (.callr h) (fun e => { e.value (e.tok .b).v (e.tok .b).poi with
    acts := [.depth 1], exit := some (.addr { v := (e.tok .a).v, poi := (e.tok .a).poi || e.pp }) }) ∧
  Fires (.jmp p) (fun e => exitAt (e.tok .a).v ((e.tok .a).poi || e.pp)) ∧
  Fires (.ret p) (fun e => { exitAt (e.tok .a).v ((e.tok .a).poi || e.pp) with acts := [.depth (-1)] }) ∧
  Fires (.done p) (fun _ => { exit := some .done }) ∧
  Fires (.yield p) (fun e => { exit := some (.yield { v := (e.tok .a).v, poi := (e.tok .a).poi || e.pp }) }) ∧
  Fires (.trap p) (fun e => {
    outA := .exc, outB := .exc, st := .faulted, fault := some (0x0B, (e.tok .a).v), exit := some .trap })

/-- R284, Table 12-10: FADD and FSUB, exact before their one rounding. -/
def Obligations.FloatSums : Prop := ∀ (h : Hdr) (f : FFmt) (m : Rm), ∃ r1 r2 : Env → Nat × Flags,
  Fires (.fadd h f m) (fun e => e.flagged (r1 e) ((e.tok .a).poi || (e.tok .b).poi)) ∧
  Fires (.fsub h f m) (fun e => e.flagged (r2 e) ((e.tok .a).poi || (e.tok .b).poi)) ∧
  ∀ e, let F := fmtOf f
    let x := e.fv F .a
    let y := e.fv F .b
    NanRows F [x, y] (r1 e) ∧ NanRows F [x, y] (r2 e) ∧
    SumRows F (rmMode e.c.frm m) e.draw x y (r1 e) ∧ SumRows F (rmMode e.c.frm m) e.draw x y.neg (r2 e)

/-- R284, Table 12-10: FMUL, FDIV, FSQRT and FMA, exact before their one rounding. -/
def Obligations.FloatProducts : Prop := ∀ (h : Hdr) (f : FFmt) (m : Rm), ∃ rm rd rs rf : Env → Nat × Flags,
  Fires (.fmul h f m) (fun e => e.flagged (rm e) ((e.tok .a).poi || (e.tok .b).poi)) ∧
  Fires (.fdiv h f m) (fun e => e.flagged (rd e) ((e.tok .a).poi || (e.tok .b).poi)) ∧
  Fires (.fsqrt h f m) (fun e => e.flagged (rs e) (e.tok .a).poi) ∧
  Fires (.fma h f m) (fun e => e.flagged (rf e) ((e.tok .a).poi || (e.tok .b).poi || (e.tok .c).poi)) ∧
  ∀ e, let F := fmtOf f
    let x := e.fv F .a
    let y := e.fv F .b
    let z := e.fv F .c
    let M := rmMode e.c.frm m
    NanRows F [x, y] (rm e) ∧ NanRows F [x, y] (rd e) ∧ NanRows F [x] (rs e) ∧
    (∀ s t, x = .inf s → y = .inf t → rm e = (F.infOf (s != t), 0) ∧ rd e = (F.cnan, fNV)) ∧
    (∀ s t n q, x = .inf s → y = .fin t n q →
      rm e = (if n = 0 then (F.cnan, fNV) else (F.infOf (s != t), 0)) ∧ rd e = (F.infOf (s != t), 0)) ∧
    (∀ s t n q, x = .fin s n q → y = .inf t →
      rm e = (if n = 0 then (F.cnan, fNV) else (F.infOf (s != t), 0)) ∧ rd e = (F.pack (s != t) 0, 0)) ∧
    (∀ s n q t k p, x = .fin s n q → y = .fin t k p →
      rm e = F.roundFin M e.draw (s != t) (n * k) (q + p) ∧
      (k = 0 → rd e = (if n = 0 then (F.cnan, fNV) else (F.infOf (s != t), fDZ))) ∧
      (k ≠ 0 → n = 0 → rd e = (F.pack (s != t) 0, 0)) ∧
      (k ≠ 0 → n ≠ 0 → ∃ ov, F.roundMag M e.draw (s != t) { n := n, d := k, e := q - p } = ((rd e).1, (rd e).2, ov))) ∧
    (∀ s, x = .inf s → rs e = (if s then (F.cnan, fNV) else (F.infOf false, 0))) ∧
    (∀ s q, x = .fin s 0 q → rs e = (F.pack s 0, 0)) ∧
    (∀ n q, n ≠ 0 → x = .fin true n q → rs e = (F.cnan, fNV)) ∧
    (∀ n q, n ≠ 0 → x = .fin false n q →
      ∃ ov, F.roundMag M e.draw false { n := n, e := q, root := true } = ((rs e).1, (rs e).2, ov)) ∧
    ((x.isInf && y.isZero || x.isZero && y.isInf) = true → rf e = (F.cnan, fNV)) ∧
    ((x.isInf && y.isZero || x.isZero && y.isInf) = false → NanRows F [x, y, z] (rf e) ∧
      ∀ p, z.isNan = false → x.isNan = false → y.isNan = false → fvMul x y = some p → SumRows F M e.draw p z (rf e))

/-- R285 to R288: FMIN and FMAX return an operand bit for bit or the canonical NaN, FSGN changes the sign alone, FCMP
delivers a truth and FCLASS a mask of one bit. -/
def Obligations.FloatSelections : Prop := ∀ (h : Hdr) (f : FFmt) (prop : Bool) (k : Sgn) (c : FCond),
  let F := fmtOf f
  let bits (e : Env) (q : PortId) : Nat := (e.tok q).v.toNat % 2 ^ F.w
  let nv (b : Bool) : Flags := if b then fNV else 0
  let snan (e : Env) : Bool := (e.fv F .a).isSnan || (e.fv F .b).isSnan
  let anyNan (e : Env) : Bool := (e.fv F .a).isNan || (e.fv F .b).isNan
  (∃ lo hi : Env → Nat,
    Fires (.fmin h f prop) (fun e => e.flagged (lo e, nv (snan e)) ((e.tok .a).poi || (e.tok .b).poi)) ∧
    Fires (.fmax h f prop) (fun e => e.flagged (hi e, nv (snan e)) ((e.tok .a).poi || (e.tok .b).poi)) ∧
    ∀ e, ((e.fv F .a).isNan → (e.fv F .b).isNan → lo e = F.cnan ∧ hi e = F.cnan) ∧
      ((e.fv F .a).isNan → !(e.fv F .b).isNan →
        lo e = (if prop then F.cnan else bits e .b) ∧ hi e = (if prop then F.cnan else bits e .b)) ∧
      (!(e.fv F .a).isNan → (e.fv F .b).isNan →
        lo e = (if prop then F.cnan else bits e .a) ∧ hi e = (if prop then F.cnan else bits e .a)) ∧
      (!anyNan e → lo e = (if (e.fv F .b).less (e.fv F .a) then bits e .b else bits e .a) ∧
        hi e = (if (e.fv F .a).less (e.fv F .b) then bits e .b else bits e .a))) ∧
  (∃ v : Env → Word, Fires (.fsgn h f k) (fun e => e.of2 (v e)) ∧
    ∀ e j, (v e).getLsbD j =
      if j < F.w - 1 then (e.tok .a).v.getLsbD j
      else if j = F.w - 1 then (match k with
        | .j => (e.tok .b).v.getLsbD j
        | .jn => !(e.tok .b).v.getLsbD j
        | .jx => (e.tok .a).v.getLsbD j ^^ (e.tok .b).v.getLsbD j)
      else false) ∧
  Fires (.fcmp h f c) (fun e =>
    let d := fvCmp (e.fv F .a) (e.fv F .b)
    e.flagged (match c with
      | .eq => ((truth (!anyNan e && d == 0)).toNat, nv (snan e))
      | .lt => ((truth (!anyNan e && d < 0)).toNat, nv (anyNan e))
      | .le => ((truth (!anyNan e && d ≤ 0)).toNat, nv (anyNan e))
      | .un => ((truth (anyNan e)).toNat, nv (snan e))
      | .ltq => ((truth (!anyNan e && d < 0)).toNat, nv (snan e))
      | .leq => ((truth (!anyNan e && d ≤ 0)).toNat, nv (snan e))) ((e.tok .a).poi || (e.tok .b).poi)) ∧
  Fires (.fclass h f) (fun e => e.of1 (match e.fv F .a with
    | .inf s => if s then 1#64 <<< 0 else 1#64 <<< 7
    | .nan sig => if sig then 1#64 <<< 8 else 1#64 <<< 9
    | .fin s n _ =>
        if n = 0 then (if s then 1#64 <<< 3 else 1#64 <<< 4)
        else if n < 2 ^ F.m then (if s then 1#64 <<< 2 else 1#64 <<< 5)
        else (if s then 1#64 <<< 1 else 1#64 <<< 6)))

/-- R289, Table 12-12, R277: under a word whose reserved bits are zero, whose mode is 0 to 5 and whose pair the table permits,
FCVT, FTOI and ITOF fire and deliver the converted value with its flags; under any other word they fault with
ILLEGAL_INSTRUCTION.  FCVT gives special values as Table 12-6 and rounds the others once, FTOI rounds to an integer and gives
NV and the bound that SAT names outside the range, ITOF rounds an integer. -/
def Obligations.Conversions : Prop := ∀ (h : Hdr) (s : State) (e : Env),
  let w := (e.tok .b).v
  let frm := (w.extractLsb' 0 6).toNat
  let dst := (w.extractLsb' 8 6).toNat
  let sat := w.getLsbD 20
  let M := bitsMode e.c.frm (w.extractLsb' 16 3)
  let wordOk : Bool := w.extractLsb' 21 43 == 0 && !w.getLsbD 19 && w.extractLsb' 14 2 == 0 && w.extractLsb' 6 2 == 0 &&
    w.extractLsb' 17 2 != 3
  let isFloat (c : Nat) : Bool := c ≤ 9
  let isInt (c : Nat) : Bool := (10 ≤ c && c ≤ 17) || (32 ≤ c && c ≤ 35)
  let done (i : Instr) (r : Nat × Flags) : Prop :=
    exec i s = .next (s.fired e (e.flagged r ((e.tok .a).poi || (e.tok .b).poi)))
  let bad (i : Instr) : Prop := exec i s = .next (s.fired e (effFault 0x01 w))
  (CanFire s (.fcvt h) e → wordOk = true → isFloat frm = true → isFloat dst = true →
    ∃ A B r, floatCode frm = some A ∧ floatCode dst = some B ∧ done (.fcvt h) r ∧
      (∀ q, e.fv A .a = .nan q → r = (B.cnan, if q || (frm != dst && B.top == .normal) then fNV else 0)) ∧
      (frm ≠ dst → ∀ t, e.fv A .a = .inf t →
        r = (if sat then (B.maxOf t, fNV) else (B.infOf t, if B.hasInf then 0 else fNV))) ∧
      (frm ≠ dst → ∀ t n q, e.fv A .a = .fin t n q → sat = false ∨ n = 0 → r = B.roundFin M e.draw t n q) ∧
      (frm ≠ dst → ∀ t n q, e.fv A .a = .fin t n q → n ≠ 0 → sat = true →
        r = (let m := B.roundMag M e.draw t { n := n, e := q }
             (if m.2.2 then B.maxOf t else m.1, m.2.1))) ∧
      (frm = dst → (e.fv A .a).isNan = false → r = ((e.tok .a).v.toNat % 2 ^ A.w / 2 ^ A.low * 2 ^ A.low, 0))) ∧
  (CanFire s (.fcvt h) e → (wordOk && isFloat frm && isFloat dst) = false → bad (.fcvt h)) ∧
  (CanFire s (.ftoi h) e → wordOk = true → isFloat frm = true → isInt dst = true →
    ∃ A n sgn r, floatCode frm = some A ∧ intCode dst = some (n, sgn) ∧ done (.ftoi h) r ∧
      let lo : Int := if sgn then -2 ^ (n - 1) else 0
      let hi : Int := if sgn then 2 ^ (n - 1) - 1 else 2 ^ n - 1
      let out := if sgn then 2 ^ (n - 1) else 2 ^ n - 1
      (∀ q, e.fv A .a = .nan q → r = (if sat then 0 else out, fNV)) ∧
      (∀ t, e.fv A .a = .inf t → r = (if sat then ((if t then lo else hi) % 2 ^ n).toNat else out, fNV)) ∧
      (∀ t m q, e.fv A .a = .fin t m q →
        let z := (roundInt M e.draw t m q).1
        (z < lo → r = (if sat then (lo % 2 ^ n).toNat else out, fNV)) ∧
        (hi < z → r = (if sat then hi.toNat else out, fNV)) ∧
        (lo ≤ z → z ≤ hi → r = ((z % 2 ^ n).toNat, if (roundInt M e.draw t m q).2 then fNX else 0)))) ∧
  (CanFire s (.ftoi h) e → (wordOk && isFloat frm && isInt dst) = false → bad (.ftoi h)) ∧
  (CanFire s (.itof h) e → wordOk = true → isInt frm = true → isFloat dst = true →
    ∃ B n sgn r, floatCode dst = some B ∧ intCode frm = some (n, sgn) ∧ done (.itof h) r ∧
      let u := (e.tok .a).v.toNat % 2 ^ n
      let z : Int := if sgn && decide (2 ^ (n - 1) ≤ u) then (u : Int) - 2 ^ n else u
      (z = 0 → r = (0, 0)) ∧
      (sat = false → r = B.roundFin M e.draw (decide (z < 0)) z.natAbs 0) ∧
      (z ≠ 0 → sat = true → r = (let m := B.roundMag M e.draw (decide (z < 0)) { n := z.natAbs }
        (if m.2.2 then B.maxOf (decide (z < 0)) else m.1, m.2.1)))) ∧
  (CanFire s (.itof h) e → (wordOk && isInt frm && isFloat dst) = false → bad (.itof h))

/-- R294: the effective address is the base plus the signed displacement; a poisoned base, a space closed to blocks and a
carry out of the offset part of the space fault. -/
def Obligations.EffectiveAddress : Prop := ∀ (a : Tok) (disp : BitVec 16),
  let ea := a.v + disp.signExtend 64
  let space := ea.extractLsb' 61 3
  let n := match space.toNat with
    | 1 => 32
    | 3 => 16
    | 7 => 27
    | _ => 35
  (a.poi = true → effAddr a disp.toInt = .error (0x09, a.v)) ∧
  (a.poi = false → space = 4#3 ∨ space = 5#3 ∨ space = 6#3 → effAddr a disp.toInt = .error (0x06, ea)) ∧
  (a.poi = false → space ≠ 4#3 → space ≠ 5#3 → space ≠ 6#3 → ea >>> n ≠ a.v >>> n → effAddr a disp.toInt = .error (0x06, ea)) ∧
  (a.poi = false → space ≠ 4#3 → space ≠ 5#3 → space ≠ 6#3 → ea >>> n = a.v >>> n → effAddr a disp.toInt = .ok ea)

/-- R296, R298, R166: ST, STF and LDFE check their address when they fire and are queued for the commit. -/
def Obligations.StoresQueue : Prop := ∀ (h : Hdr) (w : Width) (at_ x2 sgn : Bool) (l : LayA),
  QueuesAt (.st h w at_ x2 l) (fun e => e.access (e.tok .a) l.disp.toInt (if x2 then 16 else w.bits / 8) at_)
    (if x2 then 16 else w.bits / 8) treeInj true ∧
  QueuesAt (.stf h w l) (fun e => e.accessMem (e.tok .a) l.disp.toInt (w.bits / 8) false) (w.bits / 8) (fun _ => false) true ∧
  QueuesAt (.ldfe h w sgn l) (fun e => e.access (e.tok .a) l.disp.toInt (w.bits / 8) false) (w.bits / 8)
    (fun o => (treeExt o).isSome) false

/-- R299, R166: every atomic checks its aligned address when it fires and is queued for the commit. -/
def Obligations.AtomicsQueue : Prop := ∀ (h : Hdr) (w : Width) (f : FFmt) (m : Rm) (b : Bool) (l : LayA),
  QueuesAtomic (.aadd h w l) l (w.bits / 8) ∧ QueuesAtomic (.aand h w l) l (w.bits / 8) ∧
  QueuesAtomic (.aor h w l) l (w.bits / 8) ∧ QueuesAtomic (.axor h w l) l (w.bits / 8) ∧
  QueuesAtomic (.amin h w l) l (w.bits / 8) ∧ QueuesAtomic (.amax h w l) l (w.bits / 8) ∧
  QueuesAtomic (.aminu h w l) l (w.bits / 8) ∧ QueuesAtomic (.amaxu h w l) l (w.bits / 8) ∧
  QueuesAtomic (.aswap h w l) l (w.bits / 8) ∧ QueuesAtomic (.acas h w l) l (w.bits / 8) ∧
  QueuesAtomic (.aadds h w b l) l (w.bits / 8) ∧ QueuesAtomic (.aaddb h w l) l (w.bits / 8) ∧
  QueuesAtomic (.afadd h f m l) l ((fmtOf f).w / 8) ∧ QueuesAtomic (.afmin h f b l) l ((fmtOf f).w / 8) ∧
  QueuesAtomic (.afmax h f b l) l ((fmtOf f).w / 8)

/-- R53, R164, R165, R168, R296: a local LD that nothing holds and that is one single-copy atomic unit delivers its bytes, those of
the context's earlier stores on top, little-endian and extended as S says, as two halves when X2; one of several units goes
unit by unit to its home; a remote one waits to be issued; a bad address faults. -/
def Obligations.LoadsDeliver : Prop := ∀ (h : Hdr) (w : Width) (sgn at_ x2 : Bool) (l : LayA) (s : State) (e : Env),
  let i := Instr.ld h w sgn at_ x2 l
  let n := if x2 then 16 else w.bits / 8
  let acc := e.access (e.tok .a) l.disp.toInt n at_
  CanFire s i e → s.waitOf e.wait = .emitted →
  (∀ c v, acc = .error (c, v) → exec i s = .next (s.fired e (effFault c v))) ∧
  (∀ ea p, acc = .ok (ea, .here p) → e.loadClear = true → e.localClear = true → e.storesClear (.here p) n = true →
    e.atomicAhead (.here p) n = false → unitEnd e.blk.fmode at_ p.off n 0 = n →
    exec i s = .next (s.firedTok e true (fun _ u => u) fun _ hd =>
      let d := e.localBytes p n
      let half (k : Nat) : Tok := { v := BitVec.ofNat 64 (numOf ((d.drop k).take 8)), poi := anyPoi ((d.drop k).take 8) || e.pp }
      let one : Tok := { v := if sgn then BitVec.ofInt 64 (sextN (numOf d) (8 * d.length)) else BitVec.ofNat 64 (numOf d)
                         poi := anyPoi d || e.pp }
      if x2 then { outA := if e.f.tsc = .none then .tok (half 0) else hd, outB := .tok { v := BitVec.ofNat 64 (numOf (d.drop 8)), poi := anyPoi (d.drop 8) || e.pp } }
      else { outA := if e.f.tsc = .none then .tok one else hd, outB := .tok one })) ∧
  (∀ p, e.priorStores = [] → e.localBytes p n = e.s.fetchBytes p n) ∧
  (∀ p c, e.priorStores = [c] → c.route = .here p → c.len = n → (e.s.keysOf p n).Nodup → none ∉ e.s.keysOf p n →
    e.localBytes p n = c.data) ∧
  (∀ ea p, acc = .ok (ea, .here p) → e.loadClear = true → e.localClear = true → e.storesClear (.here p) n = true →
    e.atomicAhead (.here p) n = false → unitEnd e.blk.fmode at_ p.off n 0 ≠ n → ∃ u b b' a, exec i s = .next u ∧ u.net = s.net ++ [a] ∧ a.place = some p ∧ a.op = .read ∧
      a.len = n ∧ a.done = 0 ∧ a.back = .inst e.cell e.x e.blk.id e.idx ∧ u.mem = s.mem ∧ (s.ctxAt e.cell e.x).block e.pos = some b ∧
      (u.ctxAt e.cell e.x).block e.pos = some b' ∧ (b'.insts[e.idx]?).map (fun k => k.st) = some .held) ∧
  (∀ ea t, acc = .ok (ea, .tag t) → ∃ u b b', exec i s = .next u ∧ (s.ctxAt e.cell e.x).block e.pos = some b ∧
    (u.ctxAt e.cell e.x).block e.pos = some b' ∧ b'.loads.length = b.loads.length + 1 ∧
    (b'.insts[e.idx]?).map (fun k => k.st) = some .issued)

/-- R298, R303, R65: a local LDF of full words, and a local SYNCW whose generation is reached, is answered at once with the
bytes (when the context has no store under way before it, the home's); either waits at its word otherwise. -/
def Obligations.WordWaits : Prop := ∀ (h : Hdr) (w : Width) (sgn : Bool) (l : LayA) (s : State) (e : Env) (ea : Word) (p : Place),
  s.waits = [] → s.waitOf e.wait = .emitted → e.loadClear = true → e.localClear = true →
  (CanFire s (.ldf h w sgn l) e → e.storesClear (.here p) (w.bits / 8) = true → e.atomicAhead (.here p) (w.bits / 8) = false →
    e.access (e.tok .a) l.disp.toInt (w.bits / 8) false = .ok (ea, .here p) →
    ∃ u, exec (.ldf h w sgn l) s = .next u ∧
      (s.allFull p (w.bits / 8) = true → u.waits = [] ∧
        ∃ r, u.resps = s.resps ++ [r] ∧ r.back = .inst e.cell e.x e.blk.id e.idx ∧ r.err = none ∧
          (e.c.sq = [] → (∀ b ∈ e.c.flight, b.acts = []) → r.data = s.bytesAt p (w.bits / 8))) ∧
      (s.allFull p (w.bits / 8) = false → u.resps = s.resps ∧ ∃ a, u.waits = [a] ∧ a.place = some p ∧ a.op = .ldf)) ∧
  (CanFire s (.syncw h l) e → e.storesClear (.here p) 16 = true → e.atomicAhead (.here p) 16 = false →
    e.accessMem (e.tok .a) l.disp.toInt 16 true = .ok (ea, .here p) →
    ∃ u, exec (.syncw h l) s = .next u ∧
      ((BitVec.ofNat 32 (s.syncGen p) - (e.tok .b).v.setWidth 32).toNat < 2 ^ 31 → u.waits = [] ∧
        ∃ r, u.resps = s.resps ++ [r] ∧ r.data = s.bytesAt { p with off := p.off + 8 } 4 ∧ r.err = none) ∧
      (¬ (BitVec.ofNat 32 (s.syncGen p) - (e.tok .b).v.setWidth 32).toNat < 2 ^ 31 → u.resps = s.resps ∧
        ∃ a, u.waits = [a] ∧ a.place = some p ∧ a.op = .syncw ((e.tok .b).v.setWidth 32)))

/-- R171, R172: FENCE fires with no effect of its own once every covered operation before it is performed, and raises
the fault of a covered operation dropped before it (R41); CFENCE is queued. -/
def Obligations.Fences : Prop := ∀ (h : Hdr) (seq : BitVec 5) (sc : Scope),
  (∀ s e, CanFire s (.fence h seq sc) e → e.fenceOk sc = true → (e.c.drops.find? fun d => covers sc d.2.2.2) = none →
    exec (.fence h seq sc) s = .next (s.fired e {})) ∧
  (∀ s e n c a d, CanFire s (.fence h seq sc) e → e.fenceOk sc = true →
    (e.c.drops.find? fun d => covers sc d.2.2.2) = some (n, c, a, d) → exec (.fence h seq sc) s = .next (s.fired e (effFault c a))) ∧
  Queues (.cfence h seq) (fun _ => True) (fun e => e.cmd (.cfence h seq))

/-- R302, R304, R306, R307, R376 to R378: semaphores, barriers, messages and collective ports: what each leaves for the
commit when its operands are in order. -/
def Obligations.SynchronisationQueues : Prop := ∀ (h : Hdr) (q : LayQ) (m : LayS) (seq : BitVec 5) (tsc : Scope) (ring : BitVec 5)
    (cb cp : BitVec 3),
  let clean (e : Env) : Prop := q.amt.isSome = true ∨ (e.tok .b).poi = false
  let amount (e : Env) : Nat := match q.amt with
    | some n => n.toNat
    | none => (e.tok .b).v.toNat % 2 ^ 32
  let tagOk (e : Env) : Prop := (e.tok .a).poi = false ∧ (e.tok .a).v.extractLsb' 24 40 = 0 ∧ (e.tok .a).v.extractLsb' 0 4 = 0 ∧
    (e.s.ftab.get 0 ((e.tok .a).v.extractLsb' 17 7).toNat).getLsbD 15 = true
  let owns (e : Env) : Prop := e.ownsPort cp = true
  Acquires (.sacq h q) clean (fun e => { e.cmd (.sacq h q) with len := amount e }) ∧
  Acquires (.sacqt h q) clean (fun e => { e.cmd (.sacqt h q) with len := amount e }) ∧
  Queues (.srel h q) clean (fun e => { e.cmd (.srel h q) with len := amount e }) ∧
  Queues (.sbar h seq tsc ring) (fun e => (e.s.ringAt (ringRef e.cell ring.toNat)).valid = true) (fun e => e.cmd (.sbar h seq tsc ring)) ∧
  Acquires (.cbar h seq cb)
    (fun e => ((e.s.clusterAt (clusterOf e.cell)).cb.get {} cb.toNat).mask.getLsbD (4 * (e.cell % 16) + e.x) = true)
    (fun e => e.cmd (.cbar h seq cb)) ∧
  Queues (.send h m) tagOk (fun e => { e.cmd (.send h m) with ea := (e.tok .a).v }) ∧
  Queues (.wake h m) tagOk (fun e => { e.cmd (.wake h m) with ea := (e.tok .a).v }) ∧
  Queues (.cpost h seq tsc cp) (fun e => owns e ∧
      e.bufferFault (e.tok .a) (fld ((e.s.cellAt e.cell).cpcfg.get 0 cp.toNat) 0 32) = none ∧
      e.bufferFault (e.tok .b) (fld ((e.s.cellAt e.cell).cpcfg.get 0 cp.toNat) 0 32) = none)
    (fun e => e.cmd (.cpost h seq tsc cp)) ∧
  Queues (.cabrt h seq tsc cp) owns (fun e => e.cmd (.cabrt h seq tsc cp)) ∧
  Acquires (.cwait h seq cp) owns (fun e => e.cmd (.cwait h seq cp)) ∧
  Acquires (.cwaitChk h seq cp) owns (fun e => e.cmd (.cwaitChk h seq cp)) ∧
  Acquires (.cpoll h seq cp) owns (fun e => e.cmd (.cpoll h seq cp))

/-- R137, R311, R319 to R333, R448 to R450, Table 19-2: a vector instruction is charged and queues its command; the
instructions with an address or a conversion word first check it, and a check that fails is the instruction's fault. -/
def Obligations.VectorQueues : Prop := ∀ (h : Hdr) (w : Width) (o : VOp) (r : LayR) (l : LayL) (x : LayX) (bm : LayB) (k : BitVec 3)
    (b : Bool),
  let plain (i : Instr) (n : Nat) : Prop := Engages i false (fun _ => n) (fun _ => True)
  let checked (i : Instr) (chk : Env → Option (Cause × Word)) : Prop :=
    Engages i false (fun _ => 1) (fun e => chk e = none) ∧ EngineFaults i false (fun _ => 1) (fun e c v => chk e = some (c, v))
  checked (.vld h w l) (fun e => e.lineChk l false) ∧ checked (.vst h w l) (fun e => e.lineChk l true) ∧
  checked (.vlds h w l) (fun e => e.strideChk w l false) ∧ checked (.vsts h w l) (fun e => e.strideChk w l true) ∧
  checked (.vgath h w x) Env.baseChk ∧ checked (.vscat h w x) Env.baseChk ∧ checked (.vcst h w l) Env.cstChk ∧
  checked (.vcvt h r) (fun e => if (convWordOf (e.tok .b).v).any (fun c => vcvtOk c r.vb.toNat) then none
    else some (0x01, (e.tok .b).v)) ∧
  plain (.vmov h w r) 1 ∧ plain (.vadd h o r) 1 ∧ plain (.vsub h o r) 1 ∧ plain (.vmul h o r) 1 ∧ plain (.vfma h o r) 1 ∧
  plain (.vdiv h o r) 4 ∧ plain (.vsqrt h o r) 4 ∧ plain (.vmin h o r) 1 ∧ plain (.vmax h o r) 1 ∧ plain (.vabs h o r) 1 ∧
  plain (.vneg h o r) 1 ∧ plain (.vand h w r) 1 ∧ plain (.vor h w r) 1 ∧ plain (.vxor h w r) 1 ∧ plain (.vshl h w b r) 1 ∧
  plain (.vshr h w b r) 1 ∧ plain (.vsar h w b r) 1 ∧ plain (.vcmp h o r) 1 ∧ plain (.vmask h w k r) 1 ∧ plain (.vsel h w r) 1 ∧
  plain (.vred h o r) 2 ∧ plain (.vscan h o r) 2 ∧ plain (.vperm h w b r) 1 ∧ plain (.vbcast h w b r) 1 ∧ plain (.vext h w r) 1 ∧
  plain (.vins h w r) 1 ∧ plain (.vexp h o r) 3 ∧ plain (.vlog h o r) 3 ∧ plain (.vrsq h o r) 3 ∧ plain (.vtanh h o r) 3 ∧
  plain (.vbms h o bm) 2 ∧ plain (.vsrch h o r) 2

/-- R137, R340, R357, R359, R450, R361, Table 15-8: a matrix instruction whose slew window and energy bucket take its charge fires,
is charged and leaves its command for the MXE queue at the commit; MMA, MMASP and MMSC first check their format word, MDRN and
MDRNT their ports, and a check that fails is the instruction's fault.  The charge of MMA, MMASP and MMSC is the row of the pair that
the format word names; that a poisoned word is charged by its value all the same, and one whose pair has no row is charged nothing, is
the model's reading (log 67, DEDUCED, unsafe for exactly this claim). -/
def Obligations.MatrixQueues : Prop := ∀ (h : Hdr) (seq t u v : BitVec 5) (exp : BitVec 7) (lf : LaneFmt) (l : LayM) (d : LayD) (c : Comb)
    (by_ : ScaleBy) (a40 : Bool) (m : Rm) (s : State) (e : Env),
  let queued (i : Instr) (n : Nat) : Prop := ∃ z, exec i s = .next z ∧
    z = s.firedTok e false (fun _ y => y.charge e.cell true n) fun tk hd =>
      { outA := hd, acts := [.engine { e.cmd i with tok := tk, slots := e.f.slotTargets }] }
  let faults (i : Instr) (n : Nat) (k : Cause) (w : Word) : Prop :=
    exec i s = .next (((s.onCell e.cell fun y => y.issued e.x e.num).charge e.cell true n).put e (effFault k w))
  let plain (i : Instr) (n : Nat) : Prop := CanFire s i e → e.engOk true n = true → queued i n
  let mma (i : Instr) : Prop := CanFire s i e → e.engOk true (mmaCharge i (e.tok .a).v) = true →
    ((e.tok .a).poi = false → (mmaPath i (e.tok .a).v).isSome = true → queued i (mmaCharge i (e.tok .a).v)) ∧
    ((e.tok .a).poi = false → mmaPath i (e.tok .a).v = none → faults i (mmaCharge i (e.tok .a).v) 0x01 (e.tok .a).v) ∧
    ((e.tok .a).poi = true → faults i (mmaCharge i (e.tok .a).v) 0x09 (e.tok .a).v)
  let drain (i : Instr) (wakes : Bool) : Prop := CanFire s i e → e.engOk true 48 = true →
    (e.drainChk d wakes = none → queued i 48) ∧ (∀ k w, e.drainChk d wakes = some (k, w) → faults i 48 k w)
  plain (.mclaim h seq t exp) 0 ∧ plain (.mrel h seq t) 0 ∧ plain (.mclr h seq t lf) 0 ∧ mma (.mma h l) ∧ mma (.mmasp h l u) ∧
  mma (.mmsc h l u) ∧ plain (.mscl h seq t by_) 32 ∧ plain (.mcomb h seq t u c) 32 ∧ drain (.mdrn h d) false ∧
  drain (.mdrnt h d) true ∧ plain (.mtrn h seq t) 32 ∧ plain (.mcvt h seq t a40 m) 32 ∧ plain (.macc h seq t u v) 32 ∧
  plain (.mstat h seq) 0

/-- R137, R367: a transfer instruction with clean address ports and command word queues its command; a poisoned one
faults, but for the pattern of XFILL, which is data. -/
def Obligations.TransferQueues : Prop := ∀ (h : Hdr) (seq ring : BitVec 5) (sp dp : BitVec 10) (n : BitVec 16),
  let sent (i : Instr) (ok : Env → Prop) : Prop := ∀ s e, CanFire s i e → ok e →
    exec i s = .next (s.firedTok e false (fun _ u => u) fun tk hd =>
      { outA := hd, acts := [.engine { e.cmd i with tok := tk, slots := e.f.slotTargets }] })
  let moves (i : Instr) : Prop :=
    sent i (fun e => (e.tok .a).poi = false ∧ (e.tok .b).poi = false ∧ (e.tok .hi).poi = false) ∧
    (∀ s e, CanFire s i e → (e.tok .a).poi = true → exec i s = .next (s.fired e (effFault 0x09 (e.tok .a).v)))
  moves (.xcpy h seq) ∧ moves (.xc2d h seq sp dp) ∧ moves (.xgath h seq n) ∧ moves (.xscat h seq n) ∧
  sent (.xfill h seq) (fun e => (e.tok .b).poi = false ∧ (e.tok .hi).poi = false) ∧
  sent (.xarr h seq ring) (fun _ => True) ∧ sent (.xqry h seq) (fun _ => True)

/-- R379 to R381: a vault-sequencer instruction with clean ports sends its command at the commit. -/
def Obligations.VaultCommandsSent : Prop := ∀ (h : Hdr),
  let sends (i : Instr) : Prop := ∀ s e, CanFire s i e → (∀ q ∈ usedPorts e.f e.n, (e.tok q).poi = false) →
    exec i s = .next (s.fired e { acts := [.dvault { e.cmd i with slots := e.f.slotTargets }] })
  sends (.drun h) ∧ sends (.drunRel h) ∧ sends (.drunRes h) ∧ sends (.drunResp h) ∧ sends (.dstop h) ∧ sends (.dstopEnd h) ∧
  sends (.dpos h) ∧ sends (.dposElap h) ∧ sends (.dposT0 h)

/-- R382 to R389: what the control-register, system-call, debug, binding, block-cache and message-wait instructions deliver
and leave for the commit. -/
def Obligations.SystemInstructions : Prop := ∀ (h : Hdr) (n : BitVec 12) (svc : BitVec 8) (code : BitVec 16),
  (∀ s e, CanFire s (.csrr h n) e → e.csrFree n →
    exec (.csrr h n) s = .next (((s.onCell e.cell fun k => k.issued e.x e.num).csrSide e.cell n.toNat).put e
      (e.value (BitVec.ofNat 64 ((s.onCell e.cell fun k => k.issued e.x e.num).csrRead e.cell e.x n.toNat)) false))) ∧
  (∀ s e, CanFire s (.csrw h n) e → (e.tok .a).poi = false →
    exec (.csrw h n) s = .next (s.fired e { acts := [.csr n .w (e.tok .a).v] })) ∧
  (∀ s e i op, (i = .csrs h n ∧ op = CsrOp.s ∨ i = .csrc h n ∧ op = CsrOp.c ∨ i = .csrx h n ∧ op = CsrOp.x) → CanFire s i e →
    e.csrFree n → (e.tok .a).poi = false →
    let old : Word := BitVec.ofNat 64 ((s.onCell e.cell fun k => k.issued e.x e.num).csrRead e.cell e.x n.toNat)
    exec i s = .next (((s.onCell e.cell fun k => k.issued e.x e.num).csrSide e.cell n.toNat).put e
      { e.value old false with
        acts := [.csr n op (match op with
          | .s => old ||| (e.tok .a).v
          | .c => old &&& ~~~(e.tok .a).v
          | _ => (e.tok .a).v)] })) ∧
  Fires (.scall h svc) (fun e => { exit := some (if e.pp
    then .addr { v := (e.s.cellAt e.cell).svbase + 128 * svc.setWidth 64, poi := true }
    else .scall ((e.s.cellAt e.cell).svbase + 128 * svc.setWidth 64) (e.tok .a).v) }) ∧
  Fires (.sret h) (fun e => { exit := some (.sret { v := (e.tok .a).v, poi := (e.tok .a).poi || e.pp }) }) ∧
  (∀ s e, CanFire s (.brk h code) e → (e.s.cellAt e.cell).hgrp.getLsbD 32 = false → exec (.brk h code) s = .next (s.fired e {})) ∧
  (∀ s e, CanFire s (.brk h code) e → (e.s.cellAt e.cell).hgrp.getLsbD 32 = true →
    exec (.brk h code) s = .next (((s.onCell e.cell fun k => k.issued e.x e.num).signal
      ((e.s.cellAt e.cell).hgrp.extractLsb' 16 16)).put e (effFault 0x0C (code.setWidth 64)))) ∧
  Fires (.xtrig h) (fun e => if (e.tok .a).poi then effFault 0x09 (e.tok .a).v else { acts := [.trig (e.tok .a).v] }) ∧
  (∀ s e r, CanFire s (.tbind h) e → bindTarget (e.tok .a).v = some r →
    exec (.tbind h) s = .next (s.fired e { acts := [.bind { e.cmd (.tbind h) with slots := e.f.slotTargets } (some r)] })) ∧
  (∀ s e, CanFire s (.tbind h) e → bindTarget (e.tok .a).v = none →
    exec (.tbind h) s = .next (s.fired e (effFault 0x06 (e.tok .a).v))) ∧
  Fires (.tbindGen h) (fun e => { acts := [.bind { e.cmd (.tbindGen h) with slots := e.f.slotTargets } none] }) ∧
  Fires (.bcinv h) (fun _ => { acts := [.bcinv none] }) ∧
  Fires (.bcinvLine h) (fun e => { acts := [.bcinv (some ((e.tok .a).v &&& ~~~(63 : Word)))] }) ∧
  Fires (.wfm h) (fun e => { exit := some (.wfm { v := (e.tok .a).v, poi := (e.tok .a).poi || e.pp }) })

/-- R183, R184, R191 to R193, R196, R227, R251, Table 18-2: the life of a block: it enters behind those in flight, commits its
slot writes and exit as a unit, or faults and stops its context, the others changing at most in what they have yielded to (R253); a
slot's life ends; a late drop stops the context. -/
def Obligations.BlockLife : Prop := ∀ (s : State) (cell x : Nat),
  let c := s.ctxAt cell x
  (∀ b, s.entryOpen cell = true → s.plan cell x = .enter b → s.nextIn cell = some x →
    Gives (.blockEntry cell x) s fun t => (t.cellAt cell).entered = true ∧ (t.cellAt cell).lastIn = x ∧
      (t.ctxAt cell x).flight.map (fun k => k.id) = c.flight.map (fun k => k.id) ++ [b.id]) ∧
  (∀ b k tok, s.oldest cell x = some b → s.canCommit cell x b (fun _ => false) = true → b.acqs = [] → b.acts = [] →
    b.exits = [(k, .addr tok)] →
    Gives (.blockCommit cell x) s fun t => (t.ctxAt cell x).ccount = c.ccount + 1 ∧ (t.ctxAt cell x).next = .at_ tok.v ∧
      (t.ctxAt cell x).flight.map (fun k => k.id) = c.flight.tail.map (fun k => k.id) ∧ (t.ctxAt cell x).stopped = c.stopped ∧
      (∀ w ∈ b.swr, (∀ v ∈ b.swr, v.1 = w.1 → v = w) → (t.ctxAt cell x).slotAt w.1 =
        { v := w.2.2.v, poi := w.2.2.poi, hnd := w.2.2.hnd, life := w.2.1, wrote := some (c.ccount + 1) })) ∧
  (∀ b f, s.oldest cell x = some b → (b.entryFault.isSome = true ∨ s.complete cell x b = true) → s.commitFault cell x b = some f →
    Gives (.blockCommit cell x) s fun t =>
      StoppedBy t c cell x f.cause 0 0 (b.faultPoison f) b.addr (BitVec.ofNat 8 f.idx) f.tval ∧
      t.mem = s.mem ∧ (t.ctxAt cell x).ccount = c.ccount ∧ (t.ctxAt cell x).sq = c.sq ∧
      ∀ i j, 4 * i + j ≠ 4 * cell + x → ∃ y, t.ctxAt i j = { s.ctxAt i j with yieldTo := y }) ∧
  (∀ n w, n < 64 → (c.slotAt (BitVec.ofNat 6 n)).wrote = some w → (c.slotAt (BitVec.ofNat 6 n)).life ≠ 0 →
    lifeOf (c.slotAt (BitVec.ofNat 6 n)).life ≤ (c.ccount - w).toNat →
    Gives (.slotExpiry cell x n) s fun t =>
      (t.ctxAt cell x).slotAt (BitVec.ofNat 6 n) = { c.slotAt (BitVec.ofNat 6 n) with wrote := none } ∧
      ∀ m < 64, m ≠ n → (t.ctxAt cell x).slotAt (BitVec.ofNat 6 m) = c.slotAt (BitVec.ofNat 6 m)) ∧
  (∀ n l tok, c.lands[n]? = some l → l.val = some tok → (∀ k ∈ c.lands.take n, k.slot ≠ l.slot) →
    Gives (.resultLanding cell x n) s fun t => (t.ctxAt cell x).slotAt l.slot =
        { v := tok.v, poi := tok.poi, hnd := tok.hnd, life := l.life, wrote := some c.ccount } ∧
      (t.ctxAt cell x).lands = c.lands.eraseIdx n ∧ ∀ m, m ≠ l.slot → (t.ctxAt cell x).slotAt m = c.slotAt m) ∧
  (c.lateDrop = true → c.flight = [] → c.stopped = false →
    Gives (.lateDropStop cell x) s fun t =>
      StoppedBy t c cell x (c.sterr.extractLsb' 56 8) 0 0 false c.nextAddr 0xFF c.sterra ∧ (t.ctxAt cell x).lateDrop = false)

/-- R164, R296, R53: a local store at the head of the store queue whose token has come writes its bytes at its place, in one
piece when it is a single-copy atomic unit (no access crosses a line of 64 bytes, R30, so that none leaves one of 128), and
nothing else; each written unit's poison follows R296; the entry leaves; a waiter that the step releases may empty words, and with
none waiting the memory is exactly what the writes leave. -/
def Obligations.LocalStoreWrites : Prop := ∀ (s : State) (cell x : Nat) (c : Cmd) (q : List Cmd) (h : Hdr) (w : Width) (at_ x2 : Bool)
    (l : LayA) (p : Place),
  s.mem.wf = true → (s.fieldAt (fieldOf cell)).gated = false →
  (s.ctxAt cell x).sq = c :: q → c.cell = cell → c.x = x → s.waitOf c.wait = .emitted → c.i = .st h w at_ x2 l → c.route = .here p →
  (∃ k, p.r = .tcm k ∨ p.r = .csp k) → c.done = 0 → unitEnd c.fmode at_ p.off c.len 0 = c.len → c.data.length = c.len →
  p.off % 128 + c.len ≤ 128 →
  Gives (.storeQueueLeave cell x) s fun t => (t.ctxAt cell x).sq = q ∧
    s.Woken (s.mem.applyAll (s.writeOps p c.data)) t.mem ∧
    (∀ i k, i < c.len → s.key p.r (p.off + i) = some k → (∀ j, i < j → j < c.len → s.key p.r (p.off + j) ≠ some k) →
      some (t.mem.read k) = (c.data[i]?).map (fun d => d.1)) ∧
    (∀ k, (∀ i < c.len, s.key p.r (p.off + i) ≠ some k) → t.mem.read k = s.mem.read k)

/-- Table 13-3: the value an atomic writes from the old value and its operands at the width, and when a comparing one
writes nothing. -/
def Obligations.AtomicValues : Prop := ∀ (frm : BitVec 3) (h : Hdr) (w : Width) (l : LayA) (x y z : BitVec w.bits),
  let val (i : Instr) : Option Nat := atomicNew frm i x.toNat y.toNat z.toNat
  val (.aadd h w l) = some (x + y).toNat ∧ val (.aand h w l) = some (x &&& y).toNat ∧ val (.aor h w l) = some (x ||| y).toNat ∧
  val (.axor h w l) = some (x ^^^ y).toNat ∧ val (.amin h w l) = some (if x.sle y then x else y).toNat ∧
  val (.amax h w l) = some (if x.sle y then y else x).toNat ∧ val (.aminu h w l) = some (if x.ule y then x else y).toNat ∧
  val (.amaxu h w l) = some (if x.ule y then y else x).toNat ∧ val (.aswap h w l) = some y.toNat ∧
  val (.acas h w l) = (if x = y then some z.toNat else none) ∧
  val (.aaddb h w l) = (if x.toNat + y.toNat ≤ z.toNat then some (x.toNat + y.toNat) else none) ∧
  val (.aadds h w true l) = some (min (x.toNat + y.toNat) (2 ^ w.bits - 1)) ∧
  val (.aadds h w false l) = some (BitVec.ofInt w.bits (clampS w (x.toInt + y.toInt))).toNat

/-- R232, R299, R300, R178: a local atomic at the head of the store queue reads, combines and writes its width at its place in one
step, with the poison of every operand it read, its predicate's among them; the old value goes to its slots. -/
def Obligations.LocalAtomicActs : Prop := ∀ (s : State) (cell x : Nat) (c : Cmd) (q : List Cmd) (p : Place),
  (s.fieldAt (fieldOf cell)).gated = false →
  (s.ctxAt cell x).sq = c :: q → c.cell = cell → c.x = x → s.waitOf c.wait = .emitted →
  (∃ h w l u f m, c.i = .aadd h w l ∨ c.i = .aand h w l ∨ c.i = .aor h w l ∨ c.i = .axor h w l ∨ c.i = .amin h w l ∨ c.i = .amax h w l ∨
    c.i = .aminu h w l ∨ c.i = .amaxu h w l ∨ c.i = .aswap h w l ∨ c.i = .acas h w l ∨ c.i = .aadds h w u l ∨ c.i = .aaddb h w l ∨
    c.i = .afadd h f m l ∨ c.i = .afmin h f u l ∨ c.i = .afmax h f u l) →
  c.route = .here p → (∃ k, p.r = .tcm k ∨ p.r = .csp k) →
  let n := atomicBits c.i / 8
  let old := s.bytesAt p n
  let poi := anyPoi old || c.b.poi || (atomicHi c.i && c.hi.poi) || c.pp
  p.off % 128 + n ≤ 128 →
  Gives (.storeQueueLeave cell x) s fun t => (t.ctxAt cell x).sq = q ∧
    s.Woken (match atomicNew c.frm c.i (numOf old) (c.b.v.toNat % 2 ^ atomicBits c.i) (c.hi.v.toNat % 2 ^ atomicBits c.i) with
      | some v => s.mem.applyAll (s.writeOps p (bytesOf n v poi))
      | none => s.mem) t.mem ∧
    (t.ctxAt cell x).lands = ((s.ctxAt cell x).result c.id { v := BitVec.ofNat 64 (numOf old), poi := anyPoi old }).lands

/-- R50, R149, R150, R164, R170, R172, R302, R304, R307, R309: what the other entries do when they leave the store queue: a release
adds to its semaphore and saturates, or waits for the next core cycle when something has been acquired from it in this one;
an arrival is recorded, a message is injected with its check bits, a TREEINJ operand joins the inject queue, a CFENCE is
done, and an entry whose token carries an error is dropped and counted, and gives back the room it holds. -/
def Obligations.StoreQueueActs : Prop := ∀ (s : State) (cell x : Nat) (c : Cmd) (q : List Cmd),
  (s.fieldAt (fieldOf cell)).gated = false → (s.ctxAt cell x).sq = c :: q → c.cell = cell → c.x = x →
  let leave (P : State → Prop) : Prop := Gives (.storeQueueLeave cell x) s P
  (s.waitOf c.wait = .waiting → exec (.storeQueueLeave cell x) s = .next s) ∧
  (∀ h l, s.waitOf c.wait = .emitted → c.i = .srel h l → (s.cellAt cell).acqNow.contains l.q.toNat = true →
    leave fun t => (t.ctxAt cell x).sq = q ∧ (t.cellAt cell).sem = (s.cellAt cell).sem ∧
      (t.cellAt cell).semLate = (s.cellAt cell).semLate ++ [(l.q.toNat, c.len)]) ∧
  (∀ h l, s.waitOf c.wait = .emitted → c.i = .srel h l → (s.cellAt cell).acqNow.contains l.q.toNat = false →
    leave fun t => (t.ctxAt cell x).sq = q ∧
    ((t.cellAt cell).sem.get 0 l.q.toNat).toNat = min (((s.cellAt cell).sem.get 0 l.q.toNat).toNat + c.len) (2 ^ 32 - 1)) ∧
  (∀ h seq, s.waitOf c.wait = .emitted → c.i = .cfence h seq → leave fun t => (t.ctxAt cell x).sq = q) ∧
  (∀ h l, s.waitOf c.wait = .emitted → c.i = .send h l ∨ c.i = .wake h l → s.holds.contains (fld c.ea 17 7) = false →
    leave fun t => (t.ctxAt cell x).sq = q ∧ ∃ a m, t.net = s.net ++ [a] ∧ a.op = .message m ∧ m.tag = c.ea.setWidth 24 ∧
      m.vc = l.vc.toNat ∧ m.words.length = c.ws.length + 1 ∧ a.flit = some (Config.flitCheck (m.bits a.gen) ++ m.bits a.gen)) ∧
  (∀ h seq tsc r d, s.waitOf c.wait = .emitted → c.i = .sbar h seq tsc r → s.engRing c = false →
    (s.ringAt (ringRef cell r.toNat)).arrive (ringBitCtx (ringRef cell r.toNat) cell x) = some d →
    leave fun t => (t.ctxAt cell x).sq = q ∧ t.ringAt (ringRef cell r.toNat) = d) ∧
  (∀ h w at_ x2 l o, s.waitOf c.wait = .emitted → c.i = .st h w at_ x2 l → c.route = .mmio o → treeInj o = true →
    Gives (.treeinjPush cell x) s fun t => (t.ctxAt cell x).sq = q ∧
      (t.cellAt cell).inj = (s.cellAt cell).inj ++ [(o / 8, { v := c.b.v, poi := c.b.poi })]) ∧
  (∀ cause a, s.waitOf c.wait = .error cause a → leave fun t => (t.ctxAt cell x).sq = q ∧ t.mem = s.mem ∧
    (t.cellAt cell).injRes = (s.cellAt cell).injRes - (if c.treeChan.isSome then 1 else 0) ∧
    fld (t.ctxAt cell x).sterr 32 16 = min (fld (s.ctxAt cell x).sterr 32 16 + 1) 65535)

/-- R57, R163, R165, R41, R154, R418, R423: a remote load leaves once every earlier store has left and no fence or acquire holds it (a
redirected spill load also waits for the stores before it in its block); an answer with an error becomes the load's fault, the
answer of a queued operation waits for its slot; none comes before its data, past a failed router (R418), nor to a cell that is scanned
out. -/
def Obligations.RemoteAnswers : Prop := ∀ (s : State) (cell x n : Nat),
  (∀ b c a, s.oldest cell x = some b → b.nextLoad = some c → c.route = .tag a → s.waitOf c.wait = .emitted →
    (s.ctxAt cell x).sq = [] → b.holdsLoads c.idx = false → s.heldTag a = false →
    (fld c.ea 61 3 = 1 → b.storeAhead c.idx = false) →
    Gives (.remoteLoadIssue cell x) s fun t => ∃ q, t.net = s.net ++ [q] ∧ q.addr = a ∧ q.len = c.len ∧ q.vc = c.rvc ∧
      q.gen = s.gen.setWidth 2 ∧ q.back = .inst cell x b.id c.idx ∧ t.mem = s.mem) ∧
  (∀ b c a, s.oldest cell x = some b → b.nextLoad = some c → c.route = .tag a → s.waitOf c.wait = .emitted →
    ((s.ctxAt cell x).sq ≠ [] ∨ b.holdsLoads c.idx = true ∨ s.heldTag a = true ∨ fld c.ea 61 3 = 1 ∧ b.storeAhead c.idx = true) →
    exec (.remoteLoadIssue cell x) s = .next s) ∧
  (∀ r id sgn, s.resps[n]? = some r → r.back = .slot cell x id sgn → r.due ≤ s.vtime.toNat → s.asleep cell = false → s.respStops r = false →
    Gives (.loadResponse n) s fun t => t.resps = s.resps.eraseIdx n ∧
      t.ctxAt cell x = (s.ctxAt cell x).result id (tokOfBytes sgn r.data) ∧ t.mem = s.mem) ∧
  (∀ r blk idx pos b i f k cause, s.resps[n]? = some r → r.back = .inst cell x blk idx → r.err = some cause → r.due ≤ s.vtime.toNat → s.asleep cell = false →
    s.respStops r = false → (s.ctxAt cell x).posOf blk = some pos → (s.ctxAt cell x).block pos = some b → b.instr idx = some i → infoOf i = some f →
    b.insts[idx]? = some k → k.st = .issued → r.tok = none →
    Gives (.loadResponse n) s fun t => t.resps = s.resps.eraseIdx n ∧ t.mem = s.mem ∧ ∃ b', (t.ctxAt cell x).block pos = some b' ∧
      b'.faults = b.faults ++ [{ idx := idx, cause := cause, tval := r.addr }] ∧ b'.excd = true) ∧
  (∀ r, s.resps[n]? = some r → (s.vtime.toNat < r.due ∨ s.respStops r = true ∨ ∃ k, r.back.cell = some k ∧ s.asleep k = true) →
    exec (.loadResponse n) s = .next s)

/-- R43, R53, R161, R163, R41: an access that comes first of its source, home and VC is performed at its home: a read answers
with the bytes there, a write changes exactly its bytes, an atomic gives the old value and writes the new one; one
whose translation fails is answered with the cause; one behind another of its order waits; waiters that a write releases are answered first (R65, R303).  A local load gets the bytes of
its context's earlier stores on top (R164). -/
def Obligations.HomeAccesses : Prop := ∀ (s : State) (n : Nat) (a : Acc), s.net[n]? = some a → s.stale a = false → s.accHeld a = false →
  s.routerStops a = false → (a.place.isSome = true ∨ a.ring.isSome = true ∨ fld a.addr 61 3 ≠ 1) →
  (s.firstAtHome n a = false → exec (.homeAccess n) s = .next s) ∧
  (s.firstAtHome n a = true →
    (∀ c cell x blk idx, s.accPlace a = .error c → a.back = .inst cell x blk idx → a.op.isMessage = false → a.op.isCount = false →
      Gives (.homeAccess n) s fun t => t.net = s.net.eraseIdx n ∧ t.mem = s.mem ∧
        s.Answered t a [] (some c)) ∧
    (∀ p, s.accPlace a = .ok p → (∃ k, p.r = .tcm k ∨ p.r = .csp k) → a.done = 0 → unitEnd a.fmode a.at_ p.off a.len 0 = a.len → a.back ≠ .none →
      p.off % 128 + a.len ≤ 128 →
      (a.op = .read → a.got = [] → Gives (.homeAccess n) s fun t => t.net = s.net.eraseIdx n ∧ t.mem = s.mem ∧
        ∃ d, s.Answered t a d none ∧ d = s.forwarded a p (s.bytesAt p a.len) ∧
          (fld a.addr 61 3 = 0 ∨ fld a.addr 61 3 = 7 → d = s.bytesAt p a.len)) ∧
      (∀ d, a.op = .write d → d.length = a.len → s.codeWrite p a.len (a.sup && !a.byTxe) = false →
        Gives (.homeAccess n) s fun t => t.net = s.net.eraseIdx n ∧ s.Woken (s.stored p d).mem t.mem ∧
          s.AnsweredLast t a [] none) ∧
      (∀ c v, a.op = .atomic c → (∀ k x, a.who ≠ .vxe k x) → a.lead = none → p.off % 128 + atomicBits c.i / 8 ≤ 128 →
        s.codeWrite p a.len (a.sup && !a.byTxe) = false →
        atomicNew c.frm c.i (numOf (s.bytesAt p (atomicBits c.i / 8))) (c.b.v.toNat % 2 ^ atomicBits c.i)
          (c.hi.v.toNat % 2 ^ atomicBits c.i) = some v →
        Gives (.homeAccess n) s fun t => t.net = s.net.eraseIdx n ∧
          s.Woken (s.stored p (bytesOf (atomicBits c.i / 8) v
            (anyPoi (s.bytesAt p (atomicBits c.i / 8)) || c.b.poi || (atomicHi c.i && c.hi.poi) || c.pp))).mem t.mem ∧
          s.AnsweredLast t a (s.bytesAt p (atomicBits c.i / 8)) none)))

/-- R65, R151, R152, R303: counted arrivals advance a sync word by whole generations and leave the rest as its count; the waiter
of a word is served as soon as the word is full, or its generation is reached, and not before. -/
def Obligations.SyncWords : Prop := ∀ (s : State) (n unit k : Nat) (a : Acc) (p : Place),
  let total := s.numAt p 4
  let cnt := s.numAt { p with off := p.off + 4 } 4 + k
  let flags := s.numAt { p with off := p.off + 12 } 4
  let full (t : State) : Mem := t.mem.applyAll (t.fullOps { p with off := p.off + 8 } 8 true)
  (s.net[n]? = some a → a.op = .count k false → s.firstAtHome n a = true → s.stale a = false → s.accHeld a = false →
    s.routerStops a = false → fld a.addr 61 3 ≠ 1 → s.accPlace a = .ok p → (∃ c, p.r = .tcm c ∨ p.r = .csp c) → a.back ≠ .none →
    s.waits = [] →
    Gives (.syncWordArrival n) s fun t => t.net = s.net.eraseIdx n ∧ s.Answered t a [] none ∧
      (total = 0 → t.mem = (s.storedWord p (min cnt (2 ^ 32 - 1)) (s.syncGen p) flags).mem) ∧
      (0 < total → cnt < total → t.mem = (s.storedWord p cnt (s.syncGen p) flags).mem) ∧
      (total ≤ cnt → 0 < total → t.mem = full (s.storedWord p (cnt % total) ((s.syncGen p + cnt / total) % 2 ^ 32)
        (if 1 < cnt / total then flags ||| 2 else flags)))) ∧
  (s.waits = [a] → a.op = .ldf → a.place = some p → a.back ≠ .none →
    (s.allFull p a.len = false → exec (.fullEmptyRelease unit) s = .next s) ∧
    (s.allFull p a.len = true → Gives (.fullEmptyRelease unit) s fun t => t.waits = [] ∧ t.mem = s.mem ∧
      s.Answered t a (s.forwarded a p (s.bytesAt p a.len)) none)) ∧
  (∀ g : BitVec 32, s.waits = [a] → a.op = .syncw g → a.place = some p → a.back ≠ .none →
    let late := (BitVec.ofNat 32 (s.syncGen p) - g).toNat < 2 ^ 31
    (¬ late → exec (.syncwRelease unit) s = .next s) ∧
    (late → Gives (.syncwRelease unit) s fun t => t.waits = [] ∧ t.mem = s.mem ∧
      s.Answered t a (s.bytesAt { p with off := p.off + 8 } 4) none))


/-- R62, R70, R71, R72, R75, R304: an arrival sets the agent's ARR bit, then its PEND bit, then waits; a full ring rotates, once in a
core cycle: the stage pointer and the generation advance and PEND becomes ARR; a held load goes on once its agent is free, one
of several units unit by unit. -/
def Obligations.RingEvents : Prop := ∀ (s : State) (ring : RingRef) (cell x : Nat),
  let d := s.ringAt ring
  (∀ bit < 48, d.arrive bit = (if d.part.getLsbD bit = false then some d
    else if d.arr.getLsbD bit = false then some { d with arr := d.arr ||| 1#48 <<< bit }
    else if d.pend.getLsbD bit = false then some { d with pend := d.pend ||| 1#48 <<< bit } else none)) ∧
  (∀ c q h seq tsc r, (s.fieldAt (fieldOf cell)).gated = false → (s.ctxAt cell x).sq = c :: q →
    c.cell = cell → c.x = x → c.i = .sbar h seq tsc r → ringRef cell r.toNat = ring → s.waitOf c.wait = .emitted →
    (∀ d', s.engRing c = false ∨ d.part.getLsbD (ringBitCtx ring cell x) = false → d.arrive (ringBitCtx ring cell x) = some d' →
      Gives (.ringArrival (.ctx cell x) ring) s fun t => t.ringAt ring = d' ∧ (t.ctxAt cell x).sq = q ∧ t.mem = s.mem) ∧
    (d.arrive (ringBitCtx ring cell x) = none ∨ s.engRing c = true ∧ d.part.getLsbD (ringBitCtx ring cell x) = true →
      exec (.ringArrival (.ctx cell x) ring) s = .next s)) ∧
  (d.valid = true → d.part ≠ 0 → d.arr = d.part → d.turned = false → Gives (.ringRotation ring) s fun t =>
    let sp := BitVec.ofNat 4 ((d.sp.toNat + 1) % d.slots)
    t.ringAt ring = { d with sp := sp, gen := d.gen + 1, arr := d.pend, pend := 0, turned := true } ∧
    (d.fec = false → t.mem = s.mem) ∧
    (d.fec = true → t.mem = s.mem.applyAll (s.fullOps
      { r := ringRegion ring, off := d.base + (((sp.toNat : Int) + d.phi) % (d.slots : Int)).toNat * d.slotSize } d.slotSize false))) ∧
  (d.arr ≠ d.part ∨ d.turned = true → exec (.ringRotation ring) s = .next s) ∧
  (∀ n a k off id idx pos b i f e, s.held[n]? = some a → a.ring = some (ring, k, off) → a.back = .inst cell x id idx → a.op = .read →
    a.tok = none → (s.ctxAt cell x).posOf id = some pos → (s.ctxAt cell x).block pos = some b → b.instr idx = some i → infoOf i = some f →
    s.envAt cell x pos idx = some e → e.n.st = .held → fld (e.tok .a).v 61 3 = 3 →
    let p := s.ringPlace ring k off
    (s.ringHeld ring (ringBitCtx ring cell x) = true ∨ s.asleep cell = true → exec (.ringHoldRelease n) s = .next s) ∧
    (s.ringHeld ring (ringBitCtx ring cell x) = false → s.asleep cell = false → unitEnd a.fmode a.at_ p.off a.len 0 < a.len →
      Gives (.ringHoldRelease n) s fun t => t.held = s.held.eraseIdx n ∧ t.net = s.net ++ [a] ∧ t.mem = s.mem) ∧
    (s.ringHeld ring (ringBitCtx ring cell x) = false → s.asleep cell = false → unitEnd a.fmode a.at_ p.off a.len 0 = a.len → Gives (.ringHoldRelease n) s fun t => t.held = s.held.eraseIdx n ∧ t.mem = s.mem ∧
      (t.ctxAt cell x).block pos = some (b.finish idx f.hdr
        (s.tickOf cell) { loadEff f (loadForm i) e.pp (e.localBytes p a.len) with st := .fired })))

/-- R149, R150, R306, R377: the first waiting acquire of a semaphore takes its amount only when it is there and its block commits, and
later releases of that core cycle wait for the next; a full cluster barrier clears its arrivals and advances its generation; a CWAIT's block commits once its port is idle. -/
def Obligations.WaitServices : Prop := ∀ (s : State) (cell x q : Nat),
  (∀ w, (s.cellAt cell).semWait.find? (fun w => w.q == q) = some w → ((s.cellAt cell).sem.get 0 q).toNat < w.n →
    exec (.semaphoreAcquireServe cell q) s = .next s) ∧
  (∀ w b c h l k tok, (s.cellAt cell).semWait.find? (fun w => w.q == q) = some w → s.oldest cell w.x = some b → b.id = w.blk →
    w.n ≤ ((s.cellAt cell).sem.get 0 q).toNat → s.canCommit cell w.x b serviced = true → b.acqs = [(w.idx, c, true)] → c.i = .sacq h l →
    c.tok = none → b.acts = [] → b.excd = false → b.exits = [(k, .addr tok)] →
    Gives (.semaphoreAcquireServe cell q) s fun t =>
      ((t.cellAt cell).sem.get 0 q).toNat = ((s.cellAt cell).sem.get 0 q).toNat - w.n ∧
      (t.cellAt cell).acqNow = q :: (s.cellAt cell).acqNow ∧
      (t.cellAt cell).semWait = (s.cellAt cell).semWait.erase w ∧ (t.ctxAt cell w.x).ccount = (s.ctxAt cell w.x).ccount + 1) ∧
  (∀ cl n, let b := (s.clusterAt cl).cb.get {} n
    b.mask ≠ 0 → b.arr = b.mask →
    (∀ i < 64, ∀ k ∈ (s.ctxAt (16 * cl + i / 4) (i % 4)).flight.head?, k.acts = []) →
    Gives (.clusterBarrierComplete cl n) s fun t =>
      (t.clusterAt cl).cb.get {} n = { b with arr := 0, gen := putFld 0 0 32 (fld b.gen 0 32 + 1) } ∧ t.mem = s.mem) ∧
  (∀ b idx c h seq cp k tok, s.oldest cell x = some b → b.acqs = [(idx, c, true)] → c.i = .cwait h seq cp → s.complete cell x b = true →
    s.commitFault cell x b = none →
    ((s.cellAt cell).cpIdle cp.toNat = false → exec (.cwaitRelease cell x) s = .next s) ∧
    (s.canCommit cell x b (fun _ => false) = true → b.acts = [] → b.exits = [(k, .addr tok)] →
      Gives (.cwaitRelease cell x) s fun t => (t.ctxAt cell x).ccount = (s.ctxAt cell x).ccount + 1 ∧ (t.ctxAt cell x).next = .at_ tok.v)) ∧
  (∀ b idx c h seq cp, s.oldest cell x = some b → b.acqs = [(idx, c, true)] → c.i = .cwaitChk h seq cp → s.complete cell x b = true →
    (s.ctxAt cell x).outcome b = none → (s.cellAt cell).cpIdle cp.toNat = true → (s.cellAt cell).cpLast cp.toNat = 1 →
    Gives (.cwaitRelease cell x) s fun t =>
      StoppedBy t (s.ctxAt cell x) cell x 0x0D 0 0 false b.addr (BitVec.ofNat 8 idx) (cp.setWidth 64))

/-- R187 to R190, R308, R389: a message joins its context's queue while there is room and waits otherwise, at the router of its
destination; one for an unbound entry is counted, so that HDROP shows it from the next core cycle on (R8), and reported to the field manager; a WAKE adds to one that waits; an idle context starts the handler of its first message, its words in
s60 to s63; a context in WFM goes on with s59 naming the VC and NODE. -/
def Obligations.Messages : Prop := ∀ (s : State) (n cell x : Nat) (a : Acc) (m : Msg) (adpt : Bool),
  let c := s.ctxAt cell x
  let arrived : Prop := s.net[n]? = some a ∧ a.op = .message m ∧ s.firstAtHome n a = true ∧ s.stale a = false ∧ s.routerStops a = false ∧
    s.msgCell m.tag.toNat = .ok (some (cell, adpt))
  let entry := (s.cellAt cell).handler { m with adpt := adpt }
  (arrived → entry.getLsbD 63 = false → Gives (.messageDelivery n) s fun t => t.net = s.net.eraseIdx n ∧
    let k := s.cellAt cell
    (t.cellAt cell).hdrop = k.hdrop ∧
    (t.cellAt cell).hdropNow.toNat = (if k.hdrop.toNat + k.hdropNow.toNat < 2 ^ 32 - 1 then k.hdropNow.toNat + 1 else k.hdropNow.toNat) ∧
    (t.fieldAt (fieldOf cell)).msgDrops = (s.fieldAt (fieldOf cell)).msgDrops ++ [(m.vc, m.tag)]) ∧
  (arrived → entry.getLsbD 63 = true → fld entry 61 2 = x → m.wake = false →
    (c.mq.length < 16 → Gives (.messageDelivery n) s fun t => t.net = s.net.eraseIdx n ∧
      (t.ctxAt cell x).mq = c.mq ++ [{ m with adpt := adpt }] ∧ t.mem = s.mem) ∧
    (16 ≤ c.mq.length → exec (.messageDelivery n) s = .next { s with net := s.net.set n { a with done := 1 } })) ∧
  (∀ w v q rest, arrived → entry.getLsbD 63 = true → fld entry 61 2 = x → m.wake = true → m.words = [v] → c.mq = q :: rest →
    q.wake = true → q.vc = m.vc → fld q.tag 4 5 = fld m.tag 4 5 → q.words = [w] →
    Gives (.messageDelivery n) s fun t => t.net = s.net.eraseIdx n ∧
      (t.ctxAt cell x).mq = { q with words := [{ v := w.v + v.v, poi := w.poi || v.poi }] } :: rest) ∧
  (∀ msg rest, c.mq = msg :: rest → c.between = true → s.runs cell = true →
    let words (t : State) : Prop := ∀ i < 4,
      (∀ w, msg.words[i]? = some w → (t.ctxAt cell x).slotAt (BitVec.ofNat 6 (60 + i)) =
        { v := w.v, poi := w.poi, life := 0, wrote := some (c.ccount + 1) }) ∧
      (msg.words[i]? = none → ((t.ctxAt cell x).slotAt (BitVec.ofNat 6 (60 + i))).wrote = none)
    (c.next = .idle → Gives (.messageDispatch cell x) s fun t => (t.ctxAt cell x).mq = rest ∧ words t ∧
      (t.ctxAt cell x).next = .at_ (entryAddr ((s.cellAt cell).handler msg)) ∧ (t.ctxAt cell x).handler = true ∧
      ∀ k : BitVec 6, k.toNat < 60 → (t.ctxAt cell x).slotAt k = c.slotAt k) ∧
    (∀ addr, c.next = .wfm addr → Gives (.wfmWake cell x) s fun t => (t.ctxAt cell x).mq = rest ∧ words t ∧
      (t.ctxAt cell x).next = .at_ addr ∧
      (t.ctxAt cell x).slotAt 59 = { v := BitVec.ofNat 64 (32 * msg.vc + fld msg.tag 4 5), life := 0, wrote := some (c.ccount + 1) } ∧
      ∀ k : BitVec 6, k.toNat < 59 → (t.ctxAt cell x).slotAt k = c.slotAt k))


/-- R137, R139, R145, R367 to R372: the TXE takes its head command unless a piece of the one before it is held at its home, refuses it
by code with its status landing, copies a piece of local bytes that is one single-copy atomic unit in one access, and on completion releases its semaphore and lands its status; XQRY returns TXSTAT. -/
def Obligations.TransferEngine : Prop := ∀ (s : State) (cell n : Nat) (c : Cmd) (q : List Cmd) (h : Hdr) (seq : BitVec 5),
  let k := s.cellAt cell
  let x := s.ctxAt cell c.x
  (k.txq = c :: q → s.txBlocked cell = true → exec (.txeAccept cell) s = .next s) ∧
  (k.txq = c :: q → c.cell = cell → s.engRuns cell = true → (∀ r ∈ k.txRun, r.issuing = false ∧ r.arrive = false) →
    s.txBlocked cell = false → s.fencePast c = true →
    (c.i = .xqry h seq → (∀ r ∈ k.txRun, r.cmd.x ≠ c.x) → Gives (.txeAccept cell) s fun t =>
      (t.cellAt cell).txq = q ∧ t.ctxAt cell c.x = x.result c.id { v := x.txstat }) ∧
    (c.i = .xcpy h seq → s.txCheck c = none → (∀ a ∈ c.txAcc.1, ∀ e ∈ k.busy, e.1 ≠ a) → Gives (.txeAccept cell) s fun t =>
      (t.cellAt cell).txq = q ∧ t.mem = s.mem ∧ ∃ r, (t.cellAt cell).txRun = k.txRun ++ [r] ∧ r.cmd = c ∧ r.issuing = true ∧
        r.elem = 0 ∧ r.off = 0 ∧ r.flying = []) ∧
    (∀ code cause v, c.i = .xcpy h seq → s.txCheck c = some (code, cause, some v) → code < 9 → Gives (.txeAccept cell) s fun t =>
      (t.cellAt cell).txq = q ∧ (t.cellAt cell).txRun = k.txRun ∧ t.mem = s.mem ∧
      (t.ctxAt cell c.x).lands = (x.result c.id { v := BitVec.ofNat 64 code }).lands ∧
      (t.ctxAt cell c.x).reports = x.reports ++
        (if c.slots.isEmpty then [{ cause := cause, detail := BitVec.ofNat 8 code, src := 3, tval := v }] else []))) ∧
  (∀ r p d, k.txRun.find? (fun r => r.issuing) = some r → r.cmd.i = .xcpy h seq → r.cmd.cell = cell → s.engRuns cell = true →
    r.elem = 0 → r.acm = [] → s.txBlocked cell = false →
    (∀ e ∈ k.txRun, e.cmd.id = r.cmd.id → e = r) →
    let src := r.cmd.a.v + BitVec.ofNat 64 r.off
    let dst := r.cmd.b.v + BitVec.ofNat 64 r.off
    let len := min (min (r.cmd.txLen - r.off) 64) (min (64 - (r.cmd.b.v.toNat + r.off) % 64) (64 - (r.cmd.a.v.toNat + r.off) % 64))
    s.route cell r.cmd.x src len = .here p → s.route cell r.cmd.x dst len = .here d → (∃ j, p.r = .tcm j ∨ p.r = .csp j) →
    unitEnd r.cmd.fmode false p.off len 0 = len → p.off % 128 + len ≤ 128 →
    Gives (.txePieceIssue cell) s fun t => t.mem = s.mem ∧ ∃ a, t.net = s.net ++ [a] ∧ a.place = some d ∧ a.len = len ∧
      a.op = .engWrite (s.bytesAt p len) [] ∧ a.who = .txe cell) ∧
  (∀ r, k.txRun[n]? = some r → r.cmd.cell = cell → r.issuing = false → r.flying = [] → r.arrive = false →
    (∀ sem, r.code = 0 → r.cmd.txSem = some sem → r.cmd.txRing = none → k.acqNow.contains sem = false → Gives (.txeComplete cell n) s fun t =>
      ((t.cellAt cell).sem.get 0 sem).toNat = min ((k.sem.get 0 sem).toNat + 1) (2 ^ 32 - 1) ∧
      (t.cellAt cell).txRun = k.txRun.filter (fun e => e.cmd.id != r.cmd.id) ∧ t.ctxAt cell r.cmd.x = (s.ctxAt cell r.cmd.x).result r.cmd.id
        { v := BitVec.ofNat 64 ((if r.dropped = 0 then 0 else 8) + 2 ^ 32 * min r.dropped (2 ^ 32 - 1)) }) ∧
    (∀ v, 9 ≤ r.code → r.tval = some v → Gives (.txeComplete cell n) s fun t => (t.cellAt cell).sem = k.sem ∧
      (t.ctxAt cell r.cmd.x).lands = ((s.ctxAt cell r.cmd.x).result r.cmd.id
        { v := BitVec.ofNat 64 (r.code + 2 ^ 32 * min r.dropped (2 ^ 32 - 1)) }).lands ∧
      (t.ctxAt cell r.cmd.x).reports = (s.ctxAt cell r.cmd.x).reports ++
        [{ cause := r.cause, detail := BitVec.ofNat 8 r.code, src := 3, tval := v }]))

/-- R310, R314, R324, R325, R327, R330: what register commands leave in each lane of their destination: an active lane takes the
result, an inactive one is zeroed or kept; other registers stay. -/
def Obligations.VectorLanes : Prop := ∀ (c : Ctx) (k : Cmd) (h : Hdr) (w : Width) (l : LayR) (f : BitVec 3),
  let x (i : Nat) : Nat := (c.lane l.va.toNat w.bits i).1
  let y (i : Nat) : Nat := (c.lane l.vb.toNat w.bits i).1
  let d (i : Nat) : Nat := (c.lane l.vd.toNat w.bits i).1
  let on (i : Nat) : Bool := c.active l.km i
  let holds (i : Instr) (g : Nat → Nat) : Prop := ∃ o, vxCompute c { k with i := i } = some o ∧ o.flags = 0 ∧ o.res = none ∧
    (∀ j < 512 / w.bits, (o.c.lane l.vd.toNat w.bits j).1 = g j) ∧ (∀ r, r ≠ l.vd.toNat → o.c.vr r = c.vr r) ∧ o.c.kreg = c.kreg
  let lanes (i : Instr) (g : Nat → Nat) : Prop := holds i fun j => if on j then g j else if l.z then 0 else d j
  let mask (n : BitVec 3) (v : Word) : Prop := ∃ o, vxCompute c { k with i := .vmask h w n l } = some o ∧
    o.c.kr (l.vd.toNat % 8) = v ∧ o.c.vreg = c.vreg
  let ka := c.kr (l.va.toNat % 8)
  let kb := c.kr (l.vb.toNat % 8)
  lanes (.vmov h w l) x ∧ lanes (.vand h w l) (fun i => x i &&& y i) ∧ lanes (.vor h w l) (fun i => x i ||| y i) ∧
  lanes (.vxor h w l) (fun i => x i ^^^ y i) ∧ lanes (.vadd h { w := w, flt := false, m := 0 } l) (fun i => (x i + y i) % 2 ^ w.bits) ∧
  lanes (.vsub h { w := w, flt := false, m := 0 } l) (fun i => (x i + 2 ^ w.bits - y i) % 2 ^ w.bits) ∧
  lanes (.vmul h { w := w, flt := false, m := 0 } l) (fun i => x i * y i % 2 ^ w.bits) ∧
  lanes (.vbcast h w false l) (fun _ => k.b.v.toNat % 2 ^ w.bits) ∧
  lanes (.vperm h w false l) (fun i => x (y i % (512 / w.bits))) ∧
  holds (.vsel h w l) (fun i => if on i then x i else y i) ∧
  holds (.vins h w l) (fun i => if i = k.b.v.toNat % 64 % (512 / w.bits) then k.a.v.toNat % 2 ^ w.bits else d i) ∧
  (∃ o, vxCompute c { k with i := .vext h w l } = some o ∧ o.c = c ∧
    (o.res.map fun t => t.v) = some (BitVec.ofNat 64 (x (k.b.v.toNat % 64 % (512 / w.bits))))) ∧
  (∃ o, vxCompute c { k with i := .vcmp h { w := w, flt := false, m := f } l } = some o ∧ o.c.vreg = c.vreg ∧
    ∀ j < 512 / w.bits, (o.c.kr (l.vd.toNat % 8)).getLsbD j =
      if on j then intTest f w.bits (x j) (y j) else !l.z && (c.kr (l.vd.toNat % 8)).getLsbD j) ∧
  mask 0 (ka &&& kb) ∧ mask 1 (ka ||| kb) ∧ mask 2 (ka ^^^ kb) ∧ mask 3 (ka &&& ~~~kb) ∧ mask 4 (~~~ka) ∧ mask 5 k.b.v

/-- R137, R156, R173, R313 to R318, R489: the VXE starts its head command once its token has come and the entries before it have left;
a register command computes then, its result due within its bound of Table 7-5; one whose token carries an error performs nothing and is reported, its poisoned zero due within the same bound; a completed load
writes its lanes. -/
def Obligations.VectorEngine : Prop := ∀ (s : State) (cell : Nat) (c : Cmd) (q : List Cmd),
  let k := s.cellAt cell
  (k.vxq = c :: q → c.cell = cell → s.engRuns cell = true → s.sqPast c = true → s.vxAccs c = .ok [] → s.cstHeldBack c = false →
    (∀ r ∈ k.vxRun, r.elems = [] ∧ (r.cmd.x = c.x → isVLoad r.cmd.i = false)) →
    (s.waitOf c.wait = .waiting → exec (.vxeCommandStart cell) s = .next s) ∧
    (∀ o, s.waitOf c.wait = .emitted →
      vxCompute ((s.ctxAt cell c.x).dueBy c.id (s.tickOf cell + vxBound c.i)) c = some o → Gives (.vxeCommandStart cell) s fun t =>
      (t.cellAt cell).vxq = q ∧ t.ctxAt cell c.x = o.c ∧ t.mem = s.mem ∧ t.net = s.net ∧
      ∃ r, (t.cellAt cell).vxRun = k.vxRun ++ [r] ∧ r.cmd = c ∧ r.flags = o.flags ∧ r.res = o.res ∧ r.flying = []) ∧
    (∀ cause a, s.waitOf c.wait = .error cause a → Gives (.vxeCommandStart cell) s fun t => (t.cellAt cell).vxq = q ∧
      (t.cellAt cell).vxRun = k.vxRun ∧ (t.ctxAt cell c.x).vreg = (s.ctxAt cell c.x).vreg ∧ t.mem = s.mem ∧
      (t.ctxAt cell c.x).lands = (((s.ctxAt cell c.x).dueBy c.id (s.tickOf cell + vxBound c.i)).result c.id { v := 0, poi := true }).lands ∧
      (t.ctxAt cell c.x).reports = (s.ctxAt cell c.x).reports ++ [{ cause := cause, src := 1, tval := a }])) ∧
  (∀ n r, k.vxRun.findIdx? (fun r => r.flying.isEmpty && r.elems.isEmpty) = some n → k.vxRun[n]? = some r →
    (isVLoad r.cmd.i = false → Gives (.vxeCommandComplete cell) s fun t => (t.cellAt cell).vxRun = k.vxRun.eraseIdx n ∧
      (t.ctxAt cell r.cmd.x).vreg = (s.ctxAt cell r.cmd.x).vreg ∧
      (t.ctxAt cell r.cmd.x).vxstat = (s.ctxAt cell r.cmd.x).vxstat ||| r.flags.setWidth 64 ∧
      (∀ v, r.res = some v → (t.ctxAt cell r.cmd.x).lands = ((s.ctxAt cell r.cmd.x).result r.cmd.id v).lands)) ∧
    (∀ h w l, r.cmd.i = .vld h w l → Gives (.vxeCommandComplete cell) s fun t => ∀ i < 512 / w.bits,
      ((t.ctxAt cell r.cmd.x).lane l.vr.toNat w.bits i).1 = if (s.ctxAt cell r.cmd.x).active l.km i then (r.lane (w.bits / 8) i).1
        else if l.z then 0 else ((s.ctxAt cell r.cmd.x).lane l.vr.toNat w.bits i).1))

/-- R143, R173, R337, R338, R343 to R346, R352, R359, R362, R363: the MXE claims and releases operand tiles, waits for a tile that fills, refuses a
tile of another context and discards the later commands of its context, starts a command whose checks
pass, writes accumulators alone, lands MXSTAT, and completes no drain in a cell that is gated. -/
def Obligations.MatrixEngine : Prop := ∀ (s : State) (cell : Nat) (c : Cmd) (q : List Cmd) (h : Hdr) (seq t1 t2 : BitVec 5),
  let k := s.cellAt cell
  let ready : Prop := k.mxq = c :: q ∧ c.cell = cell ∧ s.engRuns cell = true ∧ s.sqPast c = true ∧ s.waitOf c.wait = .emitted
  let o := k.otAt t1.toNat
  (k.mxq = c :: q → c.cell = cell → s.waitOf c.wait = .waiting → exec (.mxeCommandStart cell) s = .next s) ∧
  (∀ e, ready → c.i = .mclaim h seq t1 e → Gives (.mxeCommandStart cell) s fun t => (t.cellAt cell).mxq = q ∧ t.mem = s.mem ∧
    (t.cellAt cell).otAt t1.toNat = (if o.st = 0 ∨ o.owner.toNat = c.x
      then { o with st := if e = 0 then 2 else 1, owner := BitVec.ofNat 2 c.x, exp := e.setWidth 8, fill := 0 } else o) ∧
    (t.ctxAt cell c.x).lands = (((s.ctxAt cell c.x).result c.id { v := truth (o.st = 0 ∨ o.owner.toNat = c.x) }).dueBy c.id
      (s.tickOf cell + 4)).lands) ∧
  (ready → s.mxCheck c = .run → ((mmaOf c).isSome = true ∨ (drainOf c.i).isSome = true ∨
      (∃ lf, c.i = .mclr h seq t1 lf) ∨ (∃ b, c.i = .mscl h seq t1 b) ∨ (∃ op, c.i = .mcomb h seq t1 t2 op) ∨ c.i = .mtrn h seq t1 ∨
      (∃ a m, c.i = .mcvt h seq t1 a m) ∨ ∃ f, c.i = .macc h seq t1 t2 f) →
    Gives (.mxeCommandStart cell) s fun t => (t.cellAt cell).mxq = q ∧
      ∃ r, (t.cellAt cell).mxRun = k.mxRun ++ [r] ∧ r.cmd = c ∧ r.drain = (drainOf c.i).isSome) ∧
  (ready → c.i = .mstat h seq → c.x < 4 → k.mxRun = [] → Gives (.mxeCommandStart cell) s fun t => (t.cellAt cell).mxq = q ∧
    (t.cellAt cell).mxRun = [] ∧ (t.ctxAt cell c.x).lands = ((s.ctxAt cell c.x).result c.id { v := (s.ctxAt cell c.x).mxstat }).lands ∧
    t.mem = s.mem) ∧
  (ready → c.i = .mrel h seq t1 → Gives (.mxeCommandStart cell) s fun t => (t.cellAt cell).mxq = q ∧
    (t.cellAt cell).otAt t1.toNat = (if o.st = 2 ∧ o.owner.toNat = c.x then { o with st := 0, owner := 0 } else o)) ∧
  (∀ a, ready → mmaOf c = some a → (∀ t ∈ opTiles c, t < 32) →
    (∀ t, (opTiles c).find? (fun t => (k.otAt t).st != 0 && (k.otAt t).owner.toNat != c.x) = some t →
      Gives (.mxeCommandStart cell) s fun u => (u.cellAt cell).mxq = q.filter (fun d => d.x != c.x) ∧ u.mem = s.mem ∧
        (u.cellAt cell).ot = k.ot ∧ (u.cellAt cell).mxRun = k.mxRun ∧
        (u.ctxAt cell c.x).reports = (s.ctxAt cell c.x).reports ++
          [{ cause := 0x04, detail := 1, src := 2, tval := BitVec.ofNat 64 t }]) ∧
    ((∀ t ∈ opTiles c, (k.otAt t).st ≠ 0 → (k.otAt t).owner.toNat = c.x) → (∃ t ∈ opTiles c, (k.otAt t).st ≠ 2) →
      exec (.mxeCommandStart cell) s = .next s)) ∧
  (∀ op, ready → c.i = .mcomb h seq t1 t2 op → k.tag t1.toNat = k.tag t2.toNat → k.tag t1.toNat ≠ 2 →
    (∀ e ∈ k.busy, e.1 ≠ t1.toNat ∧ e.1 ≠ t2.toNat) → s.mem.wf = true → cell < 2 ^ 16 → Gives (.mxeCommandStart cell) s fun t => (t.cellAt cell).mxq = q ∧
      (t.cellAt cell).busy = k.busy ++ [(t1.toNat, c.id)] ∧
      (∀ j, j / 2 ^ 96 ≠ 6 → t.mem.read j = s.mem.read j) ∧ ∃ r, (t.cellAt cell).mxRun = k.mxRun ++ [r] ∧ r.cmd = c) ∧
  (∀ n r i, k.mxRun = r :: n → r.drain = false → r.cmd.i = i → (∀ h q, i ≠ .mstat h q) → (∀ e ∈ n, ∀ h q, e.cmd.i ≠ .mstat h q) →
    Gives (.accumulatorWriteDone cell) s fun t => (t.cellAt cell).mxRun = n ∧ (t.cellAt cell).busy = k.busy.filter (fun e => e.2 != r.cmd.id) ∧
      (t.ctxAt cell r.cmd.x).mxstat = (s.ctxAt cell r.cmd.x).mxstat ||| r.flags.setWidth 64) ∧
  (∀ r l sem, k.mxRun = [r] → r.cmd.i = .mdrn h l → l.q = some sem → r.flying = [] → r.drain = true →
    k.acqNow.contains sem.toNat = false → s.engRuns cell = true →
    Gives (.drainComplete cell 0) s fun t => (t.cellAt cell).mxRun = [] ∧
      ((t.cellAt cell).sem.get 0 sem.toNat).toNat = min ((k.sem.get 0 sem.toNat).toNat + 1) (2 ^ 32 - 1)) ∧
  (∀ n, s.engRuns cell = false → exec (.drainComplete cell n) s = .next s) ∧
  (∀ x y : BitVec 40, (combLane 0 .add x.toNat y.toNat).1 =
      (BitVec.ofInt 40 (min (max (x.toInt + y.toInt) (-2 ^ 39)) (2 ^ 39 - 1))).toNat ∧
    (combLane 0 .max x.toNat y.toNat).1 = (if x.sle y then y else x).toNat ∧
    (combLane 0 .min x.toNat y.toNat).1 = (if x.sle y then x else y).toNat)

/-- R130, R218, R219, R415, R416, R493: with its blocks through, a context stops on the pending report of lowest SRC; one with an item
past AGELIM stops at once with a progress fault that describes the item; neither touches memory or committed state. -/
def Obligations.ReportsAndProgress : Prop := ∀ (s : State) (cell x : Nat),
  let c := s.ctxAt cell x
  (∀ r, c.flight = [] → c.stopped = false → c.reports = [r] → Gives (.engineReportStop cell x) s fun t =>
    StoppedBy t c cell x r.cause (r.src.setWidth 3) r.detail (r.cause == 9) c.nextAddr 0xFF r.tval ∧
    (t.ctxAt cell x).reports = [] ∧ t.mem = s.mem ∧ (t.ctxAt cell x).sq = c.sq) ∧
  (∀ r1 r2, c.flight = [] → c.stopped = false → c.reports = [r1, r2] → Gives (.engineReportStop cell x) s fun t =>
    (t.ctxAt cell x).tcause.extractLsb' 60 3 = (if r2.src.toNat < r1.src.toNat then r2 else r1).src.setWidth 3) ∧
  (c.flight ≠ [] ∨ c.stopped = true ∨ c.reports = [] → exec (.engineReportStop cell x) s = .next s) ∧
  (∀ a, s.overAge cell x = some a → Gives (.progressFault cell x) s fun t =>
    StoppedBy t c cell x 0x0A 0 0 false c.nextAddr 0xFF a.pfault ∧ (t.ctxAt cell x).pfault = a.pfault ∧
    a.pfault.extractLsb' 0 32 = a.age ∧ t.mem = s.mem ∧ (t.ctxAt cell x).sq = c.sq) ∧
  (c.agelim = 0 → exec (.progressFault cell x) s = .next s)


/-- R97, R98, R111, R114 to R122, R126, R128, Tables 6-2, 6-5, 6-6: what each entry of a vault program does when it is due, and the fault that
takes its place when the sensed class, the timing rules, a refresh debt, the buffer or a condition forbids it; a conditional refresh issues
only above its threshold.  THE MODEL'S CHOICES: INDEX keeps naming the DEND after the end (log 36), the data of a DWR is in memory at its issue
(log 37), and a DCHK sees a semaphore at once, which R119 only bounds by E + 3 (log 75). -/
def Obligations.VaultEntries : Prop := ∀ (s : State) (f : Fetched) (rest : List Fetched) (d : BitVec 12) (bank : BitVec 3) (row : BitVec 13)
    (rinc ginc : BitVec 8) (col cinc : BitVec 4) (t : VTgt) (step : BitVec 11) (n v : BitVec 32) (kind : ChkKind) (idx : BitVec 6)
    (back : BitVec 12), EntryDue s f rest →
  let cell := s.cur.cell
  let k := s.cellAt cell
  let q := k.seq
  let now := s.vtime.toNat
  let broken (c : BankCmd) : Nat := brokenAt (k.vault.rules q.timing k.liveBanks c) now
  let ok : Prop := ¬ q.rcls < (s.sclsOf cell).toNat
  let nxt (u : State) : Prop := Issued s u (BitVec.ofNat 12 (f.index + 1)) (BitVec.ofNat 32 f.iter) 0
  let issues (i : Instr) (c : BankCmd) : Prop := ok → f.entry = i →
    (broken c = 0 → Gives i s fun u => nxt u ∧ (u.cellAt cell).vault = k.vault.issue k.liveBanks c now ∧ u.mem = s.mem) ∧
    (broken c ≠ 0 → Gives i s fun u => SeqFaulted s u cell 0x11 (BitVec.ofNat 8 (broken c)))
  (∀ i, i.isVault = true → f.entry = i → ¬ ok → Gives i s fun u => SeqFaulted s u cell 0x15 0) ∧
  issues (.dact d bank row rinc) (.act bank.toNat ((row.toNat : Int) + rinc.toInt * f.iter).toNat) ∧
  issues (.dpre d bank) (.pre bank.toNat) ∧ issues (.dprea d) .preAll ∧
  (-8 < k.lowDebt none → issues (.drefa d none) .refAll) ∧ (-8 < (k.vault.bank bank.toNat).debt → issues (.drefb d bank none) (.ref bank.toNat)) ∧
  (∀ th : BitVec 4, th.toInt < k.lowDebt none → issues (.drefa d (some th)) .refAll) ∧
  (∀ th : BitVec 4, th.toInt < (k.vault.bank bank.toNat).debt → issues (.drefb d bank (some th)) (.ref bank.toNat)) ∧
  (ok → f.entry = .drefb d bank none → (k.vault.bank bank.toNat).debt ≤ -8 → Gives (.drefb d bank none) s fun u => SeqFaulted s u cell 0x14 1) ∧
  (∀ th : BitVec 4, ok → f.entry = .drefb d bank (some th) → (k.vault.bank bank.toNat).debt ≤ th.toInt → broken (.ref bank.toNat) = 0 →
    Gives (.drefb d bank (some th)) s fun u => nxt u ∧ (u.cellAt cell).vault = { k.vault with last := some now } ∧ u.mem = s.mem) ∧
  (ok → f.entry = .drefa d none → k.lowDebt none ≤ -8 → Gives (.drefa d none) s fun u => SeqFaulted s u cell 0x14 1) ∧
  (∀ th : BitVec 4, ok → f.entry = .drefa d (some th) → k.lowDebt none ≤ th.toInt → broken .refAll = 0 → Gives (.drefa d (some th)) s fun u =>
    nxt u ∧ (u.cellAt cell).vault = { k.vault with last := some now } ∧ u.mem = s.mem) ∧
  (ok → f.entry = .drd d bank col t step cinc → broken (.rd bank.toNat) = 0 →
    (q.ebuf now < 64 → Gives (.drd d bank col t step cinc) s fun u => nxt u ∧ u.mem = s.mem ∧
      (u.cellAt cell).vault = k.vault.issue k.liveBanks (.rd bank.toNat) now ∧ (u.cellAt cell).seq.elastic = q.elastic ++
        [{ entry := f.entry, iter := f.iter, due := now + q.timing.rl + 2, prog := q.prog,
           data := s.bytesAt (k.column cell bank.toNat ((col.toNat + f.iter * cinc.toNat) % 16)) 128, fmode := k.atom }]) ∧
    (64 ≤ q.ebuf now → Gives (.drd d bank col t step cinc) s fun u => SeqFaulted s u cell 0x13 1)) ∧
  (ok → f.entry = .dwr d bank col t step cinc → broken (.wr bank.toNat) = 0 →
    (∀ b, f.staged = some b → Gives (.dwr d bank col t step cinc) s fun u => nxt u ∧
      (u.cellAt cell).vault = k.vault.issue k.liveBanks (.wr bank.toNat) now ∧
      u.mem = (s.stored (k.column cell bank.toNat ((col.toNat + f.iter * cinc.toNat) % 16)) b).mem) ∧
    (f.staged = none → Gives (.dwr d bank col t step cinc) s fun u => SeqFaulted s u cell 0x13 2)) ∧
  (ok → f.entry = .dwait d n → Gives (.dwait d n) s fun u =>
    Issued s u (BitVec.ofNat 12 (f.index + 1)) (BitVec.ofNat 32 f.iter) n.toNat ∧ (u.cellAt cell).vault = k.vault ∧ u.mem = s.mem) ∧
  (ok → f.entry = .dchk d kind idx ginc v →
    (s.dchkHolds cell kind idx ginc v f.iter = true → Gives (.dchk d kind idx ginc v) s fun u => nxt u ∧ (u.cellAt cell).vault = k.vault ∧
      u.mem = s.mem) ∧
    (s.dchkHolds cell kind idx ginc v f.iter = false → Gives (.dchk d kind idx ginc v) s fun u => SeqFaulted s u cell 0x12 1)) ∧
  (s.dchkHolds cell .sem idx ginc v f.iter = decide ((v.toNat + f.iter * ginc.toNat) % 2 ^ 32 ≤ (k.sem.get 0 idx.toNat).toNat)) ∧
  (ok → f.entry = .dsig d true idx n → q.dsigs = [] → (∀ e ∈ q.elastic, e.prog ≠ q.prog) → Gives (.dsig d true idx n) s fun u => nxt u ∧
    (u.cellAt cell).seq.dsigs = [] ∧ (k.acqNow.contains idx.toNat = true → (u.cellAt cell).semLate = k.semLate ++ [(idx.toNat, n.toNat)]) ∧
    (k.acqNow.contains idx.toNat = false →
      ((u.cellAt cell).sem.get 0 idx.toNat).toNat = min ((k.sem.get 0 idx.toNat).toNat + n.toNat) (2 ^ 32 - 1))) ∧
  (ok → f.entry = .dsig d false idx n → (s.sigRoom cell idx = false → Gives (.dsig d false idx n) s fun u => SeqFaulted s u cell 0x12 2) ∧
    (s.sigRoom cell idx = true → q.dsigs = [] → Gives (.dsig d false idx n) s fun u => nxt u ∧
      (u.cellAt cell).seq.dsigs = [(f.entry, (q.elastic.filter fun e => e.prog == q.prog).length, q.prog)])) ∧
  (ok → f.entry = .drpt d back n → Gives (.drpt d back n) s fun u => (u.cellAt cell).vault = k.vault ∧ u.mem = s.mem ∧
    (f.iter + 1 < n.toNat → Issued s u (BitVec.ofNat 12 (f.index - back.toNat)) (BitVec.ofNat 32 (f.iter + 1)) 0) ∧
    (n.toNat ≤ f.iter + 1 → Issued s u (BitVec.ofNat 12 (f.index + 1)) 0 0)) ∧
  (ok → f.entry = .dend d →
    ((∀ b ∈ k.liveBanks, (k.vault.bank b).row = none) → q.dsigs = [] → (∀ e ∈ q.elastic, e.prog ≠ q.prog) → Gives (.dend d) s fun u =>
      (u.cellAt cell).seq.st = .done ∧ (u.cellAt cell).seq.index = BitVec.ofNat 12 f.index ∧ (u.cellAt cell).vault.owned = false ∧ u.mem = s.mem) ∧
    ((∃ b ∈ k.liveBanks, (k.vault.bank b).row ≠ none) → Gives (.dend d) s fun u => SeqFaulted s u cell 0x11 13))

/-- R102, R108, R115, R116, R123, R124, R128, R132, R134, R380, R381, R492: the sequencer's own steps on a clock on which no tick falls: an armed
program starts on its clock, a preamble reopens the saved rows, a DSTOP suspends or stops, a command waits for its clock, a DRUN is refused
by code or arms its program, fetch checks entries, columns are delivered and staged unit by unit (R62), and a fault's precharge follows. -/
def Obligations.SequencerEvents : Prop := ∀ (s : State) (cell : Nat), s.vtime.toNat % 1500 ≠ 0 →
  let k := s.cellAt cell
  let q := k.seq
  let now := s.vtime.toNat
  let sq (t : State) : Seq := (t.cellAt cell).seq
  (q.resume = false → q.st = .armed →
    (q.startAt ≤ now → Gives (.programStart cell) s fun t => (sq t).st = .running ∧ (sq t).ref = q.t0.toNat ∧ t.mem = s.mem ∧
      (t.cellAt cell).vault = { k.vault.fresh with owned := true, dcls := BitVec.ofNat 2 q.rcls }) ∧
    (now < q.startAt → exec (.programStart cell) s = .next s)) ∧
  (∀ b r, q.st = .running → q.stops = [] → q.pre = b :: r → let c := BankCmd.act b (q.savedRow b)
    (brokenAt (k.vault.rules q.timing k.liveBanks c) now ≠ 0 → exec (.resumePreamble cell) s = .next s) ∧
    (brokenAt (k.vault.rules q.timing k.liveBanks c) now = 0 → Gives (.resumePreamble cell) s fun t =>
      (t.cellAt cell).vault = k.vault.issue k.liveBanks c now ∧ (sq t).pre = r ∧
      (r ≠ [] → (sq t).ref = q.ref) ∧ (r = [] → (sq t).ref + s.nextDelta cell = now + q.timing.tras))) ∧
  (∀ n end_, q.stops = [(n, end_)] → n ≤ now → q.st = .running → q.ended = false → q.faultAt ≠ some now → Gives (.dstopEffect cell) s fun t =>
    (sq t).st = (if end_ then .stopped else .suspended) ∧ (sq t).cause = 0 ∧ (sq t).index = q.index ∧ (sq t).iter = q.iter ∧ (sq t).stops = [] ∧
    (t.cellAt cell).vault.owned = false ∧ t.mem = s.mem) ∧
  (∀ c, q.cmds = [c] → q.st = .idle → q.stops = [] → c.len = 0 ∨ now < c.len → exec (.drunAccept cell) s = .next s) ∧
  (∀ c h, q.cmds = [c] → c.len ≠ 0 → c.len ≤ now → q.st = .idle → q.stops = [] → c.i = .drun h →
    let code := s.drunCode cell c (false, false, true)
    Gives (.drunAccept cell) s fun t => (sq t).cmds = [] ∧ t.mem = s.mem ∧
      (t.ctxAt cell c.x).lands = ((s.ctxAt cell c.x).result c.id { v := BitVec.ofNat 64 code }).lands ∧
      (code ≠ 0 → (sq t).st = .idle) ∧
      (code = 0 → (sq t).st = .armed ∧ (sq t).startAt = c.b.v.toNat ∧ (sq t).t0 = c.b.v ∧ (sq t).index = 0 ∧ (sq t).iter = 0 ∧
        (sq t).image = fld c.a.v 0 32 ∧ (sq t).owner = c.x ∧ (sq t).resume = false)) ∧
  (∀ c h, q.cmds = [c] → c.len ≠ 0 → c.len ≤ now → q.st = .idle → q.stops = [] → c.i = .dpos h → Gives (.drunAccept cell) s fun t => (sq t).cmds = [] ∧
    (t.ctxAt cell c.x).lands = ((s.ctxAt cell c.x).result c.id { v := BitVec.ofNat 64 (q.index.toNat * 2 ^ 32 + q.iter.toNat) }).lands) ∧
  (∀ i it, q.fetchNext = some (i, it) → q.fetched.length < 16 →
    (q.count ≤ i → Gives (.seqFetch cell) s fun t => SeqFaulted s t cell 0x10 6) ∧
    (∀ d, i < q.count → decodeVault (s.entryWord cell i) = .error d → Gives (.seqFetch cell) s fun t => SeqFaulted s t cell 0x10 (BitVec.ofNat 8 d)) ∧
    (∀ e, i < q.count → decodeVault (s.entryWord cell i) = .ok e → s.entryDetail cell i it e = 0 → (fetchAfter i it e).2 = true →
      Gives (.seqFetch cell) s fun t => (sq t).fetched = q.fetched ++ [{ index := i, iter := it, entry := e }] ∧
        (sq t).fetchNext = (fetchAfter i it e).1 ∧ t.mem = s.mem)) ∧
  (∀ d r dl b col o step cinc, q.elastic = d :: r → d.due ≤ now → d.entry = .drd dl b col (.loc o) step cinc → q.dsigs = [] → q.ended = false →
    s.waits = [] → d.done < 128 → let p : Place := { r := .tcm cell, off := (((o.toNat : Int) + step.toInt * d.iter).toNat) * 128 }
    let e := wordEnd p.off 128 (unitEnd d.fmode false p.off 128 d.done)
    let u : Place := { p with off := p.off + d.done }
    let w := (d.data.drop d.done).take (e - d.done)
    Gives (.vaultDelivery cell) s fun t => (sq t).elastic = (if e < 128 then { d with done := e } :: r else r) ∧
      t.mem = (s.stored u w).mem.applyAll ((s.stored u w).fullOps u w.length true)) ∧
  (∀ d r, q.elastic = d :: r → now < d.due → exec (.vaultDelivery cell) s = .next s) ∧
  (∀ f r dl b col o step cinc, q.elastic = [] → q.fetched = f :: r → f.staged = none → f.entry = .dwr dl b col (.loc o) step cinc →
    (f.began = true ∨ q.ebuf now < 64 → let g := if f.began then f else { f with began := true, fmode := k.atom }
      let p : Place := { r := .tcm cell, off := (((o.toNat : Int) + step.toInt * f.iter).toNat) * 128 }
      let got := f.got ++ s.bytesAt { p with off := p.off + f.got.length } (unitEnd g.fmode false p.off 128 f.got.length - f.got.length)
      Gives (.dwrStaging cell) s fun t => t.mem = s.mem ∧
        (sq t).fetched = { g with got := got, staged := if got.length = 128 then some got else none } :: r) ∧
    (f.began = false → 64 ≤ q.ebuf now → exec (.dwrStaging cell) s = .next s)) ∧
  (∀ p, q.precharge = some p → p < now → q.st = .suspended → q.stops = [] → q.cmds = [] →
    (brokenAt (k.vault.rules q.timing k.liveBanks .preAll) now = 0 → Gives (.faultPrecharge cell) s fun t =>
      (t.cellAt cell).vault = k.vault.issue k.liveBanks .preAll now ∧ (sq t).precharge = none ∧ t.mem = s.mem) ∧
    (brokenAt (k.vault.rules q.timing k.liveBanks .preAll) now ≠ 0 → exec (.faultPrecharge cell) s = .next s))

/-- R95 to R97, R99, R101 to R104: a tick adds to the debts of a vault, up to 8 where no program owns it; of an owned one a debt goes on to 9,
which is a refresh-debt fault of its program; the guard refreshes what stands above its
target; the sensed class falls one step after its hold; an untimed read returns the bytes of its place; a column with a
correctable error is scrubbed, on the path when nothing is queued, which is the model's choice (log 61); a remapped row that took an
event of a lasting fault reads as it did, from its spare. -/
def Obligations.VaultEvents : Prop := ∀ (s : State) (cell field bank row : Nat),
  let k := s.cellAt cell
  let now := s.vtime.toNat
  (k.seq.st ≠ .armed → now % 1500 = 0 → k.vault.ticked ≠ some now → k.vault.owned = false → tickRaises (s.sclsOf cell) now = true →
    Gives (.refreshTick cell) s fun t => ∀ b, ((t.cellAt cell).vault.bank b).debt =
      if b ∈ k.liveBanks ∧ (k.vault.bank b).debt < 8 then (k.vault.bank b).debt + 1 else (k.vault.bank b).debt) ∧
  (k.seq.st ≠ .armed → now % 1500 = 0 → k.vault.ticked ≠ some now → k.vault.owned = true → tickRaises (s.sclsOf cell) now = true →
    ((∀ b ∈ k.liveBanks, (k.vault.bank b).debt < 8) → Gives (.refreshTick cell) s fun t => (t.cellAt cell).seq = k.seq ∧
      (t.cellAt cell).vault.owned = true ∧ t.mem = s.mem ∧
      ∀ b, ((t.cellAt cell).vault.bank b).debt = (k.vault.bank b).debt + (if b ∈ k.liveBanks then 1 else 0)) ∧
    ((∀ b ∈ k.liveBanks, (k.vault.bank b).debt ≤ 8) → (∃ b ∈ k.liveBanks, (k.vault.bank b).debt = 8) →
      Gives (.refreshTick cell) s fun t => SeqFaulted s t cell 0x14 2 ∧
        ∀ b ∈ k.liveBanks, ((t.cellAt cell).vault.bank b).debt = (k.vault.bank b).debt + 1)) ∧
  (k.vault.ticked = some now → k.seq.st ≠ .armed → exec (.refreshTick cell) s = .next s) ∧
  (∀ c, now % 1500 ≠ 0 → k.seq.st = .idle → k.seq.stops = [] → k.seq.cmds = [] → k.pathFree = true → k.vault.pick k.liveBanks 0 = some c →
    brokenAt (k.vault.rules fusedTiming k.liveBanks c) now = 0 →
    Gives (.guardRefresh cell) s fun t => (t.cellAt cell).vault = k.vault.issue k.liveBanks c now ∧ t.mem = s.mem) ∧
  (∀ th, let fl := s.fieldAt field
    fallsBelow fl.scls = some th → fl.dflt = 0 →
    (fl.estD < th → fl.sclsSince + 2 ^ 20 ≤ now → Gives (.refreshClassFall field) s fun t =>
      (t.fieldAt field).scls = fl.scls - 1 ∧ (t.fieldAt field).sclsSince = now) ∧
    (th ≤ fl.estD ∨ now < fl.sclsSince + 2 ^ 20 → exec (.refreshClassFall field) s = .next s)) ∧
  (∀ a r p u ready, k.vault.queue = a :: r → a.place = some p → p.r = .vault cell → a.op = .read → a.done = 0 → a.got = [] →
    unitEnd a.fmode a.at_ p.off a.len 0 = a.len → p.off % 128 + a.len ≤ 128 → a.back ≠ .none → s.boundSlice cell p.off = none →
    s.startUntimed cell p.off (true, false) = some (u, ready) → Gives (.untimedAccess cell) s fun t =>
      (t.cellAt cell).vault.queue = r ∧ t.mem = s.mem ∧ ∃ e, t.resps = s.resps ++ [e] ∧ e.data = s.forwarded a p (s.bytesAt p a.len) ∧
        (fld a.addr 61 3 = 0 ∨ fld a.addr 61 3 = 7 → e.data = s.bytesAt p a.len) ∧ e.due = ready ∧ e.err = none ∧ e.back = a.back) ∧
  (∀ b r0 c fl u ready, k.vault.queue = [] → k.vault.flawed = (b, r0, c) :: fl →
    (s.startColumn cell b r0 c (true, true) = some (u, ready) → exec (.untimedAccess cell) s = .next u ∧
      (u.cellAt cell).vault.flawed = fl.filter (fun e => e != (b, r0, c)) ∧ u.mem = s.mem) ∧
    (s.startColumn cell b r0 c (true, true) = none → exec (.untimedAccess cell) s = .next s)) ∧
  (∀ a r, k.vault.queue = a :: r → (∃ p, a.place = some p) → a.op = .read → k.pathFree = false → exec (.untimedAccess cell) s = .next s) ∧
  (∀ i, s.mem.wf = true → s.quiesced cell = true → k.pathFree = true → k.vault.queue = [] → row < 5184 → bank ∈ k.liveBanks →
    row ∈ s.rowsToMap (.vault cell bank) → k.pickAt (s.sclsOf cell) now = none → k.vault.spareFor bank row = some i → Gives (.rowRemap cell bank row) s fun t =>
      (t.cellAt cell).vault.physRow bank row = 5184 + i ∧ ∀ j < 2048, t.mem.read (t.rowKey cell bank row j) = s.mem.read (s.rowKey cell bank row j))


/-- R51, R86, R87, R101, R390 to R398: with nothing queued before it at its vault, a cache slice fills the missing line, writes a dirty victim
back first and flushes line by line; the write-back and the fill are two CACHE_FILL events, which is the model's reading of a step that holds
both (log 38); a tree node waits for every child of its mask, a cluster node taking their operands from the inject queues, folds them in
ascending index and sends the result on, down to the leaves at the top of its group; a result becomes an extract entry when its time has
come. -/
def Obligations.CacheAndTree : Prop := ∀ (s : State) (field sl cell x n level node chan : Nat),
  let v := (s.fieldAt field).slice sl
  let line (k : Nat) : Place := { r := .vault cell, off := k * 128 }
  (∀ a p y u ready, v.flushing = false → s.cachedCell field sl = some cell → field = fieldOf cell → v.waiting = [a] → a.place = some p →
    p.r = .vault cell → s.boundSlice cell p.off = some (y, sl) → s.lineAt p = none → v.victim (p.off / 128 % 1024) = none → a.op = .read →
    p.off % 128 + a.len ≤ 128 → a.done = 0 → a.got = [] → unitEnd a.fmode a.at_ p.off a.len 0 = a.len → a.back ≠ .none →
    (s.cellAt cell).vault.queue = [] →
    s.startUntimed cell (p.off / 128 * 128) (true, false) = some (u, ready) → Gives (.cacheFill field sl) s fun t =>
      ((t.fieldAt field).slice sl).waiting = [] ∧ t.mem = s.mem ∧
      s.Answered t a (s.forwarded a p (((s.bytesAt (line (p.off / 128)) 128).drop (p.off % 128)).take a.len)) none ∧
      t.lineAt p = some (field, sl, { set := p.off / 128 % 1024, way := v.freeWay (p.off / 128 % 1024), line := p.off / 128, dirty := false,
                                      data := s.bytesAt (line (p.off / 128)) 128 })) ∧
  (∀ a r p k u ready, v.flushing = false → s.cachedCell field sl = some cell → v.waiting = a :: r → a.place = some p → s.lineAt p = none →
    v.victim (p.off / 128 % 1024) = some k → k.dirty = true → (s.cellAt cell).vault.queue = [] → s.startUntimed cell (k.line * 128) (false, true) = some (u, ready) →
    Gives (.cacheFill field sl) s fun t => t.mem = (s.stored (line k.line) k.data).mem ∧ ((t.fieldAt field).slice sl).waiting = v.waiting ∧
      ((t.fieldAt field).slice sl).lines = v.lines.map fun l => if l.line = k.line then { l with dirty := false } else l) ∧
  (∀ k u ready, v.flushing = true → v.nextDirty = some k → s.cachedCell field sl = some cell → (s.cellAt cell).vault.queue = [] →
    s.startUntimed cell (k.line * 128) (false, true) = some (u, ready) → Gives (.cacheFlush field sl) s fun t =>
      t.mem = (s.stored (line k.line) k.data).mem ∧ ((t.fieldAt field).slice sl).flushing = true ∧
      ((t.fieldAt field).slice sl).lines = v.lines.map fun l => if l.line = k.line then { l with dirty := false } else l) ∧
  (v.flushing = true → v.nextDirty = none → (s.fieldAt field).fcbNext = [] → Gives (.cacheFlush field sl) s fun t =>
    ((t.fieldAt field).slice sl).flushing = false ∧ ((t.fieldAt field).slice sl).lines = v.lines ∧ t.mem = s.mem) ∧
  (∀ e w, let old := (s.fieldAt field).fcb.get 0 e
    v.flushing = true → v.nextDirty = none → (s.fieldAt field).fcbNext = [(e, w)] → old.getLsbD 63 = true → fld old 56 7 = sl →
    Gives (.cacheFlush field sl) s fun t => (t.fieldAt field).fcb.get 0 e = w ∧ (t.fieldAt field).fcbNext = [] ∧ t.mem = s.mem ∧
      ((t.fieldAt field).slice sl).flushing = false ∧ ((t.fieldAt field).slice sl).lines = [] ∧ t.net = v.waiting ++ s.net) ∧
  (v.flushing = false → exec (.cacheFlush field sl) s = .next s) ∧
  (∀ e h w sgn l ea o ch tok r, s.envAt cell x 0 0 = some e → e.blk.instr 0 = some (.ldf h w sgn l) → e.n.st = .held →
    e.access (e.tok .a) l.disp.toInt (w.bits / 8) false = .ok (ea, .mmio o) → treeExt o = some ch → e.treeLeft ch = tok :: r →
    s.asleep cell = false → Gives (.treeextPop cell x) s fun t => t.cells = s.cells ∧ t.mem = s.mem ∧ ∃ b, (t.ctxAt cell x).block 0 = some b ∧
      b.acts = e.blk.acts ++ [(0, .pop ch)] ∧ (b.insts[0]?).map (fun k => k.st) = some .fired) ∧
  (Gives (.treestatRead cell) s fun t => t.cellAt cell = { s.cellAt cell with treeMiss := false } ∧ t.mem = s.mem) ∧
  (let r := s.treeRound.get 0 (nodeKey level node chan)
   let kids := (List.range 16).filter fun c => (s.nodeMask level node chan).getLsbD c
   let mine (c : Nat) (o : TreeOp) : Bool := o.level == level && o.node == node && o.chan == chan && o.round == r && o.child == c
   level ≠ 0 → kids ≠ [] →
   ((∃ c ∈ kids, s.treeUp.find? (mine c) = none) → exec (.treeNodeCombine level node chan) s = .next s) ∧
   (∀ o os p c, kids.map (fun c => s.treeUp.find? (mine c)) = (o :: os).map some → o.top ≠ level → s.parentOf level node = some (p, c) →
     let f := foldTree o.op ((o :: os).map fun q => (q.v.toNat, q.poi))
     Gives (.treeNodeCombine level node chan) s fun t => t.treeRound.get 0 (nodeKey level node chan) = r + 1 ∧ t.treeDown = s.treeDown ∧
       t.treeUp = s.treeUp.filter (fun q => !(kids.any fun c => mine c q)) ++
         [{ o with level := level + 1, node := p, child := c, round := r, v := BitVec.ofNat 64 f.1, poi := f.2 }]) ∧
   (∀ o os, kids.map (fun c => s.treeUp.find? (mine c)) = (o :: os).map some → o.top = level →
     let f := foldTree o.op ((o :: os).map fun q => (q.v.toNat, q.poi))
     Gives (.treeNodeCombine level node chan) s fun t => t.treeRound.get 0 (nodeKey level node chan) = r + 1 ∧
       t.treeDown = s.treeDown ++ (s.leaves chan level node).map fun c =>
         { cell := c, chan := chan, round := r, v := BitVec.ofNat 64 f.1, poi := f.2, due := s.vtime.toNat * 5 / 4 +
             (if level = 3 then 0 else Config.treeUpLatency level node) + max s.anpadPad.toNat (s.latOf c) })) ∧
  (∀ v w a b : Nat, let kids := (List.range 16).filter fun c => (s.nodeMask 0 node chan).getLsbD c
    let r := s.treeRound.get 0 (nodeKey 0 node chan)
    let ch := (s.cellAt a).treech.get 0 chan
    let top := if fld ch 59 2 = 2 then 3 else fld ch 59 2
    kids = [v, w] → s.childUnit 0 node v = some a → s.childUnit 0 node w = some b → a ≠ b → s.asleep a = false → s.asleep b = false →
    (∀ q ∈ s.treeUp, ¬ (q.level = 0 ∧ q.node = node ∧ q.chan = chan)) → (s.cellAt a).injN.get 0 chan = r → (s.cellAt b).injN.get 0 chan = r →
    ∀ y, (s.cellAt a).inj = [(chan, y)] →
      ((s.cellAt b).inj = [] → Gives (.treeNodeCombine 0 node chan) s fun t => (t.cellAt a).inj = [] ∧ t.treeDown = s.treeDown ∧
        t.treeRound = s.treeRound) ∧
      (∀ z, (s.cellAt b).inj = [(chan, z)] → let f := foldTree (fld ch 54 4) [(y.v.toNat, y.poi), (z.v.toNat, z.poi)]
        (top = 0 → Gives (.treeNodeCombine 0 node chan) s fun t => (t.cellAt a).inj = [] ∧ (t.cellAt b).inj = [] ∧ t.treeUp = s.treeUp ∧
          t.treeRound.get 0 (nodeKey 0 node chan) = r + 1 ∧ t.treeDown = s.treeDown ++ (s.leaves chan 0 node).map fun c =>
            { cell := c, chan := chan, round := r, v := BitVec.ofNat 64 f.1, poi := f.2,
              due := s.vtime.toNat * 5 / 4 + Config.treeUpLatency 0 node + max s.anpadPad.toNat (s.latOf c) }) ∧
        (∀ p c, top ≠ 0 → s.parentOf 0 node = some (p, c) → Gives (.treeNodeCombine 0 node chan) s fun t =>
          (t.cellAt a).inj = [] ∧ (t.cellAt b).inj = [] ∧ t.treeDown = s.treeDown ∧ t.treeRound.get 0 (nodeKey 0 node chan) = r + 1 ∧
          t.treeUp = s.treeUp ++ [{ level := 1, node := p, chan := chan, child := c, round := r, v := BitVec.ofNat 64 f.1, poi := f.2,
                                    op := fld ch 54 4, top := top }]))) ∧
  (∀ (a b : Word) (p q : Bool), let g (op : Nat) : Nat × Bool := foldTree op [(a.toNat, p), (b.toNat, q)]
    g 0 = ((a + b).toNat, p || q) ∧ g 2 = ((if a.sle b then a else b).toNat, p || q) ∧ g 3 = ((if a.sle b then b else a).toNat, p || q) ∧
    g 4 = (min a.toNat b.toNat, p || q) ∧ g 5 = (max a.toNat b.toNat, p || q) ∧ g 6 = ((a &&& b).toNat, p || q) ∧
    g 7 = ((a ||| b).toNat, p || q) ∧ g 8 = ((a ^^^ b).toNat, p || q)) ∧
  (∀ d, s.treeDown[n]? = some d →
    (d.due ≤ s.vtime.toNat * 5 / 4 → s.asleep d.cell = false → (∀ e ∈ s.treeDown.take n, e.cell ≠ d.cell ∨ e.chan ≠ d.chan) →
      Gives (.treeExtractValid n) s fun t =>
      t.treeDown = s.treeDown.eraseIdx n ∧ (t.cellAt d.cell).ext = (s.cellAt d.cell).ext ++ [(d.chan, { v := d.v, poi := d.poi })]) ∧
    (s.vtime.toNat * 5 / 4 < d.due ∨ s.asleep d.cell = true → exec (.treeExtractValid n) s = .next s))

/-- R32, R60, R167, R376, R378, R401 to R412: a gateway accepts a post or refuses its buffers, reads the sources of a round as remote accesses,
folds them left to right, runs the bucket steps, writes the result, and finishes the posts once every write has been performed, or aborts
them; after an abort each byte of a destination is the old or the accumulated one, which is the model's narrower form of what R405 allows
(log 8, unsafe for this claim); a link takes or passes on frames, parks and wakes its wavelengths and tells Saffron of one that does not wake;
FAIL empties as a wake begins, the model's choice (log 68). -/
def Obligations.CollectivesAndLinks : Prop := ∀ (s : State) (cell x g i cp : Nat) (f : Frame),
  let n := s.instOf g i
  let port (t : State) (k c : Nat) : Nat × Nat × Nat := ((t.cellAt k).cpPosted c, (t.cellAt k).cpDone c, (t.cellAt k).cpLast c)
  let k := s.cellAt cell
  let gate := s.gateAt g
  (∀ c r h seq tsc p len, s.gateIn = c :: r → c.cell = cell → c.x = x → c.i = .cpost h seq tsc p → p.toNat = cp → k.portAt cp = (g, i, len) →
    c.tok = none →
    (n.aborted = false → s.bufferOk cell x c.a.v len false = true → s.bufferOk cell x c.b.v len true = true →
      Gives (.collectivePostAccept cell x) s fun t => t.gateIn = r ∧ port t cell cp = ((k.cpPosted cp + 1) % 2 ^ 24, k.cpDone cp, k.cpLast cp) ∧
        (t.instOf g i).posts = n.posts ++ [{ cell := cell, x := x, cp := cp, src := c.a.v, dst := c.b.v }] ∧ t.mem = s.mem) ∧
    (n.aborted = false → s.bufferOk cell x c.a.v len false = false ∨ s.bufferOk cell x c.b.v len true = false → k.cpIdle cp = true →
      Gives (.collectivePostAccept cell x) s fun t => t.gateIn = r ∧ (t.instOf g i).posts = n.posts ∧ t.mem = s.mem ∧
        port t cell cp = ((k.cpPosted cp + 1) % 2 ^ 24, (k.cpDone cp + 1) % 2 ^ 24, 2)) ∧
    (n.aborted = true → k.cpIdle cp = true → Gives (.collectivePostAccept cell x) s fun t => t.gateIn = r ∧
      port t cell cp = ((k.cpPosted cp + 1) % 2 ^ 24, (k.cpDone cp + 1) % 2 ^ 24, 1))) ∧
  (n.running = false → n.aborted = false →
    (∀ p q, n.ordered = some [p, q] → s.asleep p.cell = false → s.asleep q.cell = false →
      let es := s.postPieces n p false ++ s.postPieces n q false
      (n.moving = false → es ≠ [] → (∀ e ∈ es, s.pieceHeld e = false) → Gives (.collectiveRoundStart g i) s fun t =>
        (t.instOf g i).running = false ∧ (t.instOf g i).moving = true ∧ (t.instOf g i).posts = n.posts ∧ t.mem = s.mem ∧
        ∃ l, t.net = s.net ++ l ∧ l.map (fun a => (a.addr, a.place, a.len)) = es.map (fun e => (e.addr, e.place, e.len)) ∧
          ∀ a ∈ l, a.op = .read ∧ a.who = .gate g ∧ ∃ id, a.back = .gate g i id) ∧
      (n.moving = true → n.answered = true → Gives (.collectiveRoundStart g i) s fun t =>
        (t.instOf g i).running = true ∧ t.mem = s.mem ∧ t.net = s.net ∧
        (t.instOf g i).acc = ((n.sourceOf p).zip (n.sourceOf q)).map fun e => (n.combine e.1.1 e.2.1, e.1.2 || e.2.2)) ∧
      (n.moving = true → n.answered = false → exec (.collectiveRoundStart g i) s = .next s)) ∧
    (n.ordered = none → exec (.collectiveRoundStart g i) s = .next s)) ∧
  (∀ d k r recv dim snd rc, n.dims = [(d, k, r)] → n.running = true → n.finished = false → n.aborted = false → n.stage = 0 →
    n.move 0 = some (dim, snd, rc) →
    let got := (recv.getD 0 []).map fun (e : BitVec 64 × Bool) => (e.1.toNat % 2 ^ (8 * elemBytes n.fmt), e.2)
    got.length = rc.2 → Gives (.bucketStep g i recv) s fun t => (t.instOf g i).posts = n.posts ∧ t.mem = s.mem ∧
      (t.instOf g i).acc = n.acc.take rc.1 ++
        (got.zip ((n.acc.drop rc.1).take rc.2)).map (fun e => (n.combine e.1.1 e.2.1, e.1.2 || e.2.2)) ++ n.acc.drop (rc.1 + rc.2)) ∧
  (∀ m r id e, s.resps[m]? = some r → r.back = .gate g i id → r.due ≤ s.vtime.toNat → s.respStops r = false →
    n.parts.find? (fun e => e.id == id) = some e → Gives (.loadResponse m) s fun t => t.resps = s.resps.eraseIdx m ∧ t.mem = s.mem ∧
      (t.instOf g i).parts = n.parts.map (fun k => if k.id = id then { k with got := some r.data } else k) ∧
      (r.err = none → (t.instOf g i).posts = n.posts)) ∧
  (∀ p, n.finished = true → n.aborted = false → n.posts = [p] → (∀ e ∈ n.members, s.asleep e.1 = false) →
    let es := s.postPieces n p true
    let d := elemBytesOf (elemBytes n.fmt) n.acc
    (n.moving = false → es ≠ [] → (∀ e ∈ es, s.pieceHeld e = false) → Gives (.collectivePostFinish g i) s fun t =>
      (t.instOf g i).moving = true ∧ (t.instOf g i).posts = n.posts ∧ t.mem = s.mem ∧
      ∃ l, t.net = s.net ++ l ∧ l.map (fun a => (a.addr, a.place, a.len, a.op)) =
          es.map (fun e => (e.addr, e.place, e.len, Op.write ((d.drop e.off).take e.len))) ∧
        ∀ a ∈ l, a.who = .gate g ∧ ∃ id, a.back = .gate g i id) ∧
    (n.moving = true → n.answered = true → (s.cellAt p.cell).cpIdle p.cp = false → Gives (.collectivePostFinish g i) s fun t =>
      t.mem = s.mem ∧ (t.instOf g i).posts = [] ∧ (t.instOf g i).running = false ∧ (t.instOf g i).round = n.round + 1 ∧
      port t p.cell p.cp = ((s.cellAt p.cell).cpPosted p.cp, ((s.cellAt p.cell).cpDone p.cp + 1) % 2 ^ 24, if p.bad then 2 else 0)) ∧
    (n.moving = true → n.answered = false → exec (.collectivePostFinish g i) s = .next s)) ∧
  (∀ round l p, n.seen.contains round = false → n.posts = [p] → (s.cellAt p.cell).cpIdle p.cp = false →
    Gives (.abortMarker g i round (some l)) s fun t => (t.instOf g i).aborted = true ∧ (t.instOf g i).posts = [] ∧
      (t.instOf g i).seen = round :: n.seen ∧ (n.running = false → t.mem = s.mem) ∧
      port t p.cell p.cp = ((s.cellAt p.cell).cpPosted p.cp, ((s.cellAt p.cell).cpDone p.cp + 1) % 2 ^ 24, 1) ∧
      (n.running = true → s.mem.wf = true →
        let d := elemBytesOf (elemBytes n.fmt) n.acc
        (∀ k, (∀ e ∈ s.postPieces n p true, ∀ q, s.pieceAt e = some q → ∀ j < e.len, s.key q.r (q.off + j) ≠ some k) →
          t.mem.read k = s.mem.read k) ∧
        ∀ e q, s.postPieces n p true = [e] → s.pieceAt e = some q → (∃ c, q.r = .tcm c ∨ q.r = .csp c) →
          ∀ j k, j < e.len → s.key q.r (q.off + j) = some k → (∀ b, j < b → b < e.len → s.key q.r (q.off + b) ≠ some k) →
            some (t.mem.read k) = (((d.drop e.off).take e.len)[j]?).map (fun b => b.1) ∨
            some (t.mem.read k) = ((s.bytesAt q e.len)[j]?).map (fun b => b.1))) ∧
  (∀ round l, n.seen.contains round = true → exec (.abortMarker g i round (some l)) s = .next s) ∧
  (∀ round c h seq tsc p len, s.gateIn = [c] → c.i = .cabrt h seq tsc p → (s.cellAt c.cell).portAt p.toNat = (g, i, len) → c.tok = none →
    (s.instIdle n = true → Gives (.abortMarker g i round none) s fun t => t.gateIn = [] ∧ t.instOf g i = n ∧ t.mem = s.mem) ∧
    (s.instIdle n = false → n.seen.contains n.round = false → Gives (.abortMarker g i round none) s fun t => t.gateIn = [] ∧
      (t.instOf g i).aborted = true ∧ (t.instOf g i).posts = [] ∧ (t.instOf g i).seen = n.round :: n.seen)) ∧
  (gate.slkcfg.getLsbD 63 = false → exec (.linkFrameReceive g f) s = .next s) ∧
  (gate.slkcfg.getLsbD 63 = true → f.dwafer = s.waferId.toNat → f.kind = 0 → Gives (.linkFrameReceive g f) s fun t =>
    t.net = s.net ++ [s.requestAcc g f] ∧ t.mem = s.mem) ∧
  (∀ l, gate.slkcfg.getLsbD 63 = true → f.dwafer ≠ s.waferId.toNat → s.linkTo f.dwafer = some l → (s.gateAt l).amask = 0xFF →
    Gives (.linkFrameReceive g f) s fun t => (t.gateAt l).txFrames = (s.gateAt l).txFrames ++ [f] ∧ t.net = s.net ∧ t.mem = s.mem) ∧
  (∀ peer, gate.slkcfg.getLsbD 63 = true → (peer = true ∨ gate.waketh.toNat ≤ gate.depth) → gate.waking = false → gate.parked ≠ 0 →
    Gives (.linkWake g peer) s fun t => (t.gateAt g).waking = true ∧ (t.gateAt g).wakeAt = s.vtime.toNat ∧ (t.gateAt g).fail = 0 ∧
      (t.gateAt g).amask = gate.amask) ∧
  (∀ lam < 8, gate.waking = true → gate.parked.getLsbD lam = true → Gives (.wavelengthReady g lam) s fun t =>
    (t.gateAt g).amask = gate.amask ||| (1#8 <<< lam) ∧ (t.gateAt g).txFrames = gate.txFrames) ∧
  (gate.waking = true → (gate.wakeAt + 2000 ≤ s.vtime.toNat → Gives (.wakeTimeout g) s fun t => (t.gateAt g).waking = false ∧
      (t.gateAt g).fail = gate.fail ||| gate.parked ∧ (t.gateAt g).amask = gate.amask ∧ t.linkFails = s.linkFails ++ [(g, gate.parked)]) ∧
    (s.vtime.toNat < gate.wakeAt + 2000 → Gives (.wakeTimeout g) s fun t => t.gateAt g = gate)) ∧
  (∀ mask : BitVec 6, (gate.txFrames = [] → 64 * gate.idlewin.toNat ≤ gate.idle → gate.waking = false → Gives (.linkPark g mask) s fun t =>
      (t.gateAt g).pmask = gate.pmask ||| mask ∧ (t.gateAt g).amask = gate.amask &&& ~~~((gate.pmask ||| mask) ++ 0#2 : BitVec 8)) ∧
    (gate.txFrames ≠ [] → Gives (.linkPark g mask) s fun t => t.gateAt g = gate))


/-- R201, R206 to R211, R213, R490: a posted record is queued or refused by the first check it fails; the dispatcher takes the first
record in order, one on a vault clock, refuses one with a failed predecessor, and takes a timed one at its time; cancel and
kill act by the record's state after the clock's decision (`d`), a kill also when a field manager has asked for it; a launch that
passes the checks of its placement stays BINDING until its fields run at its floor and, over several wafers, until every wafer has
loaded it, then runs and holds its cells and fields; a quiescent one is DONE and holds nothing. -/
def Obligations.LaunchLife : Prop := ∀ (s : State) (i : Nat), i < 64 →
  let l := s.launchAt i
  let now := s.vtime.toNat
  let d : State := (if s.bootst = 6 then M.takeDecision { s := s } else { s := s }).s
  let ctrl := d.recNum i 4 2
  (s.recState i = 1 → s.bootst = 6 →
    (s.postStatus i = 0 → Gives (.launchPosting i) s fun t => t.mem = (s.recorded i 2 0).mem ∧
      t.launchAt i = { l with queuedAt := s.vtime.toNat, pasid := s.recPasid i }) ∧
    (s.recBad i = true → exec (.launchPosting i) s = .next (s.recorded i 6 0x0001)) ∧
    (s.recBad i = false → s.levelsBad i = true → exec (.launchPosting i) s = .next (s.recorded i 6 0x0002)) ∧
    (s.recBad i = false → s.levelsBad i = false → s.recStart i ≠ 0 → s.recStart i < s.vtime.toNat →
      exec (.launchPosting i) s = .next (s.recorded i 6 0x0003)) ∧
    (s.recBad i = false → s.levelsBad i = false → s.recStart i = 0 → fld (s.pgrant.get 0 (s.recHctx i)) 0 16 < s.recFmin i →
      exec (.launchPosting i) s = .next (s.recorded i 6 0x0004))) ∧
  (s.recState i ≠ 1 → exec (.launchPosting i) s = .next s) ∧
  (s.recState i = 2 → s.recStart i = 0 → (∀ j < 64, s.timedDue j = false) →
    (s.preds i = .failed → exec (.launchDispatch i) s = .next (s.recorded i 6 0x0009)) ∧
    (s.preds i = .waiting → exec (.launchDispatch i) s = .next s) ∧
    (s.preds i = .done → s.fieldsFree i = true → (∀ j < 64, j ≠ i → s.recState j = 2 → s.recStart j = 0 → s.preds j ≠ .failed → s.ahead i j = true) →
      (s.dispAt ≠ some now → exec (.launchDispatch i) s = .next { s.recorded i 3 0 with dispAt := some now }) ∧
      (s.dispAt = some now → exec (.launchDispatch i) s = .next s))) ∧
  (∀ placeable, s.timedDue i = true → (∀ j < 64, j ≠ i → s.timedDue j = true → s.timedAhead i j = true) →
    (s.preds i ≠ .done → Gives (.timedDispatch i placeable) s fun t => t.mem = (s.recorded i 9 0x000A).mem ∧ t.supLog = s.supLog ++ [(i, 0x18)]) ∧
    (s.preds i = .done → placeable = true → s.fieldsFree i = true → exec (.timedDispatch i placeable) s = .next (s.recorded i 3 0)) ∧
    (s.preds i = .done → placeable = false ∨ s.fieldsFree i = false → exec (.timedDispatch i placeable) s = .next (s.recorded i 6 0x000B))) ∧
  (s.bootst = 6 → s.mem.wf = true → s.dispAt ≠ some now → (∀ j < 64, s.timedDue j = false) → (∀ j < 64, s.untimed j = true → s.preds j ≠ .failed) →
    s.firstReady i = true → s.recNum i 4 2 = 1 →
    exec (.launchCancel i) s = .next ((({ s.recorded i 3 0 with dispAt := some now } : State).recSet i 2 0x0010).recSet i 4 0)) ∧
  (ctrl = 1 → (d.recState i = 1 ∨ d.recState i = 2 → exec (.launchCancel i) s = .next ((d.recSet i 0 7).recSet i 4 0)) ∧
    (d.recState i = 3 ∨ d.recState i = 4 → exec (.launchCancel i) s = .next ((d.recSet i 2 0x0010).recSet i 4 0)) ∧
    (finalState (d.recState i) = true → exec (.launchCancel i) s = .next (d.recSet i 4 0))) ∧
  (3 ≤ ctrl → exec (.launchCancel i) s = .next (d.recSet i 4 0)) ∧
  (let killed (t : State) (c : Nat) : Prop := (t.launchAt i).cells = [] ∧ (t.launchAt i).fields = [] ∧
     ∀ x < 4, (t.ctxAt c x).flight = [] ∧ (t.ctxAt c x).next = .idle ∧ (t.ctxAt c x).stopped = false ∧ (t.ctxAt c x).mq = []
   let alone (c : Nat) : Prop := (d.recState i = 3 ∨ d.recState i = 4) ∧ (d.launchAt i).dying = none ∧ (d.launchAt i).cells = [c] ∧
     (d.launchAt i).slices = [] ∧ (d.cellAt c).cpcfg = []
   (ctrl = 2 → (d.recState i ≠ 3 → d.recState i ≠ 4 → exec (.launchKill ⟨i, false⟩) s = .next ((d.recSet i 2 0x0011).recSet i 4 0)) ∧
     (∀ c, alone c → Gives (.launchKill ⟨i, false⟩) s fun t => t.mem = ((d.recorded i 8 (d.recNum i 2 2)).recSet i 4 0).mem ∧ killed t c)) ∧
   (ctrl ≠ 2 → exec (.launchKill ⟨i, false⟩) s = .next d) ∧
   (∀ c, alone c → d.mayAsk i = true → d.fw.dump.length < 16 → Gives (.launchKill ⟨i, true⟩) s fun t =>
     t.mem = ((d.recorded i 8 (d.recNum i 2 2)).recSet i 4 0).mem ∧ killed t c) ∧
   (d.mayAsk i = false → exec (.launchKill ⟨i, true⟩) s = .next d)) ∧
  (∀ p, s.recState i = 3 → l.dying = none → regionsOk (s.formed p).regions = true →
    let u := s.unbound i
    let w (b : Bind) : State := (u.formed p).granting b
    (s.recGraph i = none → exec (.launchBinding i p) s = .next (u.recorded i 6 0x0007)) ∧
    (∀ g, s.recGraph i = some g → l.loaded = false →
      (32 < extentOf (s.recLevels i) 4 * g.npg → exec (.launchBinding i p) s = .next (u.recorded i 6 0x0002)) ∧
      (extentOf (s.recLevels i) 4 * g.npg ≤ 32 → s.ownGroups i = none → exec (.launchBinding i p) s = .next (u.recorded i 6 0x0008)) ∧
      ∀ gs, extentOf (s.recLevels i) 4 * g.npg ≤ 32 → s.ownGroups i = some gs →
        let sites := gs.filterMap fun e => (siteFor p e).map fun c => ({ g := e, cell := c } : Site)
        let b : Bind := { i := i, graph := g, sites := sites }
        (sites.length ≠ gs.length ∨ u.placed i p sites = false →
          exec (.launchBinding i p) s = .next (if p.more then u else u.recorded i 6 0x0008)) ∧
        (sites.length = gs.length → u.placed i p sites = true →
          let why := (u.formed p).bindStatus b
          (why ≠ 0 → p.more = false ∨ (why ≠ 0x0006 ∧ why ≠ 0x0008 ∧ why ≠ 0x000D) →
            exec (.launchBinding i p) s = .next (u.recorded i 6 why)) ∧
          (why = 0x0006 ∨ why = 0x0008 ∨ why = 0x000D → p.more = true → exec (.launchBinding i p) s = .next u) ∧
          (why = 0 → (w b).granted b = false → Gives (.launchBinding i p) s fun t => t.mem = s.mem ∧ t.cells = s.cells ∧
            (t.launchAt i).cells = []) ∧
          (why = 0 → (w b).granted b = true →
            (M.bindAll { s := w b } p b = none → exec (.launchBinding i p) s = .next (u.recorded i 6 0x0008)) ∧
            ∀ m, M.bindAll { s := w b } p b = some m →
              (s.spansWafers i = true → p.ready = false → Gives (.launchBinding i p) s fun t => t.mem = m.s.mem ∧
                (t.launchAt i).loaded = true ∧ (t.launchAt i).cells = b.cells ∧ (t.launchAt i).fields = b.fields) ∧
              (s.spansWafers i = false ∨ p.ready = true →
                (∀ n, m.start b = some n → Gives (.launchBinding i p) s fun t => t.mem = (n.s.recorded i 4 0).mem ∧
                  (t.launchAt i).loaded = false ∧ (t.launchAt i).cells = b.cells ∧ (t.launchAt i).fields = b.fields ∧
                  (t.launchAt i).snap = false) ∧
                (m.start b = none → Gives (.launchBinding i p) s fun t => (t.launchAt i).cells = [] ∧ (t.launchAt i).fields = []))))) ∧
    (∀ g, s.recGraph i = some g → l.loaded = true → (p.ready = false → exec (.launchBinding i p) s = .next s) ∧
      (∀ n, p.ready = true → M.start { s := s } { i := i, graph := g, sites := s.boundSites g ((s.ownGroups i).getD []) } = some n →
        Gives (.launchBinding i p) s fun t => t.mem = (n.s.recorded i 4 0).mem ∧ (t.launchAt i).loaded = false ∧ (t.launchAt i).cells = l.cells))) ∧
  (s.recState i = 4 → l.snap = false → l.dying = none → (s.quiet l = false → exec (.completionToken i) s = .next s) ∧
    (s.quiet l = true → l.slices = [] → Gives (.completionToken i) s fun t => t.mem = (s.recSet i 0 5).mem ∧
      (t.launchAt i).cells = [] ∧ (t.launchAt i).fields = [] ∧ t.ctxs = s.ctxs))

/-- R180, R462, R463, R465: a host access goes to the mesh as a remote access, or is completed with an error where it has no home; at
its home a posting into a FREE record passes, no field of a record that is not FREE does, and each ends with an answer; MBCTL
and the payload are closed while GO is 1; translations come and go. -/
def Obligations.HostAccesses : Prop := ∀ (s : State) (a : HostAcc) (i : Nat),
  let refused : Prop := Gives (.hostMemAccess a) s fun t => t.mem = s.mem ∧ t.net = s.net ∧ ∃ r, t.resps = s.resps ++ [r] ∧ r.back = .host ∧
    r.err = some cSpace ∧ t.herr = s.herr ∧ (∀ d, a.wr = some d → t.herrNow = s.hostDrop.herrNow) ∧
    (a.wr = none → t.herrNow = s.herrNow ∧ r.data = List.replicate a.len (0, true))
  (a.range = 0 →
    let n := match a.wr with
      | some d => d.length
      | none => a.len
    (a.off + n ≤ 0x10000 → exec (.hostMemAccess a) s = .next { s with fresh := s.fresh + 1, net := s.net ++ [s.recordAcc a] }) ∧
    (0x10000 < a.off + n → refused)) ∧
  (let c := s.recordAcc a
   c.who = .host ∧ c.vc = 7 ∧ c.place = some (hdm0 a.off) ∧ c.back = .host ∧ (a.wr = none → c.op = .read ∧ c.len = a.len) ∧
   ∀ d, a.wr = some d → c.op = .record a.off d a.poi) ∧
  (∀ n c off d poi, s.net[n]? = some c → c.op = .record off d poi → c.place = some (hdm0 off) → c.ring = none → c.back = .host →
    s.firstAtHome n c = true → s.routerStops c = false → s.stale c = false → s.accHeld c = false →
    let done (mem : Mem) (now : Word) : Prop := Gives (.homeAccess n) s fun t => t.mem = mem ∧ t.herr = s.herr ∧ t.herrNow = now ∧
      t.net = s.net.eraseIdx n ∧ s.Answered t c [] none
    (i < 64 → off = 256 * i → d = [1, 0] → poi = false → s.recState i = 0 → done (s.recSet i 0 1).mem s.herrNow) ∧
    (∀ j, i < 64 → off = 256 * i + j → 6 ≤ j → j + d.length ≤ 256 → d ≠ [] → s.recState i ≠ 0 → done s.mem s.hostDrop.herrNow) ∧
    (0x4000 ≤ off → d ≠ [] → done s.mem s.hostDrop.herrNow)) ∧
  (s.herr.toNat + s.herrNow.toNat < 2 ^ 32 - 1 → s.hostDrop = { s with herrNow := s.herrNow + 1 }) ∧
  (2 ^ 32 - 1 ≤ s.herr.toNat + s.herrNow.toNat → s.hostDrop = s) ∧
  (let n := a.off / 2 ^ 30
   let w := s.hwin.get 0 n
   a.range = 1 →
    (n < 8 → w.getLsbD 63 = true → fld w 37 4 = 0 → Gives (.hostMemAccess a) s fun t => t.mem = s.mem ∧ ∃ c, t.net = s.net ++ [c] ∧ c.who = .host ∧ c.vc = 7 ∧
      c.addr = BitVec.ofNat 64 (fld w 37 24 * 2 ^ 37 + fld w 61 2 * 2 ^ 35 + (fld w 30 5 * 2 ^ 30 + a.off % 2 ^ 30)) ∧
      (∀ d, a.wr = some d → c.op = .write (d.map fun b => (b, a.poi)) ∧ c.len = d.length) ∧ (a.wr = none → c.op = .read ∧ c.len = a.len)) ∧
    (w.getLsbD 63 = false ∨ 8 ≤ n ∨ fld w 37 4 ≠ 0 → refused)) ∧
  (∀ d, a.range = 2 → a.wr = some d →
    (s.mbctl.getLsbD 0 = true → exec (.hostMemAccess a) s = .next { s with mbstat := s.mbstat ||| 1 }) ∧
    (s.mbctl.getLsbD 0 = false → a.off = 0 → Gives (.hostMemAccess a) s fun t => t.PayloadIs d ∧ t.mem = s.mem ∧ t.mbstat = s.mbstat)) ∧
  (∀ b, (s.mbctl.getLsbD 0 = true → exec (.mailboxOverrun b) s = .next { s with mbstat := s.mbstat ||| 1 }) ∧
    (s.mbctl.getLsbD 0 = false → exec (.mailboxOverrun b) s = .next s)) ∧
  (a.range = 2 → a.wr = none → Gives (.hostMemAccess a) s fun t => t.mem = s.mem ∧ t.net = s.net ∧ ∃ r, t.resps = s.resps ++ [r] ∧
    r.back = .host ∧ r.err = none ∧ r.data = (List.range a.len).map fun j => (s.mbox.get 0 (a.off + j), false)) ∧
  (∀ pasid page h k, k ≤ 2 →
    let e : Atc := { pasid := pasid, page := page / 512 ^ k, host := h / 512 ^ k, order := k }
    (∀ o ∈ s.atc, ¬(o.pasid = pasid ∧ o.page = page / 512 ^ k ∧ o.order = k)) → (s.atc.filter fun o => o.set == e.set).length < 8 →
    Gives (.atsMiss pasid page (some (h, k))) s fun t => t.mem = s.mem ∧ t.net = s.net ∧ t.atc = s.atc ++ [e]) ∧
  (∀ pasid page, let used (c : Acc) (o : Nat) : Prop := c ∈ s.net ∧ c.done ≠ 0 ∧ ∃ p, c.place = some p ∧ p.r = .host pasid ∧ p.off = o
    (∀ e c o, e ∈ s.atc → e.covers pasid page = true → used c o → e.covers pasid (o / 4096) = true →
      exec (.atsInvalidation pasid page) s = .next s) ∧
    ((∀ c ∈ s.net, c.done = 0) → Gives (.atsInvalidation pasid page) s fun t => t.mem = s.mem ∧ t.net = s.net ∧
      t.atc = s.atc.filter fun e => !e.covers pasid page))

/-- R432, R441, R459, R466 to R469, R491, Table 20-3, Table 20-4: what each mailbox command answers and changes, and how boot
goes from stage to stage (stage 0x04 writes what log 89 names). -/
def Obligations.MailboxAndBoot : Prop := ∀ (s : State),
  (∀ floor, s.mbWaits 1 = true → (s.bootst ≠ 1 → Gives (.fwload floor) s fun t => MbDone s t 3 ∧ t.fw = s.fw ∧ t.bootst = s.bootst) ∧
    (s.bootst = 1 → s.mbLen = 0 ∨ 4096 < s.mbLen → Gives (.fwload floor) s fun t => MbDone s t 2 ∧ t.fw = s.fw ∧ t.bootst = 1) ∧
    (s.bootst = 1 → 0 < s.mbLen → s.mbLen ≤ 4096 →
      let img := s.fw.image ++ s.payload s.mbLen
      let good := Config.xmssVerifies (img.take 4096) = true ∧ s.fw.minSvn ≤ imageSvn img ∧
        Config.shake256 ((img.drop 4096).take (imageLen img)) = imageDigest img
      (img.length < 4096 → Gives (.fwload floor) s fun t => MbDone s t 0 ∧ t.fw = { s.fw with image := img } ∧ t.bootst = 1) ∧
      (4096 + imageLen img ≤ img.length → Gives (.fwload floor) s fun t =>
        (good → MbDone s t 0 ∧ t.bootst = 2 ∧ t.fw.ver = imageVer img ∧ t.fw.svn = imageSvn img ∧ t.fw.digest = imageDigest img ∧
          t.fw.minSvn = max s.fw.minSvn (min (imageSvn img) floor)) ∧
        (¬good → MbDone s t 3 ∧ t.bootst = 0xFF ∧ t.fw.minSvn = s.fw.minSvn ∧ t.fw.image = [])))) ∧
  (s.mbWaits 2 = true → Gives .getid s fun t => MbDone s t 0 ∧ t.PayloadIs Config.certificates) ∧
  (s.mbWaits 3 = true → (s.mbLen ≠ 32 → Gives .attest s fun t => MbDone s t 2 ∧ t.fw = s.fw) ∧
    (s.mbLen = 32 → 2 ^ 20 ≤ s.fw.leaf → Gives .attest s fun t => MbDone s t 3 ∧ t.fw = s.fw) ∧
    (s.mbLen = 32 → s.fw.leaf < 2 ^ 20 → Gives .attest s fun t => MbDone s t 0 ∧ t.fw = { s.fw with leaf := s.fw.leaf + 1 } ∧
      ∃ r, t.PayloadIs (r ++ Config.signature r) ∧ r = s.payload 32 ++ s.fw.digest ++ leBytes 4 s.fw.svn ++ Config.shake256 s.liveMap ++ leBytes 4 s.fw.leaf)) ∧
  (s.mbWaits 4 = true → (s.mbLen = 16 → Gives .dumpbuf s fun t => MbDone s t 0 ∧ t.fw = { s.fw with dump := s.payload 16 }) ∧
    (s.mbLen ≠ 16 → Gives .dumpbuf s fun t => MbDone s t 2 ∧ t.fw = s.fw)) ∧
  (s.mbWaits 5 = true → 3 ≤ s.mbLen →
    let v := leNum (s.payload 4)
    (v / 2 ^ 16 % 2 = 1 → Gives .halt s fun t => MbDone s t 0 ∧ t.haltGroups = s.haltGroups &&& ~~~(BitVec.ofNat 16 v)) ∧
    (v / 2 ^ 16 % 2 = 0 → Gives .halt s fun t => MbDone s t 0 ∧ t.haltGroups = s.haltGroups ||| BitVec.ofNat 16 v)) ∧
  (s.mbWaits 6 = true → s.mbLen ≠ 0 →
    let f := leNum (s.payload 1)
    let k := s.fieldAt f
    (f = 0xFF → Gives .telem s fun t => MbDone s t 0 ∧ t.PayloadIs (leBytes 8 s.modtel.toNat)) ∧
    (f < Config.nFields → Gives .telem s fun t => MbDone s t 0 ∧
      t.PayloadIs (leBytes 8 k.fvf.toNat ++ leBytes 8 k.pwctl.toNat ++ leBytes 8 k.ftel.toNat ++ leBytes 8 k.energy.toNat)) ∧
    (Config.nFields ≤ f → f ≠ 0xFF → Gives .telem s fun t => MbDone s t 2)) ∧
  (s.mbWaits 7 = true → ∀ ok,
    let h := leNum (s.payload 1)
    let v := leNum ((s.payload 16).drop 8)
    let fmax := v % 2 ^ 16
    let fine := leNum ((s.payload 8).drop 1) = 0 ∧ v / 2 ^ 49 = 0 ∧ v / 2 ^ 16 % 2 ^ 16 = 0 ∧ (fmax = 0 ∨ 600 ≤ fmax ∧ fmax ≤ 1600) ∧
      v / 2 ^ 32 % 2 ^ 16 ≤ 36000
    (s.mbLen ≠ 16 ∨ 15 < h ∨ ¬fine → Gives (.grant ok) s fun t => MbDone s t 2 ∧ t.pgrant = s.pgrant) ∧
    (s.mbLen = 16 → h ≤ 15 → fine → (ok = true → Gives (.grant ok) s fun t => MbDone s t 0 ∧ t.pgrant = s.pgrant.set h (BitVec.ofNat 64 v)) ∧
      (ok = false → Gives (.grant ok) s fun t => MbDone s t 3 ∧ t.pgrant = s.pgrant))) ∧
  (s.mbWaits 8 = true →
    let d := s.payload s.mbLen
    (s.busyLaunch = true → Gives .syscfg s fun t => MbDone s t 4 ∧ t.torus = s.torus) ∧
    (s.busyLaunch = false → s.torusOk d = false → Gives .syscfg s fun t => MbDone s t 2 ∧ t.torus = s.torus) ∧
    (s.busyLaunch = false → s.torusOk d = true → Gives .syscfg s fun t => MbDone s t 0 ∧ t.waferId = BitVec.ofNat 8 (torusOf d).1 ∧
      t.dims = (torusOf d).2.1 ∧ t.torus = (torusOf d).2.2)) ∧
  (s.mbctl.getLsbD 0 = true → (fld s.mbctl 1 15 = 0 ∨ 8 < fld s.mbctl 1 15) → Gives .unknownMailboxCommand s fun t => MbDone s t 1) ∧
  (s.mbctl.getLsbD 0 = false → exec .unknownMailboxCommand s = .next s ∧ exec .getid s = .next s ∧ exec .attest s = .next s ∧
    exec .halt s = .next s ∧ exec .syscfg s = .next s) ∧
  (∀ rows, (s.bootst = 0 → exec (.bootProgress (some rows)) s = .next { s with bootst := 1 }) ∧
    (∀ found, s.bootst = 1 → exec (.bootProgress found) s = .next s) ∧
    (s.bootst = 2 → exec (.bootProgress (some rows)) s = .next { s with bootst := 3 }) ∧
    (s.bootst = 3 → Gives (.bootProgress (some rows)) s fun t => t.bootst = 4 ∧ t.mem = s.mem ∧ ((t.fieldAt 7).slice 78).mode = 2 ∧
      t.ftab = [] ∧ t.anpadMax = BitVec.ofNat 16 (min t.maxPath 65535) ∧ t.anpadMax.toNat ≤ t.anpadPad.toNat ∧
      (∀ f < Config.nFields, ((t.fieldAt f).slice 79).mode = 2 ∧ ((t.fieldAt f).slice 77).mode = 3) ∧
      ∀ c b r j, rows = [(c, b, r)] → (s.cellAt c).vault.spareFor b r = some j →
        (t.cellAt c).vault.vrmap.get 0 (b * 128 + j) = BitVec.ofNat 16 (2 ^ 15 + r)) ∧
    (s.bootst = 4 → Gives (.bootProgress (some rows)) s fun t => t.bootst = 5 ∧ (s.fw.resume = false → t.launches = []) ∧
      (s.fw.resume = true → t.launches = s.launches)) ∧
    (s.bootst = 5 → exec (.bootProgress (some rows)) s = .next { s with bootst := 6 }) ∧
    (s.bootst.toNat < 6 → s.bootst ≠ 1 → Gives (.bootProgress none) s fun t => t.bootst = 0xFF ∧ t.mem = s.mem))

/-- R5, R8, R19, R78, R83, R89, R133, R148, R187, R198, R315, R337, R367, R391, R399, R436, R445, R446, R450, R453, R458, R462: what
register reads with side effects, clears and writes do; SEMOVF keeps the bits set in the present cycle; a slice's mode, a binding,
VSW, a tree channel and PAD change at quiesced points only; FVF takes the operating point that its region may have, PWCTL what the
power cap allows; a write of a translation entry counts as made in the generation that follows. -/
def Obligations.RegisterAccess : Prop := ∀ (s : State) (cell x f g n : Nat) (v : Word),
  let c := s.ctxAt cell x
  let k := s.cellAt cell
  exec .herrRead s = .next { s with herr := 0 } ∧
  Gives (.hdropRead cell) s (fun t => t.cellAt cell = { k with hdrop := 0 } ∧ t.ctxs = s.ctxs ∧ t.mem = s.mem) ∧
  Gives (.sterrClear cell x) s (fun t => let d := t.ctxAt cell x
    d = { c with sterr := d.sterr, sterra := 0 } ∧ fld d.sterr 56 8 = 0 ∧ fld d.sterr 32 16 = 0 ∧ t.cells = s.cells ∧ t.mem = s.mem) ∧
  Gives (.vxstatClear cell x) s (fun t => let d := t.ctxAt cell x
    d = { c with vxstat := d.vxstat } ∧ fld d.vxstat 56 8 = 0 ∧ fld d.vxstat 48 6 = 0 ∧ fld d.vxstat 32 16 = 0 ∧
    fld d.vxstat 0 32 = fld c.vxstat 0 32 ∧ t.cells = s.cells ∧ t.mem = s.mem) ∧
  Gives (.mxstatClear cell x) s (fun t => let d := t.ctxAt cell x
    d = { c with mxstat := d.mxstat } ∧ fld d.mxstat 56 8 = 0 ∧ fld d.mxstat 52 4 = 0 ∧ fld d.mxstat 47 5 = 0 ∧ fld d.mxstat 16 16 = 0 ∧
    fld d.mxstat 0 16 = fld c.mxstat 0 16 ∧ t.cells = s.cells ∧ t.mem = s.mem) ∧
  Gives (.txstatClear cell x) s (fun t => let d := t.ctxAt cell x
    d = { c with txstat := d.txstat } ∧ fld d.txstat 56 8 = 0 ∧ fld d.txstat 48 8 = 0 ∧ fld d.txstat 32 16 = 0 ∧
    fld d.txstat 0 32 = fld c.txstat 0 32 ∧ t.cells = s.cells ∧ t.mem = s.mem) ∧
  Gives (.semovfClear cell v) s (fun t => t.cellAt cell = { k with semovf := k.semovf &&& ~~~(v &&& ~~~k.ovfNow) } ∧ t.ctxs = s.ctxs ∧
    t.mem = s.mem) ∧
  Gives (.srseedWrite cell x v) s (fun t => t.ctxAt cell x = { c with srseed := if v = 0 then 1 else v } ∧ t.cells = s.cells ∧ t.mem = s.mem) ∧
  Gives (.registerWrite (.cellCfg cell) v) s (fun t => t.cellAt cell = { k with schk := v.getLsbD 1, atom := v.getLsbD 0 } ∧ t.ctxs = s.ctxs) ∧
  Gives (.registerWrite (.codeRgn cell) v) s (fun t =>
    t.cellAt cell = { k with codeLim := v.extractLsb' 16 8, codeBase := v.extractLsb' 0 8 } ∧ t.ctxs = s.ctxs) ∧
  (let fl := s.fieldAt f
   let volt := s.voltOf (s.governedIn f) (fld v 0 16)
   let ok := fl.governed = true ∧ (∀ e ∈ s.governedIn f, (s.fieldAt e).atRest = true ∧ s.freqOk e (fld v 0 16) = true) ∧ fld v 32 12 = volt.toNat
   (Gives (.registerWrite (.fvf f) v) s fun t => (¬ok → t = s) ∧ (ok → t.cells = s.cells ∧ (t.fieldAt f).floor = v.extractLsb' 48 16 ∧
     (t.fieldAt f).boost = v.getLsbD 44 ∧ ∀ e ∈ s.governedIn f, let d := t.fieldAt e
       d.freq = (s.fieldAt e).freq ∧ d.freqGoal = v.setWidth 16 ∧ d.setVolt = volt ∧ d.trip = (s.fieldAt e).trip ∧
       ((s.fieldAt e).freq.toNat < fld v 0 16 → d.volt = some volt ∧ d.settled = false) ∧
       (e ≠ f → d.boost = decide (1250 < fld v 0 16) ∧ d.floor = (s.fieldAt e).floor))) ∧
   (fl.governed = true → f < Config.nFields → f ∈ s.governedIn f) ∧
   (let cap := capOf (fld v 24 24) fl.freq.toNat
    let fits := stepOk (fld v 56 8) = true ∧ stepOk (fld v 48 8) = true ∧ cap ≤ max (s.capFor f) fl.ecap ∧
      (fl.hot = false ∨ fld v 24 24 = 0 ∨ fld v 24 24 < fl.ebfill.toNat)
    (fits → Gives (.registerWrite (.pwctl f) v) s fun t => t.fieldAt f =
      { fl with mstep := v.extractLsb' 56 8, vstep := v.extractLsb' 48 8, ebfill := v.extractLsb' 24 24, ecap := cap }) ∧
    (¬fits → exec (.registerWrite (.pwctl f) v) s = .next s)) ∧
   Gives (.registerWrite (.ebcap f) v) s (fun t => t.fieldAt f = { fl with ebcap := v.setWidth 32 }) ∧
   (let fits := dutyOk v = true ∧ (fl.hot = false ∨ countBits 64 v.toNat ≤ countBits 64 fl.duty.toNat)
    (fits → Gives (.registerWrite (.duty f) v) s fun t => t.fieldAt f = { fl with duty := v, cycle := 0 } ∧
      (fieldOf cell = f → t.cellAt cell = { k with slewVp := k.slewV, slewV := 0, slewMp := k.slewM, slewM := 0 }) ∧
      (fieldOf cell ≠ f → t.cellAt cell = k)) ∧
    (¬fits → exec (.registerWrite (.duty f) v) s = .next s)) ∧
   (let bound := ∃ e < 8, (fl.fcb.get 0 e).getLsbD 63 = true ∧ fld (fl.fcb.get 0 e) 56 7 = n
    (s.fieldQuiet f = true → (fl.slice n).live ≠ 0 → ¬bound → Gives (.registerWrite (.fsslc f n) v) s fun t =>
      (t.fieldAt f).slice n = { fl.slice n with mode := v.extractLsb' 62 2 } ∧ t.mem = s.mem) ∧
    (s.fieldQuiet f = false ∨ (fl.slice n).live = 0 ∨ bound → exec (.registerWrite (.fsslc f n) v) s = .next s)) ∧
   (let good := s.fieldQuiet f = true ∧ (v.getLsbD 63 = false ∨ ((fl.slice (fld v 56 7)).mode = 1 ∧ (fl.slice (fld v 56 7)).live ≠ 0))
    (good → s.fcbBusy f n = none → Gives (.registerWrite (.fcb f n) v) s fun t => (t.fieldAt f).fcb.get 0 n = fcbOf v ∧ t.mem = s.mem) ∧
    (∀ sl, good → s.fcbBusy f n = some sl → Gives (.registerWrite (.fcb f n) v) s fun t => (t.fieldAt f).fcb = fl.fcb ∧
      (n, fcbOf v) ∈ (t.fieldAt f).fcbNext ∧ ((t.fieldAt f).slice sl).flushing = true ∧ t.mem = s.mem) ∧
    (¬good → exec (.registerWrite (.fcb f n) v) s = .next s))) ∧
  Gives (.registerWrite (.pgrant n) v) s (fun t => fld (t.pgrant.get 0 n) 0 16 = fld v 0 16 ∧ fld (t.pgrant.get 0 n) 32 17 = fld v 32 17 ∧
    fld (t.pgrant.get 0 n) 16 16 = 0 ∧ fld (t.pgrant.get 0 n) 49 15 = 0) ∧
  Gives (.registerWrite (.hwin n) v) s (fun t => fld (t.hwin.get 0 n) 37 27 = fld v 37 27 ∧ fld (t.hwin.get 0 n) 30 5 = fld v 30 5 ∧
    fld (t.hwin.get 0 n) 35 2 = 0 ∧ fld (t.hwin.get 0 n) 0 30 = 0) ∧
  (s.mbctl.getLsbD 0 = true → exec (.registerWrite .mbctl v) s = .next { s with mbstat := s.mbstat ||| 1 }) ∧
  (s.mbctl.getLsbD 0 = false → Gives (.registerWrite .mbctl v) s fun t => fld t.mbctl 32 16 = fld v 32 16 ∧ fld t.mbctl 0 16 = fld v 0 16 ∧
    fld t.mbctl 16 16 = 0 ∧ fld t.mbctl 48 16 = 0 ∧ t.mbstat = s.mbstat) ∧
  (v.getLsbD 0 = false → exec (.registerWrite .mbstat v) s = .next s) ∧
  (v.getLsbD 0 = true → Gives (.registerWrite .mbstat v) s fun t => t.mbstat.getLsbD 0 = false ∧ fld t.mbstat 8 8 = fld s.mbstat 8 8) ∧
  (let still := ∀ l ∈ s.launches, l.2.snap = true
   (still → Gives (.registerWrite .anpad v) s fun t => t.anpadPad = v.setWidth 16 ∧ t.anpadMax = s.anpadMax) ∧
   (¬still → exec (.registerWrite .anpad v) s = .next s)) ∧
  (let quiet := s.quiesced cell = true ∧ s.chanQuiet n = true
   (quiet → Gives (.registerWrite (.treech cell n) v) s fun t => fld ((t.cellAt cell).treech.get 0 n) 54 10 = fld v 54 10 ∧
     fld ((t.cellAt cell).treech.get 0 n) 0 54 = 0) ∧
   (¬quiet → exec (.registerWrite (.treech cell n) v) s = .next s)) ∧
  (s.chanQuiet n = true → Gives (.registerWrite (.anmask f g n) v) s fun t => t.nodeMask f g n = v.setWidth 16) ∧
  (s.chanQuiet n = false → exec (.registerWrite (.anmask f g n) v) s = .next s) ∧
  (∀ j < 8, (s.quiesced cell = true → Gives (.registerWrite (.cellCsr cell (0x120 + BitVec.ofNat 12 j)) v) s fun t =>
      fld ((t.cellAt cell).vsw.get 0 j) 61 3 = fld v 61 3 ∧ fld ((t.cellAt cell).vsw.get 0 j) 21 40 = 0 ∧
      fld ((t.cellAt cell).vsw.get 0 j) 0 21 = fld v 0 21) ∧
    (s.quiesced cell = false → exec (.registerWrite (.cellCsr cell (0x120 + BitVec.ofNat 12 j)) v) s = .next s)) ∧
  Gives (.registerWrite (.slkcfg g) v) s (fun t => fld (t.gateAt g).slkcfg 52 12 = fld v 52 12 ∧ fld (t.gateAt g).slkcfg 0 52 = 0) ∧
  Gives (.registerWrite (.ftab n) v) s (fun t => t.ftab.get 0 n = v.setWidth 16 &&& 0x807F ∧ t.wroteGen.get 0 (bindKey (.ftab n)) = s.gen + 1 ∧
    t.gen = s.gen ∧ ∀ c, (s.ftab.get 0 n).getLsbD 15 = true → fieldOf c = fld (s.ftab.get 0 n) 0 7 → (t.cellAt c).bcache = []) ∧
  Gives (.registerWrite (.ctab f n) v) s (fun t => (t.fieldAt f).ctab.get 0 n = v.setWidth 16 &&& 0x800F) ∧
  Gives (.registerWrite (.ltab f n) v) s (fun t => t.ltab.get 0 (f * 16 + n) = v.setWidth 16 &&& 0xE00F) ∧
  Gives (.registerWrite (.atab f g n) v) s (fun t => t.atab.get 0 ((f * 2 + g) * 32 + n) = v.setWidth 24 &&& 0xFFFF80)

/-- R183, R184, R418 to R420, R441, R471: a stop is reported once and passed on by the rule of R419; each field manager action on a
stopped context, none of them after HW_FATAL, and on one that is only halted; a hardware-fatal fault stops every context of its
cell and asks for a dump. -/
def Obligations.StoppedContexts : Prop := ∀ (s : State) (cell x : Nat),
  let c := s.ctxAt cell x
  let cause : Cause := c.tcause.setWidth 8
  let P (d : Ctx) : Prop := d.stopped = false ∧ d.tcause.getLsbD 63 = false ∧ d.slots = c.slots ∧ d.mq = c.mq
  (∀ handled, c.stopped = true → c.told = false → Gives (.stopReport cell x handled) s fun t =>
    t.ctxAt cell x = { c with told := true } ∧ t.mem = s.mem ∧
    t.supLog = (if cause = cHwFatal ∨ cause = cProgress ∨ handled = false then s.supLog ++ [(4 * cell + x, c.tcause)] else s.supLog) ∧
    ∃ r, t.reports = s.reports ++ [(cell, x, r)] ∧ r.cause = cause ∧ r.detail = c.tcause.extractLsb' 8 8 ∧ r.tval = c.tval) ∧
  (∀ handled, c.stopped = false ∨ c.told = true → exec (.stopReport cell x handled) s = .next s) ∧
  (c.stopped = true → cause ≠ cHwFatal →
    (Gives (.resume cell x) s (fun t => t.mem = s.mem ∧ P (t.ctxAt cell x) ∧
        ((∀ r, c.next ≠ .wfm r) → (t.ctxAt cell x).next = if c.tblk = 0 then .idle else .at_ c.tblk) ∧
        (∀ r, c.next = .wfm r → (t.ctxAt cell x).next = .wfm c.tblk) ∧
        (cause = cProgress → ∀ a ∈ (t.cellAt cell).ages, ¬(a.x = x ∧ a.pfault = c.tval))) ∧
      (∀ addr : Word, addr.toNat % 64 = 0 → Gives (.redirect cell x addr) s fun t => t.mem = s.mem ∧ P (t.ctxAt cell x) ∧
        (t.ctxAt cell x).next = .at_ addr) ∧
      Gives (.endh cell x) s (fun t => t.mem = s.mem ∧ P (t.ctxAt cell x) ∧ (t.ctxAt cell x).next = .idle ∧ (t.ctxAt cell x).cdepth = 0)) ∧
    (∀ addr : Word, addr.toNat % 64 ≠ 0 → exec (.redirect cell x addr) s = .next s) ∧
    (∀ n v life, c.pending (BitVec.ofNat 6 n) = false → Gives (.setslot cell x n v life) s fun t => (t.ctxAt cell x).stopped = true ∧
      (t.ctxAt cell x).slotAt (BitVec.ofNat 6 n) = { v := v, poi := false, hnd := none, life := life, wrote := some (c.ccount + 1) } ∧
      ∀ k, k ≠ BitVec.ofNat 6 n → (t.ctxAt cell x).slotAt k = c.slotAt k) ∧
    (∀ n v life, c.pending (BitVec.ofNat 6 n) = true → Gives (.setslot cell x n v life) s fun t => t.ctxAt cell x = c) ∧
    (∀ m, Gives (.mode cell x m) s fun t => t.ctxAt cell x = { c with sup := m, nextSup := m }) ∧
    Gives (.clrstat cell x) s (fun t => let d := t.ctxAt cell x
      d = { c with sterr := d.sterr, sterra := 0, vxstat := d.vxstat, mxstat := d.mxstat, txstat := d.txstat } ∧
      fld d.sterr 56 8 = 0 ∧ fld d.sterr 32 16 = 0 ∧ fld d.vxstat 56 8 = 0 ∧ fld d.vxstat 32 16 = 0 ∧ fld d.mxstat 56 8 = 0 ∧
      fld d.mxstat 16 16 = 0 ∧ fld d.txstat 56 8 = 0 ∧ fld d.txstat 32 16 = 0)) ∧
  (c.stopped = false → (s.cellAt cell).halted ≠ 0 → c.flight = [] →
    Gives (.resume cell x) s (fun t => t.ctxAt cell x = c ∧ t.mem = s.mem) ∧
    (∀ addr : Word, addr.toNat % 64 = 0 → Gives (.redirect cell x addr) s fun t => t.mem = s.mem ∧ (t.ctxAt cell x).next = .at_ addr ∧
      (t.ctxAt cell x).slots = c.slots) ∧
    (∀ m, Gives (.mode cell x m) s fun t => t.ctxAt cell x = { c with sup := m, nextSup := m }) ∧
    ∀ n v life, c.pending (BitVec.ofNat 6 n) = false → Gives (.setslot cell x n v life) s fun t =>
      (t.ctxAt cell x).slotAt (BitVec.ofNat 6 n) = { v := v, poi := false, hnd := none, life := life, wrote := some (c.ccount + 1) }) ∧
  ((c.stopped = false ∧ ((s.cellAt cell).halted = 0 ∨ c.flight ≠ [])) ∨ (c.stopped = true ∧ cause = cHwFatal) → exec (.resume cell x) s = .next s ∧ exec (.endh cell x) s = .next s ∧
    (∀ addr, exec (.redirect cell x addr) s = .next s) ∧
    (∀ n v life, Gives (.setslot cell x n v life) s fun t => t.ctxAt cell x = c) ∧
    (∀ m, Gives (.mode cell x m) s fun t => t.ctxAt cell x = c) ∧ Gives (.clrstat cell x) s fun t => t.ctxAt cell x = c) ∧
  (∀ unit, 1 ≤ unit → unit ≤ 7 → Gives (.hwFatalFault cell unit) s fun t => t.mem = s.mem ∧ (t.cellAt cell).failed = true ∧
    (t.cellAt cell).routerDown = ((s.cellAt cell).routerDown || unit == 5) ∧
    (∀ e ∈ s.launches, cell ∈ e.2.cells → e.1 ∈ t.dumpDue) ∧
    ∀ y < 4, StoppedBy t (s.ctxAt cell y) cell y cHwFatal 6 (BitVec.ofNat 8 unit) false (s.ctxAt cell y).nextAddr 0xFF (BitVec.ofNat 64 unit)) ∧
  (∀ i manager,
    let d := s.fw.dump.map fun b => (b, false)
    let asked := i ∈ s.dumpDue ∨ manager = true ∧ (s.launchAt i).fields ≠ []
    (asked → Gives (.fatalDump i manager) s fun t => i ∉ t.dumpDue ∧
      (16 ≤ s.fw.dump.length → t.dumps = s.dumps ++ [(i, s.dumpOf i)] ∧
        t.mem = (s.stored { r := .host (s.launchAt i).pasid, off := numOf (d.take 8) % 2 ^ 57 }
          (((s.dumpOf i).take (numOf ((d.drop 8).take 8))).map fun b => (b, false))).mem) ∧
      (s.fw.dump.length < 16 → t.dumps = s.dumps ∧ t.mem = s.mem)) ∧
    (¬asked → exec (.fatalDump i manager) s = .next s)) ∧
  Gives .supervisorRecovery s (fun t => t.bootst = 1 ∧ t.fw.image = [] ∧ t.fw.resume = true ∧ t.vtime = s.vtime ∧ t.waferId = s.waferId ∧
    t.torus = s.torus) ∧
  ((∀ j < 64, s.recState j = 0 ∨ finalState (s.recState j) = true) → Gives .supervisorRecovery s fun t => t.launches = s.launches ∧
    (s.fw.dump.length < 16 → t.mem = s.mem) ∧ (16 ≤ s.fw.dump.length → ∃ v, t.dumps = s.dumps ++ [(64, dumpCause v)]))

/-- R45, R81, R103, R107, R214 to R217, R397, R418, R421 to R431, R436 to R440: bank events (a vault's correctable one leaves a column to
be scrubbed, an uncorrectable one poisons its unit, in a cached line too) and retirement, pre-emption and restore, adoption
and its refusal, configuration loads, debug halts, rebinding and misrouted flits (which manager takes one: log 83). -/
def Obligations.RepairAndPreemption : Prop := ∀ (s : State) (i cell n : Nat) (b : BankRef),
  let k := s.cellAt cell
  let l := s.launchAt i
  let fb := s.fieldAt (bankField b)
  let t0 := s.vtime.toNat
  let idle : Prop := s.mem.wf = true ∧ ∀ j < 64, s.recState j ≠ 3 ∧ s.recState j ≠ 4
  (∀ key, Gives (.bankErrorEvent b key true) s fun t => t.mem = s.mem ∧
    bankLog (t.fieldAt (bankField b)).banklog b = (t0, key, true) :: bankLog fb.banklog b ∧
    (∀ e1 e2 r, bankLog fb.banklog b = e1 :: e2 :: r → e1.2.2 = true → e2.2.2 = true →
      (t0 - e2.1 < 2 ^ 24 → bankLog (t.fieldAt (bankField b)).lasting b =
        (((t0, key, true) :: e1 :: e2 :: r).filter fun e => !fb.handled b e).map fun e => e.2.1) ∧
      (2 ^ 24 ≤ t0 - e2.1 → (t.fieldAt (bankField b)).lasting = fb.lasting)) ∧
    (b = .vault cell n → (n, key / 2048, key % 2048 / 128) ∈ (t.cellAt cell).vault.flawed)) ∧
  (∀ key, Gives (.bankErrorEvent b key false) s fun t =>
    (s.bankLine b key = none → t.mem = s.mem.apply (.poison (s.bankPoison b key) true)) ∧
    (∀ f sl ln, s.bankLine b key = some (f, sl, ln) → t.mem = s.mem ∧
      { ln with data := ln.data.mapIdx fun j e => if j / 8 = key % 128 / 8 then (e.1, true) else e } ∈ ((t.fieldAt f).slice sl).lines) ∧
    (s.bankHeld b = true → fb.handled b (t0, key, false) = false → key ∈ bankLog (t.fieldAt (bankField b)).lasting b) ∧
    (s.bankHeld b = false → (t.fieldAt (bankField b)).lasting = fb.lasting)) ∧
  (bankLog fb.lasting b = [] ∨ s.bankFree b = false → exec (.bankRetirement b) s = .next s) ∧
  (bankLog fb.lasting b ≠ [] → s.bankFree b = true → s.fieldDirty (bankField b) = true →
    exec (.bankRetirement b) s = .next (s.flushField (bankField b))) ∧
  (bankLog fb.lasting b ≠ [] → s.bankFree b = true → s.fieldDirty (bankField b) = false →
    (b = .vault cell n → (∀ r ∈ s.rowsToMap b, k.vault.spareFor n r ≠ none) → exec (.bankRetirement b) s = .next s) ∧
    (b = .vault cell n → (∃ r ∈ s.rowsToMap b, k.vault.spareFor n r = none) → idle → Gives (.bankRetirement b) s fun t =>
      (t.cellAt cell).vltLive = k.vltLive &&& ~~~(1#8 <<< n) ∧ bankLog (t.fieldAt (bankField b)).lasting b = []) ∧
    (b = .tcm cell n → Gives (.bankRetirement b) s fun t => t.cellAt cell = { k with tcmLive := k.tcmLive &&& ~~~(1#16 <<< n) } ∧
      bankLog (t.fieldAt (bankField b)).lasting b = []) ∧
    (b = .csp cell n → Gives (.bankRetirement b) s fun t => (t.clusterAt cell).cspLive = (s.clusterAt cell).cspLive &&& ~~~(1#32 <<< n)) ∧
    (b = .opm cell n ∨ b = .acm cell n → idle → Gives (.bankRetirement b) s fun t => t.cellAt cell = { k with dead := true })) ∧
  (s.mustRetire cell = true → s.quiesced cell = true → k.dead = false → s.fieldDirty (fieldOf cell) = false → idle → Gives (.cellRetirement cell) s fun t =>
    t.cellAt cell = { k with dead := true } ∧ SameCells s t (· = cell) ∧ t.ctxs = s.ctxs ∧
    t.mem = ((s.stored (hdm0 (0x4000 + 88 + cell)) (bytesOf 1 1)).stored (hdm0 0x4000) (bytesOf 8 s.gen.toNat)).mem) ∧
  (s.mustRetire cell = false ∨ s.quiesced cell = false → exec (.cellRetirement cell) s = .next s) ∧
  (∀ x0 y0 x1 y1,
    let rect := s.rectFields x0 y0 x1 y1
    let fs := if s.gating = [] then rect else s.gating
    let u := fs.foldl State.gateField { s with gating := fs, holds := (s.holds ++ s.vfieldsOf fs).eraseDups }
    (fs = [] ∨ (∃ f ∈ fs, f ∉ rect) → exec (.preemption x0 y0 x1 y1) s = .next s) ∧
    (fs ≠ [] → (∀ f ∈ fs, f ∈ rect) →
      ((∀ f ∈ fs, s.binds f = false) → Gives (.preemption x0 y0 x1 y1) s fun t => ∀ f ∈ fs, (t.fieldAt f).gated = true) ∧
      ((∃ f ∈ fs, (u.fieldAt f).gated = false) ∨ u.drained fs = false → exec (.preemption x0 y0 x1 y1) s = .next u) ∧
      ((∀ f ∈ fs, (u.fieldAt f).gated = true) → u.drained fs = true →
        ((∃ f ∈ fs, u.fieldDirty f = true) → exec (.preemption x0 y0 x1 y1) s = .next (fs.foldl State.flushField u)) ∧
        ((∀ f ∈ fs, u.fieldDirty f = false) → (∃ f ∈ l.fields, f ∈ fs) → (i, l) ∈ s.launches →
          Gives (.preemption x0 y0 x1 y1) s fun t => (t.launchAt i).snap = true ∧ t.gating = [] ∧
            (∀ f ∈ l.fields, f ∈ fs → ∃ p ∈ t.fsnaps, p.launch = i ∧ p.field = f) ∧
            ∀ c, clusterOf c ∈ l.clusters → fieldOf c ∈ fs → ∃ p ∈ t.snaps, p.launch = i ∧ p.cell = c)))) ∧
  (∀ ms, i < 64 → s.recState i = 4 → l.snap = true → l.loading = false → l.dying = none → ms ≠ [] →
    let wait := s.rebindStep ≠ 0 ∨ (∃ f ∈ l.fields, f ∈ s.gating) ∨ s.restorable i ms = false
    (wait → exec (.snapshotRestore i ms) s = .next s) ∧
    (¬wait → s.unflushed l = true → exec (.snapshotRestore i ms) s = .next (s.flushAll l)) ∧
    (¬wait → s.unflushed l = false → (∀ f ∈ l.fields, l.fmin ≤ (s.fieldAt (mvField ms f)).freq.toNat) →
      ((∀ c, (s.cellAt c).lcur = 0) → (∀ p ∈ s.snaps, p.state.lcur = 0) → Gives (.snapshotRestore i ms) s fun t =>
        (t.launchAt i).snap = false ∧ (t.launchAt i).cells = l.cells.map (mvCell ms) ∧ (∀ p ∈ t.snaps, p.launch ≠ i) ∧
        ∀ f ∈ l.fields, (t.fieldAt (mvField ms f)).gated = false) ∧
      (∀ p, s.liveSnaps i = [p] → p.state.lcur ≠ 0 → Gives (.snapshotRestore i ms) s fun t =>
        (t.launchAt i).snap = true ∧ (t.launchAt i).loading = true ∧ (t.launchAt i).cells = l.cells.map (mvCell ms) ∧
        ∀ f ∈ l.fields, (t.fieldAt (mvField ms f)).gated = true))) ∧
  (∀ c, i < 64 → s.recState i = 4 → l.snap = true → l.loading = false → l.dying = none → l.cells = [c] → l.slices = [] →
    (s.cellAt c).cpcfg = [] → s.fw.dump.length < 16 → Gives (.snapshotRestore i []) s fun t => t.mem = ((s.recorded i 8 0x0008).recSet i 4 0).mem ∧ (t.launchAt i).cells = []) ∧
  (∀ x am ab nb g p q w r, i < 64 → s.recState i = 4 → k.dead = true → l.snap = true → s.recGraph i = some g →
    l.nodes.find? (fun e => e.cell == cell && e.tag / 16 % 32 == n) = some nb → s.ltabOf cell = some (p, q, w) →
    g.nodes.find? (fun e => e.lnode == nb.lnode) = some r → ∀ dst,
    let a : Adopt := { launch := i, dead := cell, cell := dst, x := x, node := n, am := am, base := ab }
    (s.adoptOk a g nb r w = false → l.slices = [] → Gives (.nodeAdoption i cell dst x n am ab) s fun t =>
      t.supLog = s.supLog ++ [(i, 0x19)] ∧ (t.launchAt i).cells = [] ∧ t.gen = s.gen) ∧
    (s.adoptOk a g nb r w = true → Gives (.nodeAdoption i cell dst x n am ab) s fun t =>
      let info := k.nodes.get {} n
      (t.ctxAt dst x).mytag = info.tag ∧ (t.ctxAt dst x).gidx0 = info.gidx0 ∧
      (t.launchAt i).cells = (l.cells ++ [dst]).eraseDups ∧ t.gen = s.gen + 1 ∧
      t.ltab.get 0 (p * 16 + q) = BitVec.ofNat 16 (2 ^ 15 + 2 ^ 14 + am * 2 ^ 13 + fld w 0 4))) ∧
  (∀ x am ab dst, k.dead = false → exec (.nodeAdoption i cell dst x n am ab) s = .next s) ∧
  (∀ load seg last d regs data, (4096 < 8 * regs.length + data.length → exec (.configSegmentLoad cell load ⟨seg, last⟩ d regs data) s = .next s) ∧
    (8 * regs.length + data.length ≤ 4096 →
      let next : Word := if last then 0 else lcurOf load (seg + 1)
      let gated := (s.fieldAt (fieldOf cell)).gated
      let load' := Instr.configSegmentLoad cell load ⟨seg, last⟩ d regs data
      ((∃ e ∈ s.launches, e.2.loading = true ∧ cell ∈ e.2.cells) →
        (k.lcur = 0 ∨ k.lcur ≠ lcurOf load seg → exec load' s = .next s) ∧
        (k.lcur ≠ 0 → k.lcur = lcurOf load seg → regs = [] → data = [] → Gives load' s fun t => (t.cellAt cell).lcur = next)) ∧
      ((∀ e ∈ s.launches, e.2.loading = true → cell ∉ e.2.cells) →
        (gated = true → k.lcur ≠ 0 ∨ s.asleep cell = true ∨ (s.liveState cell = true ∧ d = false) → exec load' s = .next s) ∧
        (gated = false → s.liveState cell = true → d = false → exec load' s = .next { s with supLog := s.supLog ++ [(cell, 0)] }) ∧
        (gated = false → s.liveState cell = true → d = true → regs = [] → data = [] → Gives load' s fun t =>
          t.supLog = s.supLog ++ [(cell, BitVec.ofNat 64 (s.liveItems cell))] ∧
          ∀ x < 4, (t.ctxAt cell x).flight = [] ∧ (t.ctxAt cell x).next = .idle ∧ (t.ctxAt cell x).mq = []) ∧
        (∀ off v, regs = [] → data = [(off, v)] → s.liveState cell = false →
          let p : Place := { r := .tcm cell, off := off }
          let mem := ((s.stored p [(v, false)]).mem).applyAll (s.fullOps p 1 true)
          (gated = false → Gives load' s fun t => t.cells = s.cells ∧ t.ctxs = s.ctxs ∧ t.mem = mem) ∧
          (gated = true → k.lcur = 0 → s.asleep cell = false → Gives load' s fun t => t.cellAt cell = { k with lcur := next } ∧
            t.ctxs = s.ctxs ∧ t.mem = mem))))) ∧
  (∀ (groups : BitVec 16), let h := k.hgrp.setWidth 16 &&& groups &&& s.haltGroups
    (h = 0 → exec (.haltSignal ⟨groups, false⟩ [cell]) s = .next s) ∧
    (h ≠ 0 → Gives (.haltSignal ⟨groups, false⟩ [cell]) s fun t => (t.cellAt cell).halted = k.halted ||| h ∧ t.ctxs = s.ctxs ∧ t.mem = s.mem) ∧
    Gives (.haltSignal ⟨groups, true⟩ [cell]) s (fun t => t.haltGroups = s.haltGroups ||| groups ∧
      (t.cellAt cell).halted = k.halted ||| (k.hgrp.setWidth 16 &&& groups) ∧ t.ctxs = s.ctxs ∧ t.mem = s.mem) ∧
    Gives (.haltRelease groups [cell]) s fun t => t.cellAt cell = { k with halted := k.halted &&& ~~~(groups &&& ~~~s.haltGroups) } ∧ t.mem = s.mem) ∧
  (∀ v ms, s.rebindStep = 0 → Gives (.rebinding [(.ftab n, v)] ms) s fun t => t.rebindStep = 1 ∧ t.gen = s.gen + 1 ∧ n ∈ t.holds ∧
    t.ftab.get 0 n = v.setWidth 16 &&& 0x807F ∧ t.wroteGen.get 0 (bindKey (.ftab n)) = s.gen + 1 ∧ t.mem = s.mem) ∧
  (∀ ms, s.rebindStep = 0 → s.misq = [] → exec (.rebinding [] ms) s = .next s) ∧
  (∀ es ms, s.rebindStep = 1 → (s.net.any s.stale = true → exec (.rebinding es ms) s = .next s) ∧
    (∀ g a, s.net.any s.stale = false → s.misq = [(g, a)] → s.translates a = true → ms = [] → (∀ e ∈ es, isBindReg e.1 = true) →
      let b := ({ a with gen := s.gen.setWidth 2 } : Acc).sealed
      exec (.rebinding es ms) s =
        .next { ({ s with misq := [], net := b :: s.net, reinj := s.reinj ++ [b.id] } : State).remeasure b with rebindStep := 2 })) ∧
  (∀ es ms, s.rebindStep = 2 → (s.swept = false → exec (.rebinding es ms) s = .next s) ∧
    (s.swept = true → (∀ g < Config.nFields, (s.fieldAt g).gated = false) → Gives (.rebinding es ms) s fun t => t.rebindStep = 0 ∧ t.reinj = [] ∧
      (∀ v ∈ s.rebindVs, v ∉ t.holds) ∧ t.mem = s.mem)) ∧
  (∀ a, s.net[n]? = some a →
    let first := ∀ o ∈ s.net.take n, ¬(o.cell = a.cell ∧ o.vc = a.vc ∧ o.tagOf = a.tagOf)
    let room := (s.misq.filter fun e => e.1 == s.misField a).length < 4096
    (s.stale a = true → room → first →
      exec (.flitMisroute n) s = .next { s with net := s.net.eraseIdx n, misq := s.misq ++ [(s.misField a, a)] }) ∧
    (s.stale a = false ∨ ¬room ∨ ¬first → exec (.flitMisroute n) s = .next s)) ∧
  ((∀ j < 64, s.recState j ≠ 3 ∧ s.recState j ≠ 4) → Gives (.vaultInterfaceFailure cell) s fun t =>
    t.cellAt cell = { k with vifDead := true } ∧ t.mem = s.mem ∧ t.launches = s.launches) ∧
  (∀ v, Gives (.treeRepair [(cell, v)]) s fun t => t.leafLat = s.leafLat.set cell v ∧ t.anpadMax = BitVec.ofNat 16 (min t.maxPath 65535) ∧
    t.anpadPad = s.anpadPad ∧ t.mem = s.mem) ∧
  (s.quiesced cell = true → Gives (.meshRouteRepair cell) s fun t => t.cellAt cell = { k with avoided := true } ∧ t.mem = s.mem) ∧
  (s.quiesced cell = false → exec (.meshRouteRepair cell) s = .next s)

/-- R6, R8, R19, R20, R22, R25, R71, R150, R156, R198, R443 to R450, R455 to R458: operating points of a field's region, control
periods, sensors and their estimates, trips and the safe point; core cycles, by whose end a complete ring has rotated and a result
past its bound has landed, the vault clock, on which the dispatcher decides, and the resets.  How a control period cools a hot field
is the model's own (log 93), and so is the order of the edges of the clocks (log 82). -/
def Obligations.PowerAndClocks : Prop := ∀ (s : State) (f : Nat),
  let k := s.fieldAt f
  let now := s.vtime.toNat
  (∀ fs a b c, s.controlled = true → exec (.saffronControlPeriod fs a b c) s = .next s) ∧
  (∀ fs a b c, s.controlled = false → Gives (.saffronControlPeriod fs a b c) s fun t => t.mem = s.mem ∧ t.period = now / 10000 + 1 ∧
    fld t.modtel 16 16 = moduleCap t.tout % 2 ^ 16 ∧ ∀ g < Config.nFields, let d := t.fieldAt g
      let o := s.fieldAt g
      d.floor = BitVec.ofNat 16 (s.floorOf g) ∧ d.leak = Config.leakReading g now ∧ d.energy = Config.energyReading g now ∧
      (d.hot = true → o.ebfill ≠ 0 → d.ebfill.toNat < o.ebfill.toNat) ∧
      (d.hot = true → o.ebfill = 0 → countBits 64 d.duty.toNat < countBits 64 o.duty.toNat ∨ countBits 64 d.duty.toNat ≤ 8)) ∧
  (∀ fvf pwctl duty, s.controlled = false → Gives (.saffronControlPeriod [f] [fvf] [pwctl] [duty]) s fun t => let d := t.fieldAt f
    (dutyOk duty = true → d.hot = false → d.duty = duty ∧ d.cycle = 0) ∧
    (stepOk (fld pwctl 56 8) = true → stepOk (fld pwctl 48 8) = true → fld pwctl 24 24 = 0 →
      d.mstep = pwctl.extractLsb' 56 8 ∧ d.vstep = pwctl.extractLsb' 48 8 ∧ d.ebfill = 0 ∧ d.ecap = 0)) ∧
  (∀ freq, let may := k.governed = true ∧ ∀ g ∈ s.governedIn f, (s.fieldAt g).atRest = true ∧ s.freqOk g freq = true
    let volt := s.voltOf (s.governedIn f) freq
    (∀ v, v ≠ volt.toNat → exec (.operatingPointChange f v freq) s = .next s) ∧
    Gives (.operatingPointChange f volt.toNat freq) s fun t => t.mem = s.mem ∧ (¬may → t = s) ∧ (may → ∀ g ∈ s.governedIn f, let d := t.fieldAt g
      let o := s.fieldAt g
      d.freq = o.freq ∧ d.freqGoal = BitVec.ofNat 16 freq ∧ d.setVolt = volt ∧ d.changeAt = now ∧
      (o.freq.toNat < freq → d.volt = some volt ∧ d.settled = false) ∧
      (freq < o.freq.toNat → d.volt = o.volt ∧ d.voltGoal = some volt ∧ d.settled = true))) ∧
  (∀ freq, freq % 50 ≠ 0 ∨ freq < 600 ∨ 1600 < freq ∨ freq < s.floorOf f ∨ (1250 < freq ∧ (s.boostOk f = false ∨ s.headroom = false ∨
      k.freq.toNat + 50 < freq)) → s.freqOk f freq = false) ∧
  (k.governed = true → f < Config.nFields → Gives (.voltageSettled f) s fun t => let d := t.fieldAt f
    d.freq = k.freq ∧ d.freqGoal = k.freqGoal ∧ d.settled = true ∧
    (k.settled = true → d = k) ∧ (k.settled = false → k.voltGoal = none → d.volt = k.volt) ∧
    ∀ v, k.settled = false → k.voltGoal = some v → (k.freq = k.freqGoal → d.volt = some v ∧ d.voltGoal = none) ∧
      (k.freq ≠ k.freqGoal → d.volt = k.volt ∧ d.voltGoal = some v)) ∧
  (k.governed = false → Gives (.voltageSettled f) s fun t => t.fieldAt f = k) ∧
  (∀ i raw, i < 6 → s.sampled f i = true → exec (.sensorSample f i raw) s = .next s) ∧
  (∀ i raw, i < 6 → s.sampled f i = false → Gives (.sensorSample f i raw) s fun t =>
    let d := t.fieldAt f
    let v := diodeTemp f i raw
    (d.sensor i).last = v ∧ t.mem = s.mem ∧ t.sampled f i = true ∧
    ((k.sensor i).suspect = true ∨ v < -20 * 16 ∨ 150 * 16 < v → (d.sensor i).suspect = true) ∧
    d.tlog = BitVec.ofInt 16 (d.largest [0, 1, 2, 3] k.tlog.toInt) ∧ d.estD = d.largest [4, 5] k.estD ∧
    (d.suspects [0, 1, 2, 3] ≤ 2 → d.sflt = 0) ∧ (2 < d.suspects [0, 1, 2, 3] → d.sflt = 1 ∧ d.freq = 600) ∧
    (d.suspects [4, 5] = 0 → d.dflt = 0) ∧ (d.suspects [4, 5] ≠ 0 → d.dflt = 1 ∧ d.scls = 2)) ∧
  (∀ i raw, 6 ≤ i → exec (.sensorSample f i raw) s = .next s) ∧
  (∀ i < 6, Gives (.sensorSuspectClear f i) s fun t => ((t.fieldAt f).sensor i).suspect = false ∧ ((t.fieldAt f).sensor i).last = (k.sensor i).last ∧
    t.mem = s.mem) ∧
  (118 * 16 ≤ k.tlog.toInt → k.trip = false → Gives (.thermalTrip f) s fun t => (t.fieldAt f).trip = true ∧ (t.fieldAt f).freq = 600 ∧
    (t.fieldAt f).volt = some (Config.fusedVsafe f) ∧ (t.fieldAt f).dutyNow = 0x0101010101010101 ∧ t.supLog = s.supLog ++ [(f, 0x0458)]) ∧
  (k.tlog.toInt < 118 * 16 ∨ k.trip = true → exec (.thermalTrip f) s = .next s) ∧
  (∀ b, k.below = some b → (b + 10000 ≤ s.vtime.toNat → Gives (.tripClear f) s fun t => t.fieldAt f = { k with trip := false }) ∧
    (s.vtime.toNat < b + 10000 → Gives (.tripClear f) s fun t => t.fieldAt f = k)) ∧
  (k.below = none → Gives (.tripClear f) s fun t => t.fieldAt f = k) ∧
  (s.cycleDue f = false → exec (.coreCycle f) s = .next s) ∧
  (s.cycleDue f = true → (∀ c, let q := s.cellAt c
      q.semWait = [] ∧ q.vxRun = [] ∧ q.seq.dsigs = [] ∧ q.seq.cmds = []) →
    (∀ c x, (s.ctxAt c x).flight = [] ∧ (s.ctxAt c x).agelim = 0 ∧ (s.ctxAt c x).sq = []) →
    ((∀ r ∈ s.ringsOf f, (s.ringAt r).complete = false) → (∀ c x, (s.ctxAt c x).lands = []) → Gives (.coreCycle f) s fun t =>
      let d := t.fieldAt f
      t.mem = s.mem ∧ t.vtime = s.vtime ∧ (∀ c x, t.ctxAt c x = s.ctxAt c x) ∧ d.cycle = k.cycle + 1 ∧ d.tick = k.tick + 1 ∧
      d.freq = (if k.settled then k.freqGoal else k.freq) ∧ d.ebbal = min (k.ebbal + d.ebfill.toNat) (16 * k.ebcap.toNat) ∧
      (d.freq = k.freq → d.ebfill = k.ebfill) ∧ (d.freq ≠ k.freq → d.ebfill = fillFor k.ecap d.freq.toNat) ∧ ∀ c, fieldOf c = f →
        let q := s.cellAt c
        (t.cellAt c).issN = 0 ∧ (t.cellAt c).commits = [] ∧ (t.cellAt c).entered = false ∧ (t.cellAt c).ovfNow = 0 ∧ (t.cellAt c).acqNow = [] ∧
        (t.cellAt c).hdrop.toNat = min (q.hdrop.toNat + q.hdropNow.toNat) (2 ^ 32 - 1) ∧ (t.cellAt c).treeMiss = (q.treeMiss || q.missNow) ∧
        (∀ r n, q.semLate = [(r, n)] → ((t.cellAt c).sem.get 0 r).toNat = min ((q.sem.get 0 r).toNat + n) (2 ^ 32 - 1)) ∧
        ((k.cycle + 1) % 64 = 0 → (t.cellAt c).slewV = 0 ∧ (t.cellAt c).slewM = 0) ∧
        ((k.cycle + 1) % 64 ≠ 0 → (t.cellAt c).slewV = q.slewV ∧ (t.cellAt c).slewM = q.slewM)) ∧
    (∀ r, let d := s.ringAt r
      s.ringsOf f = [r] → d.complete = true → Gives (.coreCycle f) s fun t => (t.ringAt r).sp = BitVec.ofNat 4 ((d.sp.toNat + 1) % d.slots) ∧
        (t.ringAt r).gen = d.gen + 1 ∧ (t.ringAt r).arr = d.pend ∧ (t.ringAt r).pend = 0 ∧ (t.ringAt r).turned = false ∧
        now + 4 ∈ (t.ringAt r).seenAt) ∧
    (∀ c x o, x < 4 → fieldOf c = f → c ∈ s.cells.map (fun e => e.1) → (s.ctxAt c x).lands = [o] → Gives (.coreCycle f) s fun t =>
      (o.pastDue k.tick now = true → t.ctxAt c x = (s.ctxAt c x).land 0) ∧ (o.pastDue k.tick now = false → t.ctxAt c x = s.ctxAt c x))) ∧
  (s.clockDue = false → exec .vaultClock s = .next s) ∧
  (s.clockDue = true → Gives .vaultClock s fun t => t.vtime = s.vtime + 1) ∧
  (now % 1500 ≠ 0 → s.cells = [] → s.gates = [] → s.treeDown = [] → s.launches = [] →
    (∀ e ∈ s.fields, e.2.waits = true) → f ∈ s.fields.map (fun e => e.1) → s.bootst ≠ 6 → Gives .vaultClock s fun t =>
      (t.fieldAt f).phase = k.phase + (t.fieldAt f).freq.toNat) ∧
  (now % 1500 ≠ 0 → now % 1000 ≠ 999 → s.cells = [] → s.fields = [] → s.gates = [] → s.treeDown = [] → s.launches = [] →
    let n := s.countHerr
    (s.bootst ≠ 6 → exec .vaultClock s = .next { n with vtime := s.vtime + 1 }) ∧
    (s.bootst = 6 → exec .vaultClock s = .next { (M.takeDecision { s := n }).s with vtime := s.vtime + 1 })) ∧
  (s.herr.toNat + s.herrNow.toNat < 2 ^ 32 - 1 → s.countHerr = { s with herr := s.herr + s.herrNow, herrNow := 0 }) ∧
  Gives .waferReset s (fun t => t = { State.reset with mem := { s.mem with full := [] }, fw := { minSvn := s.fw.minSvn, leaf := s.fw.leaf },
                                                       agenda := s.agenda, fresh := s.fresh, freeCtr := s.freeCtr }) ∧
  Gives .powerOnReset s (fun t => t.vtime = 0 ∧ t.mem.full = [] ∧ t.cells = [] ∧ t.ctxs = [] ∧ t.fields = [] ∧ t.bootst = 0 ∧ t.launches = [] ∧
    ∀ c < Config.nCells, t.mem.read (keyOf 1 c 0) = 0)

/-- R6, R22, R63, R279, R411, R460: what reset leaves where the spec gives a value: VTIME, every word empty, no error or mailbox
state, the status and seed registers of a context, the live banks, the links and the module cap. -/
def Obligations.ResetValues : Prop :=
  let s := State.reset
  s.vtime = 0 ∧ s.bootst = 0 ∧ (∀ f, (s.fieldAt f).ebbalReg = 0) ∧ s.herr = 0 ∧ s.mbctl = 0 ∧ s.mbstat = 0 ∧ fld s.modtel 16 16 = 36000 ∧ s.anpadPad = 192 ∧
  (∀ k, s.mem.isFull k = false ∧ s.mem.isPoison k = false) ∧
  (∀ k, (s.cellAt k).schk = true ∧ (s.cellAt k).atom = false ∧ (s.cellAt k).hdrop = 0 ∧ (s.cellAt k).semovf = 0 ∧
    (s.cellAt k).seq.st = .idle ∧ (s.cellAt k).htab.get 0 k = 0) ∧
  (∀ k x, let c := s.ctxAt k x
    c.ccount = 0 ∧ c.frm = 0 ∧ c.fflags = 0 ∧ c.srseed = 1 ∧ c.sterr = 0 ∧ c.sterra = 0 ∧ c.vxstat = 0 ∧ c.mxstat = 0 ∧ c.txstat = 0 ∧
    c.cdepth = 0 ∧ c.sup = false ∧ c.tcause = 0 ∧ c.stopped = false ∧ c.next = .idle ∧ ∀ n, (c.slotAt n).legal 0 = false) ∧
  (∀ g, (s.gateAt g).amask = 0xFF ∧ (s.gateAt g).pmask = 0 ∧ (s.gateAt g).waketh = 64 ∧ (s.gateAt g).idlewin = 256) ∧
  ∀ v, s.ftab.get 0 v = 0 ∧ s.hwin.get 0 v = 0 ∧ s.pgrant.get 0 v = 0

/-- Memory is in its canonical form after reset. -/
def Obligations.ResetCanon : Prop := State.reset.Canon

/-- Every step, of whatever move, keeps memory in its canonical form: keys strictly rising, no byte at rest listed, no word or
poison unit listed twice. -/
def Obligations.StepKeepsCanon : Prop := ∀ s t : State, s.Canon → step s = .next t → t.Canon

/-- A step runs the next move of the agenda, or when none is listed the one that is due (the model's own order of moves, log 3): an
event as it stands, an instruction of a block in flight, when its turn to issue has come, and the next entry of a sequencer decoded,
with `cur` saying where they stand; a word placed by `withFetchWord` runs next. -/
def Obligations.StepRunsDecoded : Prop := ∀ (s : State) (t : List Move) (cell x pos idx : Nat) (i : Instr),
  (s.agenda = [] → (∀ e ∈ s.fields, e.2.due = false) → step s = exec .vaultClock s) ∧
  (∀ g k, s.agenda = [] → s.fields = [(g, k)] → k.due = true →
    (s.issues g = none → step s = exec (.coreCycle g) s) ∧
    (s.issues g = some (cell, x, pos, idx) → isCtx cell x = true → s.instrAt cell x pos idx = some i →
      step s = exec i { s with cur := { cell := cell, x := x, pos := pos, idx := idx } })) ∧
  (s.agenda = .event i :: t → i.isBlock = false → i.isVault = false → unitsOk i = true → step s = exec i { s with agenda := t }) ∧
  (∀ b n, s.agenda = .fire cell x pos idx :: t → isCtx cell x = true → (s.ctxAt cell x).block pos = some b → b.insts[idx]? = some n →
    decode n.word = .ok i → let u : State := { s with agenda := t }
    (u.mayFire cell x pos idx = true → step s = exec i { u with cur := { cell := cell, x := x, pos := pos, idx := idx } }) ∧
    (u.mayFire cell x pos idx = false → step s = .next u)) ∧
  (∀ f r, s.agenda = .entry cell :: t → isCell cell = true → (s.cellAt cell).seq.fetched = f :: r →
    step s = exec f.entry { s with agenda := t, cur := { cell := cell } }) ∧
  (∀ n w, decode (BitVec.ofNat 64 w) = .ok i → let u : State := { s.withFetchWord n w with agenda := s.agenda }
    u.mayFire 0 0 0 0 = true → step (s.withFetchWord n w) = exec i { u with cur := {} })

/-- Words written out bit by bit from Tables 6-2, 10-3 to 10-7, 13-1, 14-1 and 15-3 decode to the instructions they stand for. -/
def Obligations.DecodeWords : Prop :=
  decode (0x20#8 ++ 0b00#2 ++ 0b11#2 ++ 0#4 ++ 0x204#11 ++ 0x428#11 ++ 0#26 : BitVec 64) =
    .ok (.add { pr := .always, ta := .port 1 .a, tb := .slot 5 0 } .w64) ∧
  decode 0x2230864000000001 = .ok (.addi { pr := .always, ta := .slot 6 2, tb := .none } .w64 1) ∧
  decode 0x0040000000000002 = .ok (.br .onTrue 2) ∧
  decode 0x6130416000100000 = .ok (.st { pr := .always, ta := .port 2 .c, tb := .none } .w64 false false { seq := 0, tsc := .waf, disp := 0 }) ∧
  decode 0x8020000000006000 = .ok (.vld { pr := .always, ta := .none, tb := .none } .w32
    { seq := 0, tsc := .none, vr := 3, km := 0, z := false, disp := 0 }) ∧
  decode 0xB3000000000008A0 = .ok (.mma { pr := .always, ta := .none, tb := .none } { seq := 0, oa := 0, ob := 1, at_ := 2, z := true }) ∧
  decode 0xC000890000000000 = .ok (.xcpy { pr := .always, ta := .slot 9 0, tb := .none } 0) ∧
  decodeVault (0x0#4 ++ 2#12 ++ 0#3 ++ 100#13 ++ 1#8 ++ 0#24 : BitVec 64) = .ok (.dact 2 0 100 1) ∧
  decodeVault 0xA000008000000008 = .ok (.drpt 0 8 8) ∧
  decode 0x0E00000000000000 = .error .reservedOpcode

/-- Decode and encode agree: the word of a well-formed block instruction or vault entry decodes to it, with every operand. -/
def Obligations.RoundTrip : Prop := ∀ i : Instr, i.wf = true →
  (i.isBlock = true → decode (encode i) = .ok i) ∧
  (i.isVault = true → ∃ w, encodeVault i = some w ∧ decodeVault w = .ok i)

/-- The frame of the control, test, integer and float instructions: whatever one of them answers, nothing changes but the block under
way, the issue counters of its cell and the model's free-value counter: no register, slot or status of any context, no
byte of memory, nothing of another block. -/
def Obligations.LocalFrame : Prop := ∀ (i : Instr) (s t : State), isLocal i = true → exec i s = .next t → LocalOnly s t
end

