-- ==== Sys2Proof/Laws/Decode.lean ====
section
/-! SUPPORT. Laws/Decode.lean: each field coder is undone by its reader: fields of a concatenation, targets, scopes, formats and
the layouts of bits [25:0]. -/
namespace Sys2Proof

/-! ### Fields of a concatenation -/

theorem slice_low {m k : Nat} (x : BitVec k) (y : BitVec m) (lo n : Nat) (h : lo + n ≤ m) : slice (x ++ y) lo n = slice y lo n := by
  apply BitVec.eq_of_getLsbD_eq
  intro i hi
  simp only [slice, BitVec.getLsbD_extractLsb', BitVec.getLsbD_append, hi, decide_true, Bool.true_and]
  rw [if_pos (by omega)]
theorem slice_high {m k : Nat} (x : BitVec k) (y : BitVec m) (lo n : Nat) (h : m ≤ lo) : slice (x ++ y) lo n = slice x (lo - m) n := by
  apply BitVec.eq_of_getLsbD_eq
  intro i hi
  simp only [slice, BitVec.getLsbD_extractLsb', BitVec.getLsbD_append, hi, decide_true, Bool.true_and]
  rw [if_neg (by omega), show lo + i - m = lo - m + i by omega]
theorem slice_all {k : Nat} (x : BitVec k) : slice x 0 k = x := by
  apply BitVec.eq_of_getLsbD_eq
  intro i hi
  simp [slice, hi]
theorem bit_low {m k : Nat} (x : BitVec k) (y : BitVec m) (i : Nat) (h : i < m) : (x ++ y).getLsbD i = y.getLsbD i := by
  rw [BitVec.getLsbD_append, if_pos h]
theorem bit_high {m k : Nat} (x : BitVec k) (y : BitVec m) (i : Nat) (h : m ≤ i) : (x ++ y).getLsbD i = x.getLsbD (i - m) := by
  rw [BitVec.getLsbD_append, if_neg (by omega)]
@[simp] theorem flag_bit (b : Bool) : (flag b).getLsbD 0 = b := by cases b <;> rfl

/-- The fields of a word are those it was made of (R223). -/
@[simp] theorem fieldsOf_wordOf (x : Fields) : fieldsOf (wordOf x) = x := by
  obtain ⟨op, pr, wd, xm, ta, tb, f⟩ := x
  simp (disch := omega) only [fieldsOf, wordOf, slice_low, slice_high, Nat.reduceSub, slice_all]

/-! ### Names -/

@[simp] theorem prOf_prBits (p : Pr) : prOf (prBits p) = p := by cases p <;> rfl
@[simp] theorem widthOf_widthBits (w : Width) : widthOf (widthBits w) = w := by cases w <;> rfl
@[simp] theorem portOf_portBits (p : Port) : portOf (portBits p) = p := by cases p <;> rfl
@[simp] theorem scopeOf_scopeBits (s : Scope) : scopeOf (scopeBits s) = some s := by cases s <;> rfl
@[simp] theorem rmOf_rmBits (r : Rm) : rmOf (rmBits r) = some r := by cases r <;> rfl
@[simp] theorem ffmtOf_bits (f : FFmt) : ffmtOf (ffmtWd f) (ffmtBf f) = some f := by cases f <;> rfl
@[simp] theorem sgnOf_sgnBits (s : Sgn) : sgnOf (sgnBits s) = some s := by cases s <;> rfl
@[simp] theorem fcondOf_fcondBits (c : FCond) : fcondOf (fcondBits c) = some c := by cases c <;> rfl
@[simp] theorem combOf_combBits (c : Comb) : combOf (combBits c) = some c := by cases c <;> rfl
@[simp] theorem laneFmtOf_laneFmtBits (f : LaneFmt) : laneFmtOf (laneFmtBits f) = some f := by cases f <;> rfl
@[simp] theorem xmBool_boolXm (b : Bool) : xmBool (boolXm b) = some b := by cases b <;> rfl
@[simp] theorem whenZero_zero {k : Nat} {α : Type} (a : Option α) : whenZero 0#k a = a := by simp [whenZero]

/-! ### Layouts -/

@[simp] theorem layAOf_bits (l : LayA) : layAOf (layABits l) = some l := by
  obtain ⟨q, t, d⟩ := l
  simp (disch := omega) only [layAOf, layABits, seqOf, slice_low, slice_high, Nat.reduceSub, slice_all, bit_low, bit_high, flag_bit, scopeOf_scopeBits, whenZero_zero, portOf_portBits, Option.map_some, Option.bind_some]
@[simp] theorem layQOf_bits (l : LayQ) : layQOf (layQXm l) (layQBits l) = some l := by
  obtain ⟨q, t, n, a⟩ := l
  cases a <;> simp (disch := omega) only [layQOf, layQXm, layQBits, seqOf, slice_low, slice_high, Nat.reduceSub, slice_all, bit_low, bit_high, flag_bit, scopeOf_scopeBits, whenZero_zero, portOf_portBits, Option.map_some, Option.bind_some] <;> rfl
@[simp] theorem laySOf_bits (l : LayS) : laySOf (laySBits l) = some l := by
  obtain ⟨q, t, v, n⟩ := l
  simp (disch := omega) only [laySOf, laySBits, seqOf, slice_low, slice_high, Nat.reduceSub, slice_all, bit_low, bit_high, flag_bit, scopeOf_scopeBits, whenZero_zero, portOf_portBits, Option.map_some, Option.bind_some]
@[simp] theorem layROf_bits (l : LayR) : layROf (layRBits l) = l := by
  obtain ⟨q, d, a, b, k, z, f, e⟩ := l
  simp (disch := omega) only [layROf, layRBits, seqOf, slice_low, slice_high, Nat.reduceSub, slice_all, bit_low, bit_high, flag_bit, scopeOf_scopeBits, whenZero_zero, portOf_portBits, Option.map_some, Option.bind_some]
@[simp] theorem layLOf_bits (l : LayL) : layLOf (layLBits l) = some l := by
  obtain ⟨q, t, v, k, z, d⟩ := l
  simp (disch := omega) only [layLOf, layLBits, seqOf, slice_low, slice_high, Nat.reduceSub, slice_all, bit_low, bit_high, flag_bit, scopeOf_scopeBits, whenZero_zero, portOf_portBits, Option.map_some, Option.bind_some]
@[simp] theorem layXOf_bits (l : LayX) : layXOf (layXBits l) = some l := by
  obtain ⟨q, t, v, i, k, z, c, u⟩ := l
  simp (disch := omega) only [layXOf, layXBits, seqOf, slice_low, slice_high, Nat.reduceSub, slice_all, bit_low, bit_high, flag_bit, scopeOf_scopeBits, whenZero_zero, portOf_portBits, Option.map_some, Option.bind_some]
@[simp] theorem layBOf_bits (l : LayB) : layBOf (layBBits l) = some l := by
  obtain ⟨q, d, p, j, k⟩ := l
  simp (disch := omega) only [layBOf, layBBits, seqOf, slice_low, slice_high, Nat.reduceSub, slice_all, bit_low, bit_high, flag_bit, scopeOf_scopeBits, whenZero_zero, portOf_portBits, Option.map_some, Option.bind_some]
@[simp] theorem layMOf_bits (l : LayM) (u : BitVec 5) : layMOf (layMBits l u) = l := by
  obtain ⟨q, a, b, t, z⟩ := l
  simp (disch := omega) only [layMOf, layMBits, seqOf, slice_low, slice_high, Nat.reduceSub, slice_all, bit_low, bit_high, flag_bit, scopeOf_scopeBits, whenZero_zero, portOf_portBits, Option.map_some, Option.bind_some]
@[simp] theorem layDOf_bits (l : LayD) : layDOf (layDXm l) (layDBits l) = some l := by
  obtain ⟨q, t, f, m, s, d⟩ := l
  cases d <;> simp (disch := omega) only [layDOf, layDXm, layDBits, seqOf, slice_low, slice_high, Nat.reduceSub, slice_all, bit_low, bit_high, flag_bit, scopeOf_scopeBits, whenZero_zero, portOf_portBits, Option.map_some, Option.bind_some] <;> rfl
@[simp] theorem amtOf_bits (a : Option (BitVec 6)) : amtOf (amtXm a) (amtBits a) = some a := by
  cases a <;> simp (disch := omega) only [amtOf, amtXm, amtBits, slice_low, slice_high, Nat.reduceSub, slice_all, bit_low, bit_high, flag_bit, scopeOf_scopeBits, whenZero_zero, portOf_portBits, Option.map_some, Option.bind_some] <;> rfl

/-- A target that Tables 10-4 and 10-5 define is read back. -/
theorem targetOf_bits (t : Target) (h : ∀ x, t ≠ .malformed x) : targetOf (targetBits t) = t := by
  cases t with
  | malformed x => exact absurd rfl (h x)
  | none => rfl
  | exit => rfl
  | port i p => simp (disch := omega) only [targetOf, targetBits, slice_low, slice_high, Nat.reduceSub, slice_all, bit_low, bit_high, flag_bit, scopeOf_scopeBits, whenZero_zero, portOf_portBits, Option.map_some, Option.bind_some] <;> rfl
  | slot s l => simp (disch := omega) only [targetOf, targetBits, slice_low, slice_high, Nat.reduceSub, slice_all, bit_low, bit_high, flag_bit, scopeOf_scopeBits, whenZero_zero, portOf_portBits, Option.map_some, Option.bind_some] <;> rfl
  | storeData b s => simp (disch := omega) only [targetOf, targetBits, slice_low, slice_high, Nat.reduceSub, slice_all, bit_low, bit_high, flag_bit, scopeOf_scopeBits, whenZero_zero, portOf_portBits, Option.map_some, Option.bind_some] <;> rfl
  | sendData n k => simp (disch := omega) only [targetOf, targetBits, slice_low, slice_high, Nat.reduceSub, slice_all, bit_low, bit_high, flag_bit, scopeOf_scopeBits, whenZero_zero, portOf_portBits, Option.map_some, Option.bind_some] <;> rfl

end Sys2Proof
end

