-- ==== Sys2Proof/Laws/Tab.lean ====
section
/-! SUPPORT. Laws/Tab.lean: what reading gives after writing, in a table, a sorted set and memory, and that every memory
operation keeps the canonical form. -/
namespace Sys2Proof.Machine

theorem Tab.get_set_self {α : Type} (d : α) (t : Tab α) (k : Nat) (v : α) : (Tab.set t k v).get d k = v := by
  induction t with
  | nil => simp [Tab.set, Tab.get]
  | cons e t ih =>
    obtain ⟨j, w⟩ := e
    simp only [Tab.set]
    split
    · next h => subst h; simp [Tab.get]
    · next h =>
      split
      · simp [Tab.get]
      · next h2 => simp [Tab.get, h, h2, ih]

theorem Tab.get_set_ne {α : Type} (d : α) (t : Tab α) (k j : Nat) (v : α) (h : j ≠ k) : (Tab.set t k v).get d j = t.get d j := by
  induction t with
  | nil => simp [Tab.set, Tab.get, h]
  | cons e t ih =>
    obtain ⟨i, w⟩ := e
    simp only [Tab.set]
    split
    · next hk => subst hk; simp [Tab.get, h]
    · split
      · next hk =>
        simp only [Tab.get, h, if_false]
        split
        · have h1 : j ≠ i := by omega
          have h2 : j < i := by omega
          simp [h1, h2]
        · rfl
      · simp only [Tab.get, ih]

theorem readCells_lt (l : List Host.Cell) (n k : Nat) (h : cellsFrom n l = true) (hk : k < n) : readCells l k = byteAtRest := by
  cases l with
  | nil => rfl
  | cons e t =>
    obtain ⟨j, v⟩ := e
    simp [cellsFrom] at h
    have h1 : k ≠ j := by omega
    have h2 : k < j := by omega
    simp [readCells, h1, h2]

theorem cellsFrom_mono (l : List Host.Cell) (m n : Nat) (hmn : m ≤ n) (h : cellsFrom n l = true) : cellsFrom m l = true := by
  cases l with
  | nil => rfl
  | cons e t =>
    obtain ⟨j, v⟩ := e
    simp [cellsFrom] at h ⊢
    exact ⟨⟨by omega, h.1.2⟩, h.2⟩

theorem cellsFrom_write (l : List Host.Cell) (n k : Nat) (v : Byte) (h : cellsFrom n l = true) (hk : n ≤ k) :
    cellsFrom n (writeCells l k v) = true := by
  induction l generalizing n with
  | nil =>
    simp only [writeCells]
    split <;> simp_all [cellsFrom]
  | cons e t ih =>
    obtain ⟨j, w⟩ := e
    have h' := h
    simp [cellsFrom] at h
    obtain ⟨⟨hj, hw⟩, ht⟩ := h
    simp only [writeCells]
    split
    · next hkj =>
      subst hkj
      split
      · exact cellsFrom_mono _ _ _ (by omega) ht
      · simp_all [cellsFrom]
    · split
      · next hlt =>
        split
        · exact h'
        · next hv => simp [cellsFrom, hk, hw, ht, hv]; omega
      · have := ih (j + 1) ht (by omega)
        simp [cellsFrom, hj, hw, this]

/-- Reading after writing gives the byte written, there. -/
theorem readCells_write_self (l : List Host.Cell) (n k : Nat) (v : Byte) (h : cellsFrom n l = true) :
    readCells (writeCells l k v) k = v := by
  induction l generalizing n with
  | nil =>
    simp only [writeCells]
    split <;> simp_all [readCells]
  | cons e t ih =>
    obtain ⟨j, w⟩ := e
    simp [cellsFrom] at h
    simp only [writeCells]
    split
    · next hkj =>
      subst hkj
      split
      · next hv => rw [readCells_lt t (k + 1) k h.2 (by omega)]; exact hv.symm
      · simp [readCells]
    · next hkj =>
      split
      · next hlt =>
        split
        · next hv => simp [readCells, hkj, hlt, hv]
        · simp [readCells]
      · next hlt => simp only [readCells, hkj, hlt, if_false]; exact ih (j + 1) h.2

/-- Writing one byte leaves every other byte alone. -/
theorem readCells_write_ne (l : List Host.Cell) (n k i : Nat) (v : Byte) (h : cellsFrom n l = true) (hi : i ≠ k) :
    readCells (writeCells l k v) i = readCells l i := by
  induction l generalizing n with
  | nil =>
    simp only [writeCells]
    split
    · rfl
    · simp [readCells, hi]
  | cons e t ih =>
    obtain ⟨j, w⟩ := e
    simp [cellsFrom] at h
    simp only [writeCells]
    split
    · next hkj =>
      subst hkj
      split
      · simp only [readCells, hi, if_false]
        split
        · exact readCells_lt t (k + 1) i h.2 (by omega)
        · rfl
      · simp [readCells, hi]
    · split
      · split
        · rfl
        · simp only [readCells, hi, if_false]
          split
          · have h1 : i ≠ j := by omega
            have h2 : i < j := by omega
            simp [h1, h2]
          · rfl
      · simp only [readCells]
        split
        · rfl
        · split
          · rfl
          · exact ih (j + 1) h.2

theorem NSet.from_mono (l : NSet) (m n : Nat) (hmn : m ≤ n) (h : NSet.from n l = true) : NSet.from m l = true := by
  cases l with
  | nil => rfl
  | cons j t => simp [NSet.from] at h ⊢; exact ⟨by omega, h.2⟩

theorem NSet.from_put (l : NSet) (n k : Nat) (h : NSet.from n l = true) (hk : n ≤ k) : NSet.from n (NSet.put l k) = true := by
  induction l generalizing n with
  | nil => simp [NSet.put, NSet.from, hk]
  | cons j t ih =>
    simp [NSet.from] at h
    simp only [NSet.put]
    split
    · simp [NSet.from, h]
    · split
      · next hlt => simp [NSet.from, hk, h]; omega
      · simp [NSet.from, h.1, ih (j + 1) h.2 (by omega)]

theorem NSet.from_del (l : NSet) (n k : Nat) (h : NSet.from n l = true) : NSet.from n (NSet.del l k) = true := by
  induction l generalizing n with
  | nil => rfl
  | cons j t ih =>
    have h' := h
    simp [NSet.from] at h
    simp only [NSet.del]
    split
    · exact NSet.from_mono _ _ _ (by omega) h.2
    · split
      · exact h'
      · simp [NSet.from, h.1, ih (j + 1) h.2]

theorem NSet.has_lt (l : NSet) (n k : Nat) (h : NSet.from n l = true) (hk : k < n) : NSet.has l k = false := by
  cases l with
  | nil => rfl
  | cons j t =>
    simp [NSet.from] at h
    have h1 : k ≠ j := by omega
    have h2 : k < j := by omega
    simp [NSet.has, h1, h2]

theorem NSet.has_put (l : NSet) (k i : Nat) : NSet.has (NSet.put l k) i = (decide (i = k) || NSet.has l i) := by
  induction l with
  | nil =>
    by_cases h : i = k <;> simp [NSet.put, NSet.has, h]
  | cons j t ih =>
    simp only [NSet.put]
    split
    · next hkj => subst hkj; by_cases h : i = k <;> simp [NSet.has, h]
    · split
      · by_cases h : i = k
        · simp [NSet.has, h]
        · simp only [NSet.has, h, if_false, decide_false, Bool.false_or]
          split
          · have h1 : i ≠ j := by omega
            have h2 : i < j := by omega
            simp [h1, h2]
          · rfl
      · simp only [NSet.has]
        by_cases h : i = j
        · simp [h]
        · by_cases h2 : i < j
          · have : i ≠ k := by omega
            simp [h, h2, this]
          · simp [h, h2, ih]

theorem NSet.has_del (l : NSet) (n k i : Nat) (hl : NSet.from n l = true) :
    NSet.has (NSet.del l k) i = (decide (i ≠ k) && NSet.has l i) := by
  induction l generalizing n with
  | nil => simp [NSet.del, NSet.has]
  | cons j t ih =>
    simp [NSet.from] at hl
    simp only [NSet.del]
    split
    · next hkj =>
      subst hkj
      by_cases h : i = k
      · subst h; simp [NSet.has_lt t (i + 1) i hl.2 (by omega)]
      · simp only [NSet.has, h, if_false]
        by_cases h2 : i < k
        · simp [h2, NSet.has_lt t (k + 1) i hl.2 (by omega)]
        · simp [h2, h]
    · split
      · by_cases h : i = k
        · have h1 : i ≠ j := by omega
          have h2 : i < j := by omega
          subst h; simp [NSet.has, h1, h2]
        · simp [h]
      · simp only [NSet.has]
        by_cases h : i = j
        · have : j ≠ k := by omega
          simp [h, this]
        · by_cases h2 : i < j
          · simp [h, h2]
          · simp [h, h2, ih (j + 1) hl.2]

/-! ### Memory -/

theorem Mem.wf_iff (m : Mem) :
    m.wf = true ↔ cellsFrom 0 m.bytes = true ∧ NSet.from 0 m.full = true ∧ NSet.from 0 m.poison = true := by
  simp [Mem.wf, and_assoc]

theorem Mem.apply_wf (m : Mem) (o : MemOp) (h : m.wf = true) : (m.apply o).wf = true := by
  rw [Mem.wf_iff] at h ⊢
  obtain ⟨h1, h2, h3⟩ := h
  cases o with
  | byte k v => exact ⟨cellsFrom_write _ _ _ _ h1 (Nat.zero_le _), h2, h3⟩
  | full k b =>
    refine ⟨h1, ?_, h3⟩
    cases b
    · exact NSet.from_del _ _ _ h2
    · exact NSet.from_put _ _ _ h2 (Nat.zero_le _)
  | poison k b =>
    refine ⟨h1, h2, ?_⟩
    cases b
    · exact NSet.from_del _ _ _ h3
    · exact NSet.from_put _ _ _ h3 (Nat.zero_le _)

/-- Every list of memory operations keeps the canonical form. -/
theorem Mem.applyAll_wf (l : List MemOp) (m : Mem) (h : m.wf = true) : (m.applyAll l).wf = true := by
  induction l generalizing m with
  | nil => exact h
  | cons o t ih => exact ih _ (Mem.apply_wf m o h)

theorem Mem.applyAll_append (l k : List MemOp) (m : Mem) : m.applyAll (l ++ k) = (m.applyAll l).applyAll k := by
  induction l generalizing m with
  | nil => rfl
  | cons o t ih => exact ih _

theorem Mem.read_byte_self (m : Mem) (k : Nat) (v : Byte) (h : m.wf = true) : (m.apply (.byte k v)).read k = v :=
  readCells_write_self _ 0 _ _ ((Mem.wf_iff m).1 h).1

theorem Mem.read_byte_ne (m : Mem) (k i : Nat) (v : Byte) (h : m.wf = true) (hi : i ≠ k) : (m.apply (.byte k v)).read i = m.read i :=
  readCells_write_ne _ 0 _ _ _ ((Mem.wf_iff m).1 h).1 hi

@[simp] theorem Mem.read_full (m : Mem) (k i : Nat) (b : Bool) : (m.apply (.full k b)).read i = m.read i := rfl
@[simp] theorem Mem.read_poison (m : Mem) (k i : Nat) (b : Bool) : (m.apply (.poison k b)).read i = m.read i := rfl

theorem Mem.isFull_set (m : Mem) (k i : Nat) (b : Bool) (h : m.wf = true) :
    (m.apply (.full k b)).isFull i = if i = k then b else m.isFull i := by
  have h2 := ((Mem.wf_iff m).1 h).2.1
  cases b
  · show NSet.has (NSet.del m.full k) i = _
    rw [NSet.has_del _ 0 _ _ h2]
    by_cases hi : i = k <;> simp [hi, Mem.isFull]
  · show NSet.has (NSet.put m.full k) i = _
    rw [NSet.has_put]
    by_cases hi : i = k <;> simp [hi, Mem.isFull]

theorem Mem.isPoison_set (m : Mem) (k i : Nat) (b : Bool) (h : m.wf = true) :
    (m.apply (.poison k b)).isPoison i = if i = k then b else m.isPoison i := by
  have h2 := ((Mem.wf_iff m).1 h).2.2
  cases b
  · show NSet.has (NSet.del m.poison k) i = _
    rw [NSet.has_del _ 0 _ _ h2]
    by_cases hi : i = k <;> simp [hi, Mem.isPoison]
  · show NSet.has (NSet.put m.poison k) i = _
    rw [NSet.has_put]
    by_cases hi : i = k <;> simp [hi, Mem.isPoison]

/-- A byte that no operation of a list names keeps its value. -/
theorem Mem.read_applyAll_ne (l : List MemOp) (m : Mem) (i : Nat) (h : m.wf = true)
    (hl : ∀ k v, MemOp.byte k v ∈ l → k ≠ i) : (m.applyAll l).read i = m.read i := by
  induction l generalizing m with
  | nil => rfl
  | cons o t ih =>
    show ((m.apply o).applyAll t).read i = m.read i
    rw [ih (m.apply o) (Mem.apply_wf m o h) (fun k v hk => hl k v (List.mem_cons_of_mem _ hk))]
    cases o with
    | byte k v => exact Mem.read_byte_ne m k i v h (fun e => hl k v List.mem_cons_self e.symm)
    | full k b => rfl
    | poison k b => rfl

/-- What the resets keep of memory stays canonical. -/
theorem cellsFrom_filter (l : List Host.Cell) (p : Host.Cell → Bool) (n : Nat) (h : cellsFrom n l = true) :
    cellsFrom n (l.filter p) = true := by
  induction l generalizing n with
  | nil => rfl
  | cons e t ih =>
    obtain ⟨j, v⟩ := e
    simp [cellsFrom] at h
    simp only [List.filter_cons]
    split
    · simp [cellsFrom, h.1.1, h.1.2, ih (j + 1) h.2]
    · exact cellsFrom_mono _ _ _ (by omega) (ih (j + 1) h.2)

theorem NSet.from_filter (l : NSet) (p : Nat → Bool) (n : Nat) (h : NSet.from n l = true) : NSet.from n (l.filter p) = true := by
  induction l generalizing n with
  | nil => rfl
  | cons j t ih =>
    simp [NSet.from] at h
    simp only [List.filter_cons]
    split
    · simp [NSet.from, h.1, ih (j + 1) h.2]
    · exact NSet.from_mono _ _ _ (by omega) (ih (j + 1) h.2)

end Sys2Proof.Machine
end

