-- ==== Sys2Proof/Laws/State.lean ====
section
/-! SUPPORT. Laws/State.lean: what each field of State reads after each named update, and what a unit reads after a unit
has been written. -/
namespace Sys2Proof.Machine

/-! ### setCell -/

@[simp] theorem State.setCell_mem (s : State) (k : Nat) (c : Cell) : (s.setCell k c).mem = s.mem := rfl
@[simp] theorem State.setCell_vtime (s : State) (k : Nat) (c : Cell) : (s.setCell k c).vtime = s.vtime := rfl
@[simp] theorem State.setCell_ctxs (s : State) (k : Nat) (c : Cell) : (s.setCell k c).ctxs = s.ctxs := rfl
@[simp] theorem State.setCell_clusters (s : State) (k : Nat) (c : Cell) : (s.setCell k c).clusters = s.clusters := rfl
@[simp] theorem State.setCell_fields (s : State) (k : Nat) (c : Cell) : (s.setCell k c).fields = s.fields := rfl
@[simp] theorem State.setCell_gates (s : State) (k : Nat) (c : Cell) : (s.setCell k c).gates = s.gates := rfl
@[simp] theorem State.setCell_ftab (s : State) (k : Nat) (c : Cell) : (s.setCell k c).ftab = s.ftab := rfl
@[simp] theorem State.setCell_ltab (s : State) (k : Nat) (c : Cell) : (s.setCell k c).ltab = s.ltab := rfl
@[simp] theorem State.setCell_atab (s : State) (k : Nat) (c : Cell) : (s.setCell k c).atab = s.atab := rfl
@[simp] theorem State.setCell_wroteGen (s : State) (k : Nat) (c : Cell) : (s.setCell k c).wroteGen = s.wroteGen := rfl
@[simp] theorem State.setCell_gen (s : State) (k : Nat) (c : Cell) : (s.setCell k c).gen = s.gen := rfl
@[simp] theorem State.setCell_holds (s : State) (k : Nat) (c : Cell) : (s.setCell k c).holds = s.holds := rfl
@[simp] theorem State.setCell_waferId (s : State) (k : Nat) (c : Cell) : (s.setCell k c).waferId = s.waferId := rfl
@[simp] theorem State.setCell_dims (s : State) (k : Nat) (c : Cell) : (s.setCell k c).dims = s.dims := rfl
@[simp] theorem State.setCell_torus (s : State) (k : Nat) (c : Cell) : (s.setCell k c).torus = s.torus := rfl
@[simp] theorem State.setCell_net (s : State) (k : Nat) (c : Cell) : (s.setCell k c).net = s.net := rfl
@[simp] theorem State.setCell_resps (s : State) (k : Nat) (c : Cell) : (s.setCell k c).resps = s.resps := rfl
@[simp] theorem State.setCell_held (s : State) (k : Nat) (c : Cell) : (s.setCell k c).held = s.held := rfl
@[simp] theorem State.setCell_waits (s : State) (k : Nat) (c : Cell) : (s.setCell k c).waits = s.waits := rfl
@[simp] theorem State.setCell_tokens (s : State) (k : Nat) (c : Cell) : (s.setCell k c).tokens = s.tokens := rfl
@[simp] theorem State.setCell_treeUp (s : State) (k : Nat) (c : Cell) : (s.setCell k c).treeUp = s.treeUp := rfl
@[simp] theorem State.setCell_treeDown (s : State) (k : Nat) (c : Cell) : (s.setCell k c).treeDown = s.treeDown := rfl
@[simp] theorem State.setCell_treeRound (s : State) (k : Nat) (c : Cell) : (s.setCell k c).treeRound = s.treeRound := rfl
@[simp] theorem State.setCell_anmask (s : State) (k : Nat) (c : Cell) : (s.setCell k c).anmask = s.anmask := rfl
@[simp] theorem State.setCell_anpadMax (s : State) (k : Nat) (c : Cell) : (s.setCell k c).anpadMax = s.anpadMax := rfl
@[simp] theorem State.setCell_anpadPad (s : State) (k : Nat) (c : Cell) : (s.setCell k c).anpadPad = s.anpadPad := rfl
@[simp] theorem State.setCell_leafLat (s : State) (k : Nat) (c : Cell) : (s.setCell k c).leafLat = s.leafLat := rfl
@[simp] theorem State.setCell_launches (s : State) (k : Nat) (c : Cell) : (s.setCell k c).launches = s.launches := rfl
@[simp] theorem State.setCell_pgrant (s : State) (k : Nat) (c : Cell) : (s.setCell k c).pgrant = s.pgrant := rfl
@[simp] theorem State.setCell_mbctl (s : State) (k : Nat) (c : Cell) : (s.setCell k c).mbctl = s.mbctl := rfl
@[simp] theorem State.setCell_mbstat (s : State) (k : Nat) (c : Cell) : (s.setCell k c).mbstat = s.mbstat := rfl
@[simp] theorem State.setCell_mbox (s : State) (k : Nat) (c : Cell) : (s.setCell k c).mbox = s.mbox := rfl
@[simp] theorem State.setCell_bootst (s : State) (k : Nat) (c : Cell) : (s.setCell k c).bootst = s.bootst := rfl
@[simp] theorem State.setCell_herr (s : State) (k : Nat) (c : Cell) : (s.setCell k c).herr = s.herr := rfl
@[simp] theorem State.setCell_hwin (s : State) (k : Nat) (c : Cell) : (s.setCell k c).hwin = s.hwin := rfl
@[simp] theorem State.setCell_fw (s : State) (k : Nat) (c : Cell) : (s.setCell k c).fw = s.fw := rfl
@[simp] theorem State.setCell_atc (s : State) (k : Nat) (c : Cell) : (s.setCell k c).atc = s.atc := rfl
@[simp] theorem State.setCell_modtel (s : State) (k : Nat) (c : Cell) : (s.setCell k c).modtel = s.modtel := rfl
@[simp] theorem State.setCell_snaps (s : State) (k : Nat) (c : Cell) : (s.setCell k c).snaps = s.snaps := rfl
@[simp] theorem State.setCell_fsnaps (s : State) (k : Nat) (c : Cell) : (s.setCell k c).fsnaps = s.fsnaps := rfl
@[simp] theorem State.setCell_haltGroups (s : State) (k : Nat) (c : Cell) : (s.setCell k c).haltGroups = s.haltGroups := rfl
@[simp] theorem State.setCell_regions (s : State) (k : Nat) (c : Cell) : (s.setCell k c).regions = s.regions := rfl
@[simp] theorem State.setCell_dispAt (s : State) (k : Nat) (c : Cell) : (s.setCell k c).dispAt = s.dispAt := rfl
@[simp] theorem State.setCell_reports (s : State) (k : Nat) (c : Cell) : (s.setCell k c).reports = s.reports := rfl
@[simp] theorem State.setCell_supLog (s : State) (k : Nat) (c : Cell) : (s.setCell k c).supLog = s.supLog := rfl
@[simp] theorem State.setCell_dumps (s : State) (k : Nat) (c : Cell) : (s.setCell k c).dumps = s.dumps := rfl
@[simp] theorem State.setCell_misq (s : State) (k : Nat) (c : Cell) : (s.setCell k c).misq = s.misq := rfl
@[simp] theorem State.setCell_rebindStep (s : State) (k : Nat) (c : Cell) : (s.setCell k c).rebindStep = s.rebindStep := rfl
@[simp] theorem State.setCell_linkOut (s : State) (k : Nat) (c : Cell) : (s.setCell k c).linkOut = s.linkOut := rfl
@[simp] theorem State.setCell_gateIn (s : State) (k : Nat) (c : Cell) : (s.setCell k c).gateIn = s.gateIn := rfl
@[simp] theorem State.setCell_agenda (s : State) (k : Nat) (c : Cell) : (s.setCell k c).agenda = s.agenda := rfl
@[simp] theorem State.setCell_cur (s : State) (k : Nat) (c : Cell) : (s.setCell k c).cur = s.cur := rfl
@[simp] theorem State.setCell_fresh (s : State) (k : Nat) (c : Cell) : (s.setCell k c).fresh = s.fresh := rfl
@[simp] theorem State.setCell_freeCtr (s : State) (k : Nat) (c : Cell) : (s.setCell k c).freeCtr = s.freeCtr := rfl
@[simp] theorem State.setCell_herrNow (s : State) (k : Nat) (c : Cell) : (s.setCell k c).herrNow = s.herrNow := rfl
@[simp] theorem State.setCell_dumpDue (s : State) (k : Nat) (c : Cell) : (s.setCell k c).dumpDue = s.dumpDue := rfl
@[simp] theorem State.setCell_gating (s : State) (k : Nat) (c : Cell) : (s.setCell k c).gating = s.gating := rfl
@[simp] theorem State.setCell_rebindVs (s : State) (k : Nat) (c : Cell) : (s.setCell k c).rebindVs = s.rebindVs := rfl
@[simp] theorem State.setCell_reinj (s : State) (k : Nat) (c : Cell) : (s.setCell k c).reinj = s.reinj := rfl
@[simp] theorem State.setCell_linkFails (s : State) (k : Nat) (c : Cell) : (s.setCell k c).linkFails = s.linkFails := rfl
@[simp] theorem State.setCell_period (s : State) (k : Nat) (c : Cell) : (s.setCell k c).period = s.period := rfl

/-! ### setCtx -/

@[simp] theorem State.setCtx_mem (s : State) (k x : Nat) (c : Ctx) : (s.setCtx k x c).mem = s.mem := rfl
@[simp] theorem State.setCtx_vtime (s : State) (k x : Nat) (c : Ctx) : (s.setCtx k x c).vtime = s.vtime := rfl
@[simp] theorem State.setCtx_cells (s : State) (k x : Nat) (c : Ctx) : (s.setCtx k x c).cells = s.cells := rfl
@[simp] theorem State.setCtx_clusters (s : State) (k x : Nat) (c : Ctx) : (s.setCtx k x c).clusters = s.clusters := rfl
@[simp] theorem State.setCtx_fields (s : State) (k x : Nat) (c : Ctx) : (s.setCtx k x c).fields = s.fields := rfl
@[simp] theorem State.setCtx_gates (s : State) (k x : Nat) (c : Ctx) : (s.setCtx k x c).gates = s.gates := rfl
@[simp] theorem State.setCtx_ftab (s : State) (k x : Nat) (c : Ctx) : (s.setCtx k x c).ftab = s.ftab := rfl
@[simp] theorem State.setCtx_ltab (s : State) (k x : Nat) (c : Ctx) : (s.setCtx k x c).ltab = s.ltab := rfl
@[simp] theorem State.setCtx_atab (s : State) (k x : Nat) (c : Ctx) : (s.setCtx k x c).atab = s.atab := rfl
@[simp] theorem State.setCtx_wroteGen (s : State) (k x : Nat) (c : Ctx) : (s.setCtx k x c).wroteGen = s.wroteGen := rfl
@[simp] theorem State.setCtx_gen (s : State) (k x : Nat) (c : Ctx) : (s.setCtx k x c).gen = s.gen := rfl
@[simp] theorem State.setCtx_holds (s : State) (k x : Nat) (c : Ctx) : (s.setCtx k x c).holds = s.holds := rfl
@[simp] theorem State.setCtx_waferId (s : State) (k x : Nat) (c : Ctx) : (s.setCtx k x c).waferId = s.waferId := rfl
@[simp] theorem State.setCtx_dims (s : State) (k x : Nat) (c : Ctx) : (s.setCtx k x c).dims = s.dims := rfl
@[simp] theorem State.setCtx_torus (s : State) (k x : Nat) (c : Ctx) : (s.setCtx k x c).torus = s.torus := rfl
@[simp] theorem State.setCtx_net (s : State) (k x : Nat) (c : Ctx) : (s.setCtx k x c).net = s.net := rfl
@[simp] theorem State.setCtx_resps (s : State) (k x : Nat) (c : Ctx) : (s.setCtx k x c).resps = s.resps := rfl
@[simp] theorem State.setCtx_held (s : State) (k x : Nat) (c : Ctx) : (s.setCtx k x c).held = s.held := rfl
@[simp] theorem State.setCtx_waits (s : State) (k x : Nat) (c : Ctx) : (s.setCtx k x c).waits = s.waits := rfl
@[simp] theorem State.setCtx_tokens (s : State) (k x : Nat) (c : Ctx) : (s.setCtx k x c).tokens = s.tokens := rfl
@[simp] theorem State.setCtx_treeUp (s : State) (k x : Nat) (c : Ctx) : (s.setCtx k x c).treeUp = s.treeUp := rfl
@[simp] theorem State.setCtx_treeDown (s : State) (k x : Nat) (c : Ctx) : (s.setCtx k x c).treeDown = s.treeDown := rfl
@[simp] theorem State.setCtx_treeRound (s : State) (k x : Nat) (c : Ctx) : (s.setCtx k x c).treeRound = s.treeRound := rfl
@[simp] theorem State.setCtx_anmask (s : State) (k x : Nat) (c : Ctx) : (s.setCtx k x c).anmask = s.anmask := rfl
@[simp] theorem State.setCtx_anpadMax (s : State) (k x : Nat) (c : Ctx) : (s.setCtx k x c).anpadMax = s.anpadMax := rfl
@[simp] theorem State.setCtx_anpadPad (s : State) (k x : Nat) (c : Ctx) : (s.setCtx k x c).anpadPad = s.anpadPad := rfl
@[simp] theorem State.setCtx_leafLat (s : State) (k x : Nat) (c : Ctx) : (s.setCtx k x c).leafLat = s.leafLat := rfl
@[simp] theorem State.setCtx_launches (s : State) (k x : Nat) (c : Ctx) : (s.setCtx k x c).launches = s.launches := rfl
@[simp] theorem State.setCtx_pgrant (s : State) (k x : Nat) (c : Ctx) : (s.setCtx k x c).pgrant = s.pgrant := rfl
@[simp] theorem State.setCtx_mbctl (s : State) (k x : Nat) (c : Ctx) : (s.setCtx k x c).mbctl = s.mbctl := rfl
@[simp] theorem State.setCtx_mbstat (s : State) (k x : Nat) (c : Ctx) : (s.setCtx k x c).mbstat = s.mbstat := rfl
@[simp] theorem State.setCtx_mbox (s : State) (k x : Nat) (c : Ctx) : (s.setCtx k x c).mbox = s.mbox := rfl
@[simp] theorem State.setCtx_bootst (s : State) (k x : Nat) (c : Ctx) : (s.setCtx k x c).bootst = s.bootst := rfl
@[simp] theorem State.setCtx_herr (s : State) (k x : Nat) (c : Ctx) : (s.setCtx k x c).herr = s.herr := rfl
@[simp] theorem State.setCtx_hwin (s : State) (k x : Nat) (c : Ctx) : (s.setCtx k x c).hwin = s.hwin := rfl
@[simp] theorem State.setCtx_fw (s : State) (k x : Nat) (c : Ctx) : (s.setCtx k x c).fw = s.fw := rfl
@[simp] theorem State.setCtx_atc (s : State) (k x : Nat) (c : Ctx) : (s.setCtx k x c).atc = s.atc := rfl
@[simp] theorem State.setCtx_modtel (s : State) (k x : Nat) (c : Ctx) : (s.setCtx k x c).modtel = s.modtel := rfl
@[simp] theorem State.setCtx_snaps (s : State) (k x : Nat) (c : Ctx) : (s.setCtx k x c).snaps = s.snaps := rfl
@[simp] theorem State.setCtx_fsnaps (s : State) (k x : Nat) (c : Ctx) : (s.setCtx k x c).fsnaps = s.fsnaps := rfl
@[simp] theorem State.setCtx_haltGroups (s : State) (k x : Nat) (c : Ctx) : (s.setCtx k x c).haltGroups = s.haltGroups := rfl
@[simp] theorem State.setCtx_regions (s : State) (k x : Nat) (c : Ctx) : (s.setCtx k x c).regions = s.regions := rfl
@[simp] theorem State.setCtx_dispAt (s : State) (k x : Nat) (c : Ctx) : (s.setCtx k x c).dispAt = s.dispAt := rfl
@[simp] theorem State.setCtx_reports (s : State) (k x : Nat) (c : Ctx) : (s.setCtx k x c).reports = s.reports := rfl
@[simp] theorem State.setCtx_supLog (s : State) (k x : Nat) (c : Ctx) : (s.setCtx k x c).supLog = s.supLog := rfl
@[simp] theorem State.setCtx_dumps (s : State) (k x : Nat) (c : Ctx) : (s.setCtx k x c).dumps = s.dumps := rfl
@[simp] theorem State.setCtx_misq (s : State) (k x : Nat) (c : Ctx) : (s.setCtx k x c).misq = s.misq := rfl
@[simp] theorem State.setCtx_rebindStep (s : State) (k x : Nat) (c : Ctx) : (s.setCtx k x c).rebindStep = s.rebindStep := rfl
@[simp] theorem State.setCtx_linkOut (s : State) (k x : Nat) (c : Ctx) : (s.setCtx k x c).linkOut = s.linkOut := rfl
@[simp] theorem State.setCtx_gateIn (s : State) (k x : Nat) (c : Ctx) : (s.setCtx k x c).gateIn = s.gateIn := rfl
@[simp] theorem State.setCtx_agenda (s : State) (k x : Nat) (c : Ctx) : (s.setCtx k x c).agenda = s.agenda := rfl
@[simp] theorem State.setCtx_cur (s : State) (k x : Nat) (c : Ctx) : (s.setCtx k x c).cur = s.cur := rfl
@[simp] theorem State.setCtx_fresh (s : State) (k x : Nat) (c : Ctx) : (s.setCtx k x c).fresh = s.fresh := rfl
@[simp] theorem State.setCtx_freeCtr (s : State) (k x : Nat) (c : Ctx) : (s.setCtx k x c).freeCtr = s.freeCtr := rfl
@[simp] theorem State.setCtx_herrNow (s : State) (k x : Nat) (c : Ctx) : (s.setCtx k x c).herrNow = s.herrNow := rfl
@[simp] theorem State.setCtx_dumpDue (s : State) (k x : Nat) (c : Ctx) : (s.setCtx k x c).dumpDue = s.dumpDue := rfl
@[simp] theorem State.setCtx_gating (s : State) (k x : Nat) (c : Ctx) : (s.setCtx k x c).gating = s.gating := rfl
@[simp] theorem State.setCtx_rebindVs (s : State) (k x : Nat) (c : Ctx) : (s.setCtx k x c).rebindVs = s.rebindVs := rfl
@[simp] theorem State.setCtx_reinj (s : State) (k x : Nat) (c : Ctx) : (s.setCtx k x c).reinj = s.reinj := rfl
@[simp] theorem State.setCtx_linkFails (s : State) (k x : Nat) (c : Ctx) : (s.setCtx k x c).linkFails = s.linkFails := rfl
@[simp] theorem State.setCtx_period (s : State) (k x : Nat) (c : Ctx) : (s.setCtx k x c).period = s.period := rfl

/-! ### setCluster -/

@[simp] theorem State.setCluster_mem (s : State) (k : Nat) (c : Cluster) : (s.setCluster k c).mem = s.mem := rfl
@[simp] theorem State.setCluster_vtime (s : State) (k : Nat) (c : Cluster) : (s.setCluster k c).vtime = s.vtime := rfl
@[simp] theorem State.setCluster_cells (s : State) (k : Nat) (c : Cluster) : (s.setCluster k c).cells = s.cells := rfl
@[simp] theorem State.setCluster_ctxs (s : State) (k : Nat) (c : Cluster) : (s.setCluster k c).ctxs = s.ctxs := rfl
@[simp] theorem State.setCluster_fields (s : State) (k : Nat) (c : Cluster) : (s.setCluster k c).fields = s.fields := rfl
@[simp] theorem State.setCluster_gates (s : State) (k : Nat) (c : Cluster) : (s.setCluster k c).gates = s.gates := rfl
@[simp] theorem State.setCluster_ftab (s : State) (k : Nat) (c : Cluster) : (s.setCluster k c).ftab = s.ftab := rfl
@[simp] theorem State.setCluster_ltab (s : State) (k : Nat) (c : Cluster) : (s.setCluster k c).ltab = s.ltab := rfl
@[simp] theorem State.setCluster_atab (s : State) (k : Nat) (c : Cluster) : (s.setCluster k c).atab = s.atab := rfl
@[simp] theorem State.setCluster_wroteGen (s : State) (k : Nat) (c : Cluster) : (s.setCluster k c).wroteGen = s.wroteGen := rfl
@[simp] theorem State.setCluster_gen (s : State) (k : Nat) (c : Cluster) : (s.setCluster k c).gen = s.gen := rfl
@[simp] theorem State.setCluster_holds (s : State) (k : Nat) (c : Cluster) : (s.setCluster k c).holds = s.holds := rfl
@[simp] theorem State.setCluster_waferId (s : State) (k : Nat) (c : Cluster) : (s.setCluster k c).waferId = s.waferId := rfl
@[simp] theorem State.setCluster_dims (s : State) (k : Nat) (c : Cluster) : (s.setCluster k c).dims = s.dims := rfl
@[simp] theorem State.setCluster_torus (s : State) (k : Nat) (c : Cluster) : (s.setCluster k c).torus = s.torus := rfl
@[simp] theorem State.setCluster_net (s : State) (k : Nat) (c : Cluster) : (s.setCluster k c).net = s.net := rfl
@[simp] theorem State.setCluster_resps (s : State) (k : Nat) (c : Cluster) : (s.setCluster k c).resps = s.resps := rfl
@[simp] theorem State.setCluster_held (s : State) (k : Nat) (c : Cluster) : (s.setCluster k c).held = s.held := rfl
@[simp] theorem State.setCluster_waits (s : State) (k : Nat) (c : Cluster) : (s.setCluster k c).waits = s.waits := rfl
@[simp] theorem State.setCluster_tokens (s : State) (k : Nat) (c : Cluster) : (s.setCluster k c).tokens = s.tokens := rfl
@[simp] theorem State.setCluster_treeUp (s : State) (k : Nat) (c : Cluster) : (s.setCluster k c).treeUp = s.treeUp := rfl
@[simp] theorem State.setCluster_treeDown (s : State) (k : Nat) (c : Cluster) : (s.setCluster k c).treeDown = s.treeDown := rfl
@[simp] theorem State.setCluster_treeRound (s : State) (k : Nat) (c : Cluster) : (s.setCluster k c).treeRound = s.treeRound := rfl
@[simp] theorem State.setCluster_anmask (s : State) (k : Nat) (c : Cluster) : (s.setCluster k c).anmask = s.anmask := rfl
@[simp] theorem State.setCluster_anpadMax (s : State) (k : Nat) (c : Cluster) : (s.setCluster k c).anpadMax = s.anpadMax := rfl
@[simp] theorem State.setCluster_anpadPad (s : State) (k : Nat) (c : Cluster) : (s.setCluster k c).anpadPad = s.anpadPad := rfl
@[simp] theorem State.setCluster_leafLat (s : State) (k : Nat) (c : Cluster) : (s.setCluster k c).leafLat = s.leafLat := rfl
@[simp] theorem State.setCluster_launches (s : State) (k : Nat) (c : Cluster) : (s.setCluster k c).launches = s.launches := rfl
@[simp] theorem State.setCluster_pgrant (s : State) (k : Nat) (c : Cluster) : (s.setCluster k c).pgrant = s.pgrant := rfl
@[simp] theorem State.setCluster_mbctl (s : State) (k : Nat) (c : Cluster) : (s.setCluster k c).mbctl = s.mbctl := rfl
@[simp] theorem State.setCluster_mbstat (s : State) (k : Nat) (c : Cluster) : (s.setCluster k c).mbstat = s.mbstat := rfl
@[simp] theorem State.setCluster_mbox (s : State) (k : Nat) (c : Cluster) : (s.setCluster k c).mbox = s.mbox := rfl
@[simp] theorem State.setCluster_bootst (s : State) (k : Nat) (c : Cluster) : (s.setCluster k c).bootst = s.bootst := rfl
@[simp] theorem State.setCluster_herr (s : State) (k : Nat) (c : Cluster) : (s.setCluster k c).herr = s.herr := rfl
@[simp] theorem State.setCluster_hwin (s : State) (k : Nat) (c : Cluster) : (s.setCluster k c).hwin = s.hwin := rfl
@[simp] theorem State.setCluster_fw (s : State) (k : Nat) (c : Cluster) : (s.setCluster k c).fw = s.fw := rfl
@[simp] theorem State.setCluster_atc (s : State) (k : Nat) (c : Cluster) : (s.setCluster k c).atc = s.atc := rfl
@[simp] theorem State.setCluster_modtel (s : State) (k : Nat) (c : Cluster) : (s.setCluster k c).modtel = s.modtel := rfl
@[simp] theorem State.setCluster_snaps (s : State) (k : Nat) (c : Cluster) : (s.setCluster k c).snaps = s.snaps := rfl
@[simp] theorem State.setCluster_fsnaps (s : State) (k : Nat) (c : Cluster) : (s.setCluster k c).fsnaps = s.fsnaps := rfl
@[simp] theorem State.setCluster_haltGroups (s : State) (k : Nat) (c : Cluster) : (s.setCluster k c).haltGroups = s.haltGroups := rfl
@[simp] theorem State.setCluster_regions (s : State) (k : Nat) (c : Cluster) : (s.setCluster k c).regions = s.regions := rfl
@[simp] theorem State.setCluster_dispAt (s : State) (k : Nat) (c : Cluster) : (s.setCluster k c).dispAt = s.dispAt := rfl
@[simp] theorem State.setCluster_reports (s : State) (k : Nat) (c : Cluster) : (s.setCluster k c).reports = s.reports := rfl
@[simp] theorem State.setCluster_supLog (s : State) (k : Nat) (c : Cluster) : (s.setCluster k c).supLog = s.supLog := rfl
@[simp] theorem State.setCluster_dumps (s : State) (k : Nat) (c : Cluster) : (s.setCluster k c).dumps = s.dumps := rfl
@[simp] theorem State.setCluster_misq (s : State) (k : Nat) (c : Cluster) : (s.setCluster k c).misq = s.misq := rfl
@[simp] theorem State.setCluster_rebindStep (s : State) (k : Nat) (c : Cluster) : (s.setCluster k c).rebindStep = s.rebindStep := rfl
@[simp] theorem State.setCluster_linkOut (s : State) (k : Nat) (c : Cluster) : (s.setCluster k c).linkOut = s.linkOut := rfl
@[simp] theorem State.setCluster_gateIn (s : State) (k : Nat) (c : Cluster) : (s.setCluster k c).gateIn = s.gateIn := rfl
@[simp] theorem State.setCluster_agenda (s : State) (k : Nat) (c : Cluster) : (s.setCluster k c).agenda = s.agenda := rfl
@[simp] theorem State.setCluster_cur (s : State) (k : Nat) (c : Cluster) : (s.setCluster k c).cur = s.cur := rfl
@[simp] theorem State.setCluster_fresh (s : State) (k : Nat) (c : Cluster) : (s.setCluster k c).fresh = s.fresh := rfl
@[simp] theorem State.setCluster_freeCtr (s : State) (k : Nat) (c : Cluster) : (s.setCluster k c).freeCtr = s.freeCtr := rfl
@[simp] theorem State.setCluster_herrNow (s : State) (k : Nat) (c : Cluster) : (s.setCluster k c).herrNow = s.herrNow := rfl
@[simp] theorem State.setCluster_dumpDue (s : State) (k : Nat) (c : Cluster) : (s.setCluster k c).dumpDue = s.dumpDue := rfl
@[simp] theorem State.setCluster_gating (s : State) (k : Nat) (c : Cluster) : (s.setCluster k c).gating = s.gating := rfl
@[simp] theorem State.setCluster_rebindVs (s : State) (k : Nat) (c : Cluster) : (s.setCluster k c).rebindVs = s.rebindVs := rfl
@[simp] theorem State.setCluster_reinj (s : State) (k : Nat) (c : Cluster) : (s.setCluster k c).reinj = s.reinj := rfl
@[simp] theorem State.setCluster_linkFails (s : State) (k : Nat) (c : Cluster) : (s.setCluster k c).linkFails = s.linkFails := rfl
@[simp] theorem State.setCluster_period (s : State) (k : Nat) (c : Cluster) : (s.setCluster k c).period = s.period := rfl

/-! ### setField -/

@[simp] theorem State.setField_mem (s : State) (k : Nat) (c : Field) : (s.setField k c).mem = s.mem := rfl
@[simp] theorem State.setField_vtime (s : State) (k : Nat) (c : Field) : (s.setField k c).vtime = s.vtime := rfl
@[simp] theorem State.setField_cells (s : State) (k : Nat) (c : Field) : (s.setField k c).cells = s.cells := rfl
@[simp] theorem State.setField_ctxs (s : State) (k : Nat) (c : Field) : (s.setField k c).ctxs = s.ctxs := rfl
@[simp] theorem State.setField_clusters (s : State) (k : Nat) (c : Field) : (s.setField k c).clusters = s.clusters := rfl
@[simp] theorem State.setField_gates (s : State) (k : Nat) (c : Field) : (s.setField k c).gates = s.gates := rfl
@[simp] theorem State.setField_ftab (s : State) (k : Nat) (c : Field) : (s.setField k c).ftab = s.ftab := rfl
@[simp] theorem State.setField_ltab (s : State) (k : Nat) (c : Field) : (s.setField k c).ltab = s.ltab := rfl
@[simp] theorem State.setField_atab (s : State) (k : Nat) (c : Field) : (s.setField k c).atab = s.atab := rfl
@[simp] theorem State.setField_wroteGen (s : State) (k : Nat) (c : Field) : (s.setField k c).wroteGen = s.wroteGen := rfl
@[simp] theorem State.setField_gen (s : State) (k : Nat) (c : Field) : (s.setField k c).gen = s.gen := rfl
@[simp] theorem State.setField_holds (s : State) (k : Nat) (c : Field) : (s.setField k c).holds = s.holds := rfl
@[simp] theorem State.setField_waferId (s : State) (k : Nat) (c : Field) : (s.setField k c).waferId = s.waferId := rfl
@[simp] theorem State.setField_dims (s : State) (k : Nat) (c : Field) : (s.setField k c).dims = s.dims := rfl
@[simp] theorem State.setField_torus (s : State) (k : Nat) (c : Field) : (s.setField k c).torus = s.torus := rfl
@[simp] theorem State.setField_net (s : State) (k : Nat) (c : Field) : (s.setField k c).net = s.net := rfl
@[simp] theorem State.setField_resps (s : State) (k : Nat) (c : Field) : (s.setField k c).resps = s.resps := rfl
@[simp] theorem State.setField_held (s : State) (k : Nat) (c : Field) : (s.setField k c).held = s.held := rfl
@[simp] theorem State.setField_waits (s : State) (k : Nat) (c : Field) : (s.setField k c).waits = s.waits := rfl
@[simp] theorem State.setField_tokens (s : State) (k : Nat) (c : Field) : (s.setField k c).tokens = s.tokens := rfl
@[simp] theorem State.setField_treeUp (s : State) (k : Nat) (c : Field) : (s.setField k c).treeUp = s.treeUp := rfl
@[simp] theorem State.setField_treeDown (s : State) (k : Nat) (c : Field) : (s.setField k c).treeDown = s.treeDown := rfl
@[simp] theorem State.setField_treeRound (s : State) (k : Nat) (c : Field) : (s.setField k c).treeRound = s.treeRound := rfl
@[simp] theorem State.setField_anmask (s : State) (k : Nat) (c : Field) : (s.setField k c).anmask = s.anmask := rfl
@[simp] theorem State.setField_anpadMax (s : State) (k : Nat) (c : Field) : (s.setField k c).anpadMax = s.anpadMax := rfl
@[simp] theorem State.setField_anpadPad (s : State) (k : Nat) (c : Field) : (s.setField k c).anpadPad = s.anpadPad := rfl
@[simp] theorem State.setField_leafLat (s : State) (k : Nat) (c : Field) : (s.setField k c).leafLat = s.leafLat := rfl
@[simp] theorem State.setField_launches (s : State) (k : Nat) (c : Field) : (s.setField k c).launches = s.launches := rfl
@[simp] theorem State.setField_pgrant (s : State) (k : Nat) (c : Field) : (s.setField k c).pgrant = s.pgrant := rfl
@[simp] theorem State.setField_mbctl (s : State) (k : Nat) (c : Field) : (s.setField k c).mbctl = s.mbctl := rfl
@[simp] theorem State.setField_mbstat (s : State) (k : Nat) (c : Field) : (s.setField k c).mbstat = s.mbstat := rfl
@[simp] theorem State.setField_mbox (s : State) (k : Nat) (c : Field) : (s.setField k c).mbox = s.mbox := rfl
@[simp] theorem State.setField_bootst (s : State) (k : Nat) (c : Field) : (s.setField k c).bootst = s.bootst := rfl
@[simp] theorem State.setField_herr (s : State) (k : Nat) (c : Field) : (s.setField k c).herr = s.herr := rfl
@[simp] theorem State.setField_hwin (s : State) (k : Nat) (c : Field) : (s.setField k c).hwin = s.hwin := rfl
@[simp] theorem State.setField_fw (s : State) (k : Nat) (c : Field) : (s.setField k c).fw = s.fw := rfl
@[simp] theorem State.setField_atc (s : State) (k : Nat) (c : Field) : (s.setField k c).atc = s.atc := rfl
@[simp] theorem State.setField_modtel (s : State) (k : Nat) (c : Field) : (s.setField k c).modtel = s.modtel := rfl
@[simp] theorem State.setField_snaps (s : State) (k : Nat) (c : Field) : (s.setField k c).snaps = s.snaps := rfl
@[simp] theorem State.setField_fsnaps (s : State) (k : Nat) (c : Field) : (s.setField k c).fsnaps = s.fsnaps := rfl
@[simp] theorem State.setField_haltGroups (s : State) (k : Nat) (c : Field) : (s.setField k c).haltGroups = s.haltGroups := rfl
@[simp] theorem State.setField_regions (s : State) (k : Nat) (c : Field) : (s.setField k c).regions = s.regions := rfl
@[simp] theorem State.setField_dispAt (s : State) (k : Nat) (c : Field) : (s.setField k c).dispAt = s.dispAt := rfl
@[simp] theorem State.setField_reports (s : State) (k : Nat) (c : Field) : (s.setField k c).reports = s.reports := rfl
@[simp] theorem State.setField_supLog (s : State) (k : Nat) (c : Field) : (s.setField k c).supLog = s.supLog := rfl
@[simp] theorem State.setField_dumps (s : State) (k : Nat) (c : Field) : (s.setField k c).dumps = s.dumps := rfl
@[simp] theorem State.setField_misq (s : State) (k : Nat) (c : Field) : (s.setField k c).misq = s.misq := rfl
@[simp] theorem State.setField_rebindStep (s : State) (k : Nat) (c : Field) : (s.setField k c).rebindStep = s.rebindStep := rfl
@[simp] theorem State.setField_linkOut (s : State) (k : Nat) (c : Field) : (s.setField k c).linkOut = s.linkOut := rfl
@[simp] theorem State.setField_gateIn (s : State) (k : Nat) (c : Field) : (s.setField k c).gateIn = s.gateIn := rfl
@[simp] theorem State.setField_agenda (s : State) (k : Nat) (c : Field) : (s.setField k c).agenda = s.agenda := rfl
@[simp] theorem State.setField_cur (s : State) (k : Nat) (c : Field) : (s.setField k c).cur = s.cur := rfl
@[simp] theorem State.setField_fresh (s : State) (k : Nat) (c : Field) : (s.setField k c).fresh = s.fresh := rfl
@[simp] theorem State.setField_freeCtr (s : State) (k : Nat) (c : Field) : (s.setField k c).freeCtr = s.freeCtr := rfl
@[simp] theorem State.setField_herrNow (s : State) (k : Nat) (c : Field) : (s.setField k c).herrNow = s.herrNow := rfl
@[simp] theorem State.setField_dumpDue (s : State) (k : Nat) (c : Field) : (s.setField k c).dumpDue = s.dumpDue := rfl
@[simp] theorem State.setField_gating (s : State) (k : Nat) (c : Field) : (s.setField k c).gating = s.gating := rfl
@[simp] theorem State.setField_rebindVs (s : State) (k : Nat) (c : Field) : (s.setField k c).rebindVs = s.rebindVs := rfl
@[simp] theorem State.setField_reinj (s : State) (k : Nat) (c : Field) : (s.setField k c).reinj = s.reinj := rfl
@[simp] theorem State.setField_linkFails (s : State) (k : Nat) (c : Field) : (s.setField k c).linkFails = s.linkFails := rfl
@[simp] theorem State.setField_period (s : State) (k : Nat) (c : Field) : (s.setField k c).period = s.period := rfl

/-! ### setGate -/

@[simp] theorem State.setGate_mem (s : State) (k : Nat) (c : Gate) : (s.setGate k c).mem = s.mem := rfl
@[simp] theorem State.setGate_vtime (s : State) (k : Nat) (c : Gate) : (s.setGate k c).vtime = s.vtime := rfl
@[simp] theorem State.setGate_cells (s : State) (k : Nat) (c : Gate) : (s.setGate k c).cells = s.cells := rfl
@[simp] theorem State.setGate_ctxs (s : State) (k : Nat) (c : Gate) : (s.setGate k c).ctxs = s.ctxs := rfl
@[simp] theorem State.setGate_clusters (s : State) (k : Nat) (c : Gate) : (s.setGate k c).clusters = s.clusters := rfl
@[simp] theorem State.setGate_fields (s : State) (k : Nat) (c : Gate) : (s.setGate k c).fields = s.fields := rfl
@[simp] theorem State.setGate_ftab (s : State) (k : Nat) (c : Gate) : (s.setGate k c).ftab = s.ftab := rfl
@[simp] theorem State.setGate_ltab (s : State) (k : Nat) (c : Gate) : (s.setGate k c).ltab = s.ltab := rfl
@[simp] theorem State.setGate_atab (s : State) (k : Nat) (c : Gate) : (s.setGate k c).atab = s.atab := rfl
@[simp] theorem State.setGate_wroteGen (s : State) (k : Nat) (c : Gate) : (s.setGate k c).wroteGen = s.wroteGen := rfl
@[simp] theorem State.setGate_gen (s : State) (k : Nat) (c : Gate) : (s.setGate k c).gen = s.gen := rfl
@[simp] theorem State.setGate_holds (s : State) (k : Nat) (c : Gate) : (s.setGate k c).holds = s.holds := rfl
@[simp] theorem State.setGate_waferId (s : State) (k : Nat) (c : Gate) : (s.setGate k c).waferId = s.waferId := rfl
@[simp] theorem State.setGate_dims (s : State) (k : Nat) (c : Gate) : (s.setGate k c).dims = s.dims := rfl
@[simp] theorem State.setGate_torus (s : State) (k : Nat) (c : Gate) : (s.setGate k c).torus = s.torus := rfl
@[simp] theorem State.setGate_net (s : State) (k : Nat) (c : Gate) : (s.setGate k c).net = s.net := rfl
@[simp] theorem State.setGate_resps (s : State) (k : Nat) (c : Gate) : (s.setGate k c).resps = s.resps := rfl
@[simp] theorem State.setGate_held (s : State) (k : Nat) (c : Gate) : (s.setGate k c).held = s.held := rfl
@[simp] theorem State.setGate_waits (s : State) (k : Nat) (c : Gate) : (s.setGate k c).waits = s.waits := rfl
@[simp] theorem State.setGate_tokens (s : State) (k : Nat) (c : Gate) : (s.setGate k c).tokens = s.tokens := rfl
@[simp] theorem State.setGate_treeUp (s : State) (k : Nat) (c : Gate) : (s.setGate k c).treeUp = s.treeUp := rfl
@[simp] theorem State.setGate_treeDown (s : State) (k : Nat) (c : Gate) : (s.setGate k c).treeDown = s.treeDown := rfl
@[simp] theorem State.setGate_treeRound (s : State) (k : Nat) (c : Gate) : (s.setGate k c).treeRound = s.treeRound := rfl
@[simp] theorem State.setGate_anmask (s : State) (k : Nat) (c : Gate) : (s.setGate k c).anmask = s.anmask := rfl
@[simp] theorem State.setGate_anpadMax (s : State) (k : Nat) (c : Gate) : (s.setGate k c).anpadMax = s.anpadMax := rfl
@[simp] theorem State.setGate_anpadPad (s : State) (k : Nat) (c : Gate) : (s.setGate k c).anpadPad = s.anpadPad := rfl
@[simp] theorem State.setGate_leafLat (s : State) (k : Nat) (c : Gate) : (s.setGate k c).leafLat = s.leafLat := rfl
@[simp] theorem State.setGate_launches (s : State) (k : Nat) (c : Gate) : (s.setGate k c).launches = s.launches := rfl
@[simp] theorem State.setGate_pgrant (s : State) (k : Nat) (c : Gate) : (s.setGate k c).pgrant = s.pgrant := rfl
@[simp] theorem State.setGate_mbctl (s : State) (k : Nat) (c : Gate) : (s.setGate k c).mbctl = s.mbctl := rfl
@[simp] theorem State.setGate_mbstat (s : State) (k : Nat) (c : Gate) : (s.setGate k c).mbstat = s.mbstat := rfl
@[simp] theorem State.setGate_mbox (s : State) (k : Nat) (c : Gate) : (s.setGate k c).mbox = s.mbox := rfl
@[simp] theorem State.setGate_bootst (s : State) (k : Nat) (c : Gate) : (s.setGate k c).bootst = s.bootst := rfl
@[simp] theorem State.setGate_herr (s : State) (k : Nat) (c : Gate) : (s.setGate k c).herr = s.herr := rfl
@[simp] theorem State.setGate_hwin (s : State) (k : Nat) (c : Gate) : (s.setGate k c).hwin = s.hwin := rfl
@[simp] theorem State.setGate_fw (s : State) (k : Nat) (c : Gate) : (s.setGate k c).fw = s.fw := rfl
@[simp] theorem State.setGate_atc (s : State) (k : Nat) (c : Gate) : (s.setGate k c).atc = s.atc := rfl
@[simp] theorem State.setGate_modtel (s : State) (k : Nat) (c : Gate) : (s.setGate k c).modtel = s.modtel := rfl
@[simp] theorem State.setGate_snaps (s : State) (k : Nat) (c : Gate) : (s.setGate k c).snaps = s.snaps := rfl
@[simp] theorem State.setGate_fsnaps (s : State) (k : Nat) (c : Gate) : (s.setGate k c).fsnaps = s.fsnaps := rfl
@[simp] theorem State.setGate_haltGroups (s : State) (k : Nat) (c : Gate) : (s.setGate k c).haltGroups = s.haltGroups := rfl
@[simp] theorem State.setGate_regions (s : State) (k : Nat) (c : Gate) : (s.setGate k c).regions = s.regions := rfl
@[simp] theorem State.setGate_dispAt (s : State) (k : Nat) (c : Gate) : (s.setGate k c).dispAt = s.dispAt := rfl
@[simp] theorem State.setGate_reports (s : State) (k : Nat) (c : Gate) : (s.setGate k c).reports = s.reports := rfl
@[simp] theorem State.setGate_supLog (s : State) (k : Nat) (c : Gate) : (s.setGate k c).supLog = s.supLog := rfl
@[simp] theorem State.setGate_dumps (s : State) (k : Nat) (c : Gate) : (s.setGate k c).dumps = s.dumps := rfl
@[simp] theorem State.setGate_misq (s : State) (k : Nat) (c : Gate) : (s.setGate k c).misq = s.misq := rfl
@[simp] theorem State.setGate_rebindStep (s : State) (k : Nat) (c : Gate) : (s.setGate k c).rebindStep = s.rebindStep := rfl
@[simp] theorem State.setGate_linkOut (s : State) (k : Nat) (c : Gate) : (s.setGate k c).linkOut = s.linkOut := rfl
@[simp] theorem State.setGate_gateIn (s : State) (k : Nat) (c : Gate) : (s.setGate k c).gateIn = s.gateIn := rfl
@[simp] theorem State.setGate_agenda (s : State) (k : Nat) (c : Gate) : (s.setGate k c).agenda = s.agenda := rfl
@[simp] theorem State.setGate_cur (s : State) (k : Nat) (c : Gate) : (s.setGate k c).cur = s.cur := rfl
@[simp] theorem State.setGate_fresh (s : State) (k : Nat) (c : Gate) : (s.setGate k c).fresh = s.fresh := rfl
@[simp] theorem State.setGate_freeCtr (s : State) (k : Nat) (c : Gate) : (s.setGate k c).freeCtr = s.freeCtr := rfl
@[simp] theorem State.setGate_herrNow (s : State) (k : Nat) (c : Gate) : (s.setGate k c).herrNow = s.herrNow := rfl
@[simp] theorem State.setGate_dumpDue (s : State) (k : Nat) (c : Gate) : (s.setGate k c).dumpDue = s.dumpDue := rfl
@[simp] theorem State.setGate_gating (s : State) (k : Nat) (c : Gate) : (s.setGate k c).gating = s.gating := rfl
@[simp] theorem State.setGate_rebindVs (s : State) (k : Nat) (c : Gate) : (s.setGate k c).rebindVs = s.rebindVs := rfl
@[simp] theorem State.setGate_reinj (s : State) (k : Nat) (c : Gate) : (s.setGate k c).reinj = s.reinj := rfl
@[simp] theorem State.setGate_linkFails (s : State) (k : Nat) (c : Gate) : (s.setGate k c).linkFails = s.linkFails := rfl
@[simp] theorem State.setGate_period (s : State) (k : Nat) (c : Gate) : (s.setGate k c).period = s.period := rfl

/-! ### The on-updates are the set-updates -/

theorem State.onCell_eq (s : State) (k : Nat) (f : Cell → Cell) : s.onCell k f = s.setCell k (f (s.cellAt k)) := rfl
@[simp] theorem State.onCell_mem (s : State) (k : Nat) (f : Cell → Cell) : (s.onCell k f).mem = s.mem := rfl
@[simp] theorem State.onCell_vtime (s : State) (k : Nat) (f : Cell → Cell) : (s.onCell k f).vtime = s.vtime := rfl
theorem State.onCtx_eq (s : State) (k x : Nat) (f : Ctx → Ctx) : s.onCtx k x f = s.setCtx k x (f (s.ctxAt k x)) := rfl
@[simp] theorem State.onCtx_mem (s : State) (k x : Nat) (f : Ctx → Ctx) : (s.onCtx k x f).mem = s.mem := rfl
@[simp] theorem State.onCtx_vtime (s : State) (k x : Nat) (f : Ctx → Ctx) : (s.onCtx k x f).vtime = s.vtime := rfl
theorem State.onCluster_eq (s : State) (k : Nat) (f : Cluster → Cluster) : s.onCluster k f = s.setCluster k (f (s.clusterAt k)) := rfl
@[simp] theorem State.onCluster_mem (s : State) (k : Nat) (f : Cluster → Cluster) : (s.onCluster k f).mem = s.mem := rfl
@[simp] theorem State.onCluster_vtime (s : State) (k : Nat) (f : Cluster → Cluster) : (s.onCluster k f).vtime = s.vtime := rfl
theorem State.onField_eq (s : State) (k : Nat) (f : Field → Field) : s.onField k f = s.setField k (f (s.fieldAt k)) := rfl
@[simp] theorem State.onField_mem (s : State) (k : Nat) (f : Field → Field) : (s.onField k f).mem = s.mem := rfl
@[simp] theorem State.onField_vtime (s : State) (k : Nat) (f : Field → Field) : (s.onField k f).vtime = s.vtime := rfl
theorem State.onGate_eq (s : State) (k : Nat) (f : Gate → Gate) : s.onGate k f = s.setGate k (f (s.gateAt k)) := rfl
@[simp] theorem State.onGate_mem (s : State) (k : Nat) (f : Gate → Gate) : (s.onGate k f).mem = s.mem := rfl
@[simp] theorem State.onGate_vtime (s : State) (k : Nat) (f : Gate → Gate) : (s.onGate k f).vtime = s.vtime := rfl

/-! ### Units after an update -/

@[simp] theorem State.cellAt_setCtx (s : State) (k x : Nat) (c : Ctx) (i : Nat) : (s.setCtx k x c).cellAt i = s.cellAt i := rfl
@[simp] theorem State.cellAt_setCluster (s : State) (k : Nat) (c : Cluster) (i : Nat) : (s.setCluster k c).cellAt i = s.cellAt i := rfl
@[simp] theorem State.cellAt_setField (s : State) (k : Nat) (c : Field) (i : Nat) : (s.setField k c).cellAt i = s.cellAt i := rfl
@[simp] theorem State.cellAt_setGate (s : State) (k : Nat) (c : Gate) (i : Nat) : (s.setGate k c).cellAt i = s.cellAt i := rfl
@[simp] theorem State.cellAt_setCell_self (s : State) (k : Nat) (c : Cell) : (s.setCell k c).cellAt k = c := Tab.get_set_self _ _ _ _
theorem State.cellAt_setCell_ne (s : State) (k i : Nat) (c : Cell) (h : i ≠ k) : (s.setCell k c).cellAt i = s.cellAt i :=
  Tab.get_set_ne _ _ _ _ _ h
@[simp] theorem State.ctxAt_setCell (s : State) (k : Nat) (c : Cell) (i j : Nat) : (s.setCell k c).ctxAt i j = s.ctxAt i j := rfl
@[simp] theorem State.ctxAt_setCluster (s : State) (k : Nat) (c : Cluster) (i j : Nat) : (s.setCluster k c).ctxAt i j = s.ctxAt i j := rfl
@[simp] theorem State.ctxAt_setField (s : State) (k : Nat) (c : Field) (i j : Nat) : (s.setField k c).ctxAt i j = s.ctxAt i j := rfl
@[simp] theorem State.ctxAt_setGate (s : State) (k : Nat) (c : Gate) (i j : Nat) : (s.setGate k c).ctxAt i j = s.ctxAt i j := rfl
@[simp] theorem State.ctxAt_setCtx_self (s : State) (k x : Nat) (c : Ctx) : (s.setCtx k x c).ctxAt k x = c := Tab.get_set_self _ _ _ _
theorem State.ctxAt_setCtx_ne (s : State) (k x i j : Nat) (c : Ctx) (h : 4 * i + j ≠ 4 * k + x) :
    (s.setCtx k x c).ctxAt i j = s.ctxAt i j := Tab.get_set_ne _ _ _ _ _ h
@[simp] theorem State.clusterAt_setCell (s : State) (k : Nat) (c : Cell) (i : Nat) : (s.setCell k c).clusterAt i = s.clusterAt i := rfl
@[simp] theorem State.clusterAt_setCtx (s : State) (k x : Nat) (c : Ctx) (i : Nat) : (s.setCtx k x c).clusterAt i = s.clusterAt i := rfl
@[simp] theorem State.clusterAt_setField (s : State) (k : Nat) (c : Field) (i : Nat) : (s.setField k c).clusterAt i = s.clusterAt i := rfl
@[simp] theorem State.clusterAt_setGate (s : State) (k : Nat) (c : Gate) (i : Nat) : (s.setGate k c).clusterAt i = s.clusterAt i := rfl
@[simp] theorem State.clusterAt_setCluster_self (s : State) (k : Nat) (c : Cluster) : (s.setCluster k c).clusterAt k = c := Tab.get_set_self _ _ _ _
theorem State.clusterAt_setCluster_ne (s : State) (k i : Nat) (c : Cluster) (h : i ≠ k) : (s.setCluster k c).clusterAt i = s.clusterAt i :=
  Tab.get_set_ne _ _ _ _ _ h
@[simp] theorem State.fieldAt_setCell (s : State) (k : Nat) (c : Cell) (i : Nat) : (s.setCell k c).fieldAt i = s.fieldAt i := rfl
@[simp] theorem State.fieldAt_setCtx (s : State) (k x : Nat) (c : Ctx) (i : Nat) : (s.setCtx k x c).fieldAt i = s.fieldAt i := rfl
@[simp] theorem State.fieldAt_setCluster (s : State) (k : Nat) (c : Cluster) (i : Nat) : (s.setCluster k c).fieldAt i = s.fieldAt i := rfl
@[simp] theorem State.fieldAt_setGate (s : State) (k : Nat) (c : Gate) (i : Nat) : (s.setGate k c).fieldAt i = s.fieldAt i := rfl
@[simp] theorem State.fieldAt_setField_self (s : State) (k : Nat) (c : Field) : (s.setField k c).fieldAt k = c := Tab.get_set_self _ _ _ _
theorem State.fieldAt_setField_ne (s : State) (k i : Nat) (c : Field) (h : i ≠ k) : (s.setField k c).fieldAt i = s.fieldAt i :=
  Tab.get_set_ne _ _ _ _ _ h
@[simp] theorem State.gateAt_setCell (s : State) (k : Nat) (c : Cell) (i : Nat) : (s.setCell k c).gateAt i = s.gateAt i := rfl
@[simp] theorem State.gateAt_setCtx (s : State) (k x : Nat) (c : Ctx) (i : Nat) : (s.setCtx k x c).gateAt i = s.gateAt i := rfl
@[simp] theorem State.gateAt_setCluster (s : State) (k : Nat) (c : Cluster) (i : Nat) : (s.setCluster k c).gateAt i = s.gateAt i := rfl
@[simp] theorem State.gateAt_setField (s : State) (k : Nat) (c : Field) (i : Nat) : (s.setField k c).gateAt i = s.gateAt i := rfl
@[simp] theorem State.gateAt_setGate_self (s : State) (k : Nat) (c : Gate) : (s.setGate k c).gateAt k = c := Tab.get_set_self _ _ _ _
theorem State.gateAt_setGate_ne (s : State) (k i : Nat) (c : Gate) (h : i ≠ k) : (s.setGate k c).gateAt i = s.gateAt i :=
  Tab.get_set_ne _ _ _ _ _ h

end Sys2Proof.Machine
end

