-- ==== Sys2Proof/Laws/Ops.lean ====
section
/-! SUPPORT. Laws/Ops.lean: what a step under way can do to memory and the clock, and what a token, a trap and the release
of a context do to the other units. -/
namespace Sys2Proof.Machine
open Sys2Proof

/-! ### A step under way -/

@[simp] theorem M.on_s (m : M) (f : State → State) : (m.on f).s = f m.s := rfl
@[simp] theorem M.on_ops (m : M) (f : State → State) : (m.on f).ops = m.ops := rfl
@[simp] theorem M.write_ops (m : M) (l : List MemOp) : (m.write l).ops = m.ops ++ l := rfl
@[simp] theorem M.write_mem (m : M) (l : List MemOp) : (m.write l).s.mem = m.s.mem.applyAll l := rfl
@[simp] theorem M.write_vtime (m : M) (l : List MemOp) : (m.write l).s.vtime = m.s.vtime := rfl

/-- All that one step does: the state `f` leaves, its writes applied to the memory of the start, the clock of the start. -/
theorem run_eq (s : State) (f : M → M) :
    run s f = .next { (f { s := s }).s with mem := s.mem.applyAll (f { s := s }).ops, vtime := s.vtime } := rfl

/-- A step always answers a next state with the clock of its start and a canonical memory. -/
theorem run_next (s t : State) (f : M → M) (h : run s f = .next t) :
    t.vtime = s.vtime ∧ (s.mem.wf = true → t.mem.wf = true) := by
  rw [run_eq] at h
  injection h with h
  subst h
  exact ⟨rfl, fun hw => Mem.applyAll_wf _ _ hw⟩

/-- A step that leaves memory and clock alone ends where `f` ends. -/
theorem run_same (s : State) (f : M → M) (ho : (f { s := s }).ops = []) (hm : (f { s := s }).s.mem = s.mem)
    (hv : (f { s := s }).s.vtime = s.vtime) : run s f = .next (f { s := s }).s := by
  rw [run_eq, ho]
  generalize (f { s := s }).s = t at hm hv
  obtain ⟨⟩ := t
  cases hm
  cases hv
  rfl

/-! ### Done tokens -/

@[simp] theorem State.tokAt_setTok_self (s : State) (n : Nat) (t : TokSt) : (s.setTok n t).tokAt n = t :=
  Tab.get_set_self _ _ _ _
theorem State.tokAt_setTok_ne (s : State) (n k : Nat) (t : TokSt) (h : k ≠ n) : (s.setTok n t).tokAt k = s.tokAt k :=
  Tab.get_set_ne _ _ _ _ _ h
@[simp] theorem State.setTok_mem (s : State) (n : Nat) (t : TokSt) : (s.setTok n t).mem = s.mem := rfl
@[simp] theorem State.setTok_vtime (s : State) (n : Nat) (t : TokSt) : (s.setTok n t).vtime = s.vtime := rfl
@[simp] theorem State.emit_mem (s : State) (n : Nat) : (s.emit n).mem = s.mem := by unfold State.emit; split <;> rfl
@[simp] theorem State.emit_vtime (s : State) (n : Nat) : (s.emit n).vtime = s.vtime := by unfold State.emit; split <;> rfl
@[simp] theorem State.emitErr_mem (s : State) (n : Nat) (c : Cause) (a : Word) : (s.emitErr n c a).mem = s.mem := by
  unfold State.emitErr; split <;> rfl

/-! ### Stopping and releasing a context -/

/-- What a stop records, whatever the context held (Table 18-2). -/
theorem Ctx.trapRegs_spec (c : Ctx) (t : Trap) :
    (c.trapRegs t).stopped = true ∧ (c.trapRegs t).tcause = t.tcause ∧ (c.trapRegs t).tblk = t.blk ∧
    (c.trapRegs t).tidx = t.idx.setWidth 64 ∧ (c.trapRegs t).tval = t.tval ∧ (c.trapRegs t).slots = c.slots := by
  exact ⟨rfl, rfl, rfl, rfl, rfl, rfl⟩

theorem State.leaveBarrier_mem (s : State) (k x n : Nat) : (s.leaveBarrier k x n).mem = s.mem := rfl
theorem State.leaveBarrier_ctxAt (s : State) (k x n i j : Nat) : (s.leaveBarrier k x n).ctxAt i j = s.ctxAt i j := rfl

theorem foldl_leave (l : List Block) (s : State) (k x : Nat) :
    (l.foldl (fun s b => match b.barrier with
      | some n => s.leaveBarrier k x n
      | none => s) s).mem = s.mem ∧
    (l.foldl (fun s b => match b.barrier with
      | some n => s.leaveBarrier k x n
      | none => s) s).ctxs = s.ctxs ∧
    (l.foldl (fun s b => match b.barrier with
      | some n => s.leaveBarrier k x n
      | none => s) s).vtime = s.vtime := by
  induction l generalizing s with
  | nil => exact ⟨rfl, rfl, rfl⟩
  | cons b t ih =>
    simp only [List.foldl_cons]
    split
    · exact ih (s.leaveBarrier k x _)
    · exact ih s

theorem State.withdrawn_keeps (s : State) (g : Acc → Bool) :
    (s.withdrawn g).mem = s.mem ∧ (s.withdrawn g).ctxs = s.ctxs ∧ (s.withdrawn g).vtime = s.vtime := ⟨rfl, rfl, rfl⟩

/-- A context emptied of its blocks in a state with the memory, clock and contexts of another. -/
theorem setCtx_emptied (s u : State) (k x : Nat) (c : Ctx) (r : List Resp) (hm : u.mem = s.mem) (hc : u.ctxs = s.ctxs)
    (hv : u.vtime = s.vtime) (hf : c.flight = []) :
    ({ u.setCtx k x c with resps := r } : State).mem = s.mem ∧ ({ u.setCtx k x c with resps := r } : State).vtime = s.vtime ∧
    (({ u.setCtx k x c with resps := r } : State).ctxAt k x).flight = [] ∧
    ∀ i j, 4 * i + j ≠ 4 * k + x → ({ u.setCtx k x c with resps := r } : State).ctxAt i j = s.ctxAt i j := by
  refine ⟨hm, hv, ?_, ?_⟩
  · simp [State.setCtx, State.ctxAt, Tab.get_set_self, hf]
  · intro i j hij
    simp only [State.setCtx, State.ctxAt]
    rw [Tab.get_set_ne _ _ _ _ _ hij, hc]

/-- Discarding the blocks of a context: memory, clock and every other context stay; its flight is empty. -/
theorem State.discard_spec (s : State) (k x : Nat) :
    (s.discard k x).mem = s.mem ∧ (s.discard k x).vtime = s.vtime ∧ ((s.discard k x).ctxAt k x).flight = [] ∧
    ∀ i j, 4 * i + j ≠ 4 * k + x → (s.discard k x).ctxAt i j = s.ctxAt i j := by
  obtain ⟨h1, h2, h3⟩ := foldl_leave (s.ctxAt k x).flight s k x
  exact setCtx_emptied s _ k x _ _ h1 h2 h3 rfl

/-- What no yielding context waits for any more changes nothing but what yielding contexts wait for. -/
theorem State.unyield_spec (s : State) (k x : Nat) :
    (s.unyield k x).mem = s.mem ∧ (s.unyield k x).vtime = s.vtime ∧
    ∀ i j, ∃ y, (s.unyield k x).ctxAt i j = { s.ctxAt i j with yieldTo := y } := by
  unfold State.unyield
  generalize List.range 4 = l
  induction l generalizing s with
  | nil => exact ⟨rfl, rfl, fun i j => ⟨_, rfl⟩⟩
  | cons a t ih =>
    simp only [List.foldl_cons]
    split
    · obtain ⟨h1, h2, h3⟩ := ih (s.onCtx k a fun c => { c with yieldTo := c.yieldTo.filter fun z => z != x })
      refine ⟨h1, h2, fun i j => ?_⟩
      obtain ⟨y, hy⟩ := h3 i j
      by_cases hij : 4 * i + j = 4 * k + a
      · refine ⟨y, hy.trans ?_⟩
        simp only [State.onCtx, State.setCtx, State.ctxAt, hij, Tab.get_set_self]
      · exact ⟨y, hy.trans (by rw [State.onCtx, State.ctxAt_setCtx_ne _ _ _ _ _ _ hij])⟩
    · exact ih s

/-- TAKING AN EXCEPTION, all of it that the other units see: memory and clock stay, the context stops with its trap
registers written and nothing in flight, and another context changes at most in what it has yielded to (R253). -/
theorem State.takeTrap_spec (s : State) (k x : Nat) (t : Trap) :
    (s.takeTrap k x t).mem = s.mem ∧ (s.takeTrap k x t).vtime = s.vtime ∧
    ((s.takeTrap k x t).ctxAt k x).stopped = true ∧ ((s.takeTrap k x t).ctxAt k x).tcause = t.tcause ∧
    ((s.takeTrap k x t).ctxAt k x).flight = [] ∧
    ∀ i j, 4 * i + j ≠ 4 * k + x → ∃ y, (s.takeTrap k x t).ctxAt i j = { s.ctxAt i j with yieldTo := y } := by
  obtain ⟨h1, h2, h3, h4⟩ := s.discard_spec k x
  obtain ⟨g1, g2, g3⟩ := (s.discard k x).unyield_spec k x
  unfold State.takeTrap
  rw [h1] at g1
  rw [h2] at g2
  generalize (s.discard k x).unyield k x = u at g1 g2 g3
  obtain ⟨y, hy⟩ := g3 k x
  refine ⟨g1, g2, ?_, ?_, ?_, ?_⟩
  · rw [State.onCtx, State.ctxAt_setCtx_self]; rfl
  · rw [State.onCtx, State.ctxAt_setCtx_self]; rfl
  · rw [State.onCtx, State.ctxAt_setCtx_self, hy]; exact h3
  · intro i j hij
    obtain ⟨z, hz⟩ := g3 i j
    exact ⟨z, by rw [State.onCtx, State.ctxAt_setCtx_ne _ _ _ _ _ _ hij, hz, h4 i j hij]⟩

end Sys2Proof.Machine
end

