-- ==== Sys2Proof/Laws/Operands.lean ====
section
/-! SUPPORT. Laws/Operands.lean: all that a firing can do.  `fireM_go` and `fire_go` give the next state when the
instruction may fire; `fireM_cases` lists every outcome; `fire_local` bounds what an instruction of a block can reach. -/
namespace Sys2Proof.Machine
open Sys2Proof

theorem State.put_eq (s : State) (e : Env) (r : Eff) :
    s.put e r = s.setCtx e.cell e.x (match (s.ctxAt e.cell e.x).block e.pos with
      | some b => (s.ctxAt e.cell e.x).setBlock e.pos (b.finish e.idx e.f.hdr (e.due (decodeRaw e.n.word).toOption) r)
      | none => s.ctxAt e.cell e.x) := by
  unfold State.put State.onCtx
  congr 1

@[simp] theorem State.put_mem (s : State) (e : Env) (r : Eff) : (s.put e r).mem = s.mem := rfl
@[simp] theorem State.put_vtime (s : State) (e : Env) (r : Eff) : (s.put e r).vtime = s.vtime := rfl
@[simp] theorem State.put_cells (s : State) (e : Env) (r : Eff) : (s.put e r).cells = s.cells := rfl
@[simp] theorem State.put_net (s : State) (e : Env) (r : Eff) : (s.put e r).net = s.net := rfl

/-- The environment names the instruction under way and the state it was taken from. -/
theorem State.envOf_cur (s : State) (i : Instr) (e : Env) (h : s.envOf i = some e) :
    e.s = s ∧ e.cell = s.cur.cell ∧ e.x = s.cur.x ∧ e.pos = s.cur.pos ∧ e.idx = s.cur.idx ∧
    infoOf i = some e.f ∧ (s.ctxAt e.cell e.x).block e.pos = some e.blk ∧ e.blk.insts[e.idx]? = some e.n ∧
    e.n.st = .waiting ∧ e.blk.entryFault = none ∧ e.c = s.ctxAt e.cell e.x := by
  simp only [State.envOf] at h
  split at h
  · next f b hf hb =>
    split at h
    · next n hn =>
      split at h
      · next hc => injection h with h; subst h; exact ⟨rfl, rfl, rfl, rfl, rfl, hf, hb, hn, hc.1, hc.2, rfl⟩
      · cases h
    · cases h
  · cases h

/-- When the instruction may fire, its effect runs on the state with the issue counted, and its outcome is put. -/
theorem fireM_go (i : Instr) (ok : Env → Bool) (pre : Env → State → State) (g : Env → M → M × Eff) (m : M) (e : Env) (h : CanFire m.s i e) (hok : ok e = true) :
    fireM i ok pre g m =
      ((g e (m.on fun s => pre e (s.onCell e.cell fun k => k.issued e.x e.num))).1.on fun s =>
        s.put e (g e (m.on fun s => pre e (s.onCell e.cell fun k => k.issued e.x e.num))).2) := by
  simp [fireM, h.env, h.go, h.slot, h.ports, hok]

/-- What an instruction with an effect inside its block answers when it may fire. -/
theorem fire_go (i : Instr) (g : Env → Eff) (s : State) (e : Env) (h : CanFire s i e) :
    fire i g s = .next (s.fired e (g e)) := by
  unfold fire
  rw [run_same] <;> rw [fireM_go i _ _ _ { s := s } e h rfl] <;> rfl

/-- What an instruction whose effect reaches beyond its block answers when it may fire: `g` on the state with the issue
counted, then its outcome. -/
theorem fireS_go (i : Instr) (g : Env → M → M × Eff) (s : State) (e : Env) (h : CanFire s i e) :
    fireS i g s =
      run s fun _ => (g e { s := s.onCell e.cell fun k => k.issued e.x e.num }).1.on fun t =>
        t.put e (g e { s := s.onCell e.cell fun k => k.issued e.x e.num }).2 := by
  unfold fireS
  rw [run_eq, run_eq, fireM_go i _ _ _ { s := s } e h rfl]
  rfl

theorem fireH_go (i : Instr) (ok : Env → Bool) (g : Env → M → M × Eff) (s : State) (e : Env) (h : CanFire s i e)
    (hok : ok e = true) :
    fireH i ok g s =
      run s fun _ => (g e { s := s.onCell e.cell fun k => k.issued e.x e.num }).1.on fun t =>
        t.put e (g e { s := s.onCell e.cell fun k => k.issued e.x e.num }).2 := by
  unfold fireH
  rw [run_eq, run_eq, fireM_go i _ _ _ { s := s } e h hok]
  rfl

/-- Everything a firing can do: nothing, a null, an exception passed on, a schedule fault, or its effect. -/
theorem fireM_cases (i : Instr) (ok : Env → Bool) (pre : Env → State → State) (g : Env → M → M × Eff) (m : M) :
    fireM i ok pre g m = m ∨
    ∃ e, m.s.envOf i = some e ∧
      (fireM i ok pre g m = (m.on fun s => s.put e effNull) ∨
       fireM i ok pre g m = (m.on fun s => s.put e effExc) ∨
       (∃ v n, fireM i ok pre g m =
          { m with s := ({ pre e (m.s.onCell e.cell fun k => k.issued e.x e.num) with freeCtr := n } : State).put e (effFault cSchedule v) }) ∨
       (CanFire m.s i e ∧ ok e = true)) := by
  by_cases he : m.s.envOf i = none
  · left; simp [fireM, he]
  · obtain ⟨e, he⟩ := Option.ne_none_iff_exists'.1 he
    cases hr : readiness e.f (e.n.by e.now) with
    | hold => left; simp [fireM, he, hr]
    | null => right; exact ⟨e, he, .inl (by simp [fireM, he, hr])⟩
    | exc => right; exact ⟨e, he, .inr (.inl (by simp [fireM, he, hr]))⟩
    | go =>
      by_cases hc : m.s.canIssue e.cell e.x = false ∨ ok e = false
      · left; simp only [fireM, he, hr, hc, if_true]
      · right
        refine ⟨e, he, .inr (.inr ?_)⟩
        have hc1 : m.s.canIssue e.cell e.x = true := by simp at hc; exact hc.1
        have hc2 : ok e = true := by simp at hc; exact hc.2
        cases hb : e.badPort with
        | none => exact .inr ⟨⟨he, hr, hc1, hb⟩, hc2⟩
        | some q =>
          left
          cases hs : e.slotFor q with
          | some v => exact ⟨v, (pre e (m.s.onCell e.cell fun k => k.issued e.x e.num)).freeCtr, by simp only [fireM, he, hr, hc, if_false, hb, hs]; rfl⟩
          | none =>
            exact ⟨_, (pre e (m.s.onCell e.cell fun k => k.issued e.x e.num)).freeCtr + 1, by simp only [fireM, he, hr, hc, if_false, hb, hs]; rfl⟩

/-! ### What lies outside the block under way -/

theorem Cell.issued_eq (k : Cell) (x num : Nat) : ∃ ic n l a, k.issued x num = { k with issCtx := ic, issN := n, lastIss := l, issAt := a } :=
  ⟨_, _, _, _, rfl⟩

/-- Writing an outcome into the block under way, with an issue counted or not, reaches nothing else. -/
theorem local_put (s : State) (i : Instr) (e : Env) (he : s.envOf i = some e) (r : Eff) (n : Nat) (b : Bool) :
    LocalOnly s (({ (if b then s.onCell e.cell fun k => k.issued e.x e.num else s) with freeCtr := n } : State).put e r) := by
  obtain ⟨-, hc, hx, hp, -⟩ := s.envOf_cur i e he
  refine ⟨?_, ?_, ?_⟩
  · cases b <;> rfl
  · intro k
    cases b
    · exact ⟨_, _, _, _, rfl⟩
    · by_cases hk : k = e.cell
      · subst hk
        exact ⟨some e.x, (s.cellAt e.cell).issN + 1, e.x, e.num + 1, by
          show ((s.setCell e.cell _).cellAt e.cell) = _
          rw [State.cellAt_setCell_self]; rfl⟩
      · exact ⟨_, _, _, _, by
          show ((s.setCell e.cell _).cellAt k) = { s.cellAt k with }
          rw [State.cellAt_setCell_ne _ _ _ _ hk]⟩
  · intro k x
    have hs : ∀ k x, ({ (if b then s.onCell e.cell fun k => k.issued e.x e.num else s) with freeCtr := n } : State).ctxAt k x
        = s.ctxAt k x := by intro k x; cases b <;> rfl
    rw [State.put_eq]
    by_cases hk : 4 * k + x = 4 * e.cell + e.x
    · have h1 : ∀ c : Ctx, ((({ (if b then s.onCell e.cell fun k => k.issued e.x e.num else s) with freeCtr := n } : State).setCtx
          e.cell e.x c).ctxAt k x) = c := by
        intro c; simp only [State.ctxAt, State.setCtx, hk]; exact Tab.get_set_self _ _ _ _
      have h2 : s.ctxAt k x = s.ctxAt e.cell e.x := by simp only [State.ctxAt, hk]
      rw [h1, hs, h2]
      split
      · refine ⟨_, rfl, ?_⟩
        intro j hj
        have : j ≠ e.pos := fun h => hj ⟨by rw [hk, hc, hx], by rw [h, hp]⟩
        simp [Ne.symm this]
      · exact ⟨_, rfl, fun _ _ => rfl⟩
    · rw [State.ctxAt_setCtx_ne _ _ _ _ _ _ hk, hs]
      exact ⟨_, rfl, fun _ _ => rfl⟩

/-- Nothing happened. -/
theorem local_refl (s : State) : LocalOnly s s := ⟨rfl, fun _ => ⟨_, _, _, _, rfl⟩, fun _ _ => ⟨_, rfl, fun _ _ => rfl⟩⟩

/-- An instruction whose effect lies inside its block leaves everything else as it was, whatever it does. -/
theorem fire_local (i : Instr) (g : Env → Eff) (s t : State) (h : fire i g s = .next t) : LocalOnly s t := by
  have key : ∀ m' : M, fireM i (fun _ => true) (fun _ s => s) (fun e m => (m, g e)) { s := s } = m' → m'.ops = [] → m'.s.mem = s.mem →
      m'.s.vtime = s.vtime → LocalOnly s m'.s → LocalOnly s t := by
    intro m' hm ho h1 h2 hl
    unfold fire at h
    rw [run_same _ _ (by rw [hm]; exact ho) (by rw [hm]; exact h1) (by rw [hm]; exact h2), hm] at h
    injection h with h
    exact h ▸ hl
  rcases fireM_cases i (fun _ => true) (fun _ s => s) (fun e m => (m, g e)) { s := s } with hm | ⟨e, he, hm | hm | ⟨v, n, hm⟩ | ⟨hc, -⟩⟩
  · exact key _ hm rfl rfl rfl (local_refl s)
  · exact key _ hm rfl rfl rfl (local_put s i e he effNull s.freeCtr false)
  · exact key _ hm rfl rfl rfl (local_put s i e he effExc s.freeCtr false)
  · exact key _ hm rfl rfl rfl (local_put s i e he _ n true)
  · exact key _ (fireM_go i _ _ _ { s := s } e hc rfl) rfl rfl rfl (local_put s i e he _ s.freeCtr true)

end Sys2Proof.Machine
end

