-- ==== Sys2Proof/Laws/PerInstr.lean ====
section
/-! SUPPORT. Laws/PerInstr.lean: statements made per instruction: no operation is both a block instruction and a vault entry. -/
namespace Sys2Proof

/-- An operation is of one kind only (R110, R223). -/
def Laws.Kind.Statement (i : Instr) : Prop := ¬(i.isBlock = true ∧ i.isVault = true)

theorem Laws.Kind.br (p : Pr) (off : BitVec 26) : Laws.Kind.Statement (.br p off) := fun h => Bool.noConfusion h.2
theorem Laws.Kind.jmp (p : Pr) : Laws.Kind.Statement (.jmp p) := fun h => Bool.noConfusion h.2
theorem Laws.Kind.call (h : Hdr) (off : BitVec 26) : Laws.Kind.Statement (.call h off) := fun h => Bool.noConfusion h.2
theorem Laws.Kind.callr (h : Hdr) : Laws.Kind.Statement (.callr h) := fun h => Bool.noConfusion h.2
theorem Laws.Kind.ret (p : Pr) : Laws.Kind.Statement (.ret p) := fun h => Bool.noConfusion h.2
theorem Laws.Kind.done (p : Pr) : Laws.Kind.Statement (.done p) := fun h => Bool.noConfusion h.2
theorem Laws.Kind.yield (p : Pr) : Laws.Kind.Statement (.yield p) := fun h => Bool.noConfusion h.2
theorem Laws.Kind.trap (p : Pr) : Laws.Kind.Statement (.trap p) := fun h => Bool.noConfusion h.2
theorem Laws.Kind.null (h : Hdr) : Laws.Kind.Statement (.null h) := fun h => Bool.noConfusion h.2
theorem Laws.Kind.mov (h : Hdr) (w : Width) : Laws.Kind.Statement (.mov h w) := fun h => Bool.noConfusion h.2
theorem Laws.Kind.movi (h : Hdr) (w : Width) (zx : Bool) (imm : BitVec 26) : Laws.Kind.Statement (.movi h w zx imm) := fun h => Bool.noConfusion h.2
theorem Laws.Kind.movhi (h : Hdr) (f : HiPart) : Laws.Kind.Statement (.movhi h f) := fun h => Bool.noConfusion h.2
theorem Laws.Kind.sel (h : Hdr) (w : Width) : Laws.Kind.Statement (.sel h w) := fun h => Bool.noConfusion h.2
theorem Laws.Kind.baddr (h : Hdr) : Laws.Kind.Statement (.baddr h) := fun h => Bool.noConfusion h.2
theorem Laws.Kind.teq (h : Hdr) (w : Width) : Laws.Kind.Statement (.teq h w) := fun h => Bool.noConfusion h.2
theorem Laws.Kind.tne (h : Hdr) (w : Width) : Laws.Kind.Statement (.tne h w) := fun h => Bool.noConfusion h.2
theorem Laws.Kind.tlt (h : Hdr) (w : Width) : Laws.Kind.Statement (.tlt h w) := fun h => Bool.noConfusion h.2
theorem Laws.Kind.tle (h : Hdr) (w : Width) : Laws.Kind.Statement (.tle h w) := fun h => Bool.noConfusion h.2
theorem Laws.Kind.tltu (h : Hdr) (w : Width) : Laws.Kind.Statement (.tltu h w) := fun h => Bool.noConfusion h.2
theorem Laws.Kind.tleu (h : Hdr) (w : Width) : Laws.Kind.Statement (.tleu h w) := fun h => Bool.noConfusion h.2
theorem Laws.Kind.teqi (h : Hdr) (w : Width) (imm : BitVec 26) : Laws.Kind.Statement (.teqi h w imm) := fun h => Bool.noConfusion h.2
theorem Laws.Kind.tnei (h : Hdr) (w : Width) (imm : BitVec 26) : Laws.Kind.Statement (.tnei h w imm) := fun h => Bool.noConfusion h.2
theorem Laws.Kind.tlti (h : Hdr) (w : Width) (imm : BitVec 26) : Laws.Kind.Statement (.tlti h w imm) := fun h => Bool.noConfusion h.2
theorem Laws.Kind.tlei (h : Hdr) (w : Width) (imm : BitVec 26) : Laws.Kind.Statement (.tlei h w imm) := fun h => Bool.noConfusion h.2
theorem Laws.Kind.tltui (h : Hdr) (w : Width) (imm : BitVec 26) : Laws.Kind.Statement (.tltui h w imm) := fun h => Bool.noConfusion h.2
theorem Laws.Kind.tleui (h : Hdr) (w : Width) (imm : BitVec 26) : Laws.Kind.Statement (.tleui h w imm) := fun h => Bool.noConfusion h.2
theorem Laws.Kind.tbit (h : Hdr) (w : Width) (n : BitVec 6) : Laws.Kind.Statement (.tbit h w n) := fun h => Bool.noConfusion h.2
theorem Laws.Kind.tnz (h : Hdr) (w : Width) (mask : Option (BitVec 26)) : Laws.Kind.Statement (.tnz h w mask) := fun h => Bool.noConfusion h.2
theorem Laws.Kind.add (h : Hdr) (w : Width) : Laws.Kind.Statement (.add h w) := fun h => Bool.noConfusion h.2
theorem Laws.Kind.sub (h : Hdr) (w : Width) : Laws.Kind.Statement (.sub h w) := fun h => Bool.noConfusion h.2
theorem Laws.Kind.addi (h : Hdr) (w : Width) (imm : BitVec 26) : Laws.Kind.Statement (.addi h w imm) := fun h => Bool.noConfusion h.2
theorem Laws.Kind.adds (h : Hdr) (w : Width) : Laws.Kind.Statement (.adds h w) := fun h => Bool.noConfusion h.2
theorem Laws.Kind.addsu (h : Hdr) (w : Width) : Laws.Kind.Statement (.addsu h w) := fun h => Bool.noConfusion h.2
theorem Laws.Kind.subs (h : Hdr) (w : Width) : Laws.Kind.Statement (.subs h w) := fun h => Bool.noConfusion h.2
theorem Laws.Kind.subsu (h : Hdr) (w : Width) : Laws.Kind.Statement (.subsu h w) := fun h => Bool.noConfusion h.2
theorem Laws.Kind.neg (h : Hdr) (w : Width) (sat : Bool) : Laws.Kind.Statement (.neg h w sat) := fun h => Bool.noConfusion h.2
theorem Laws.Kind.abs (h : Hdr) (w : Width) (sat : Bool) : Laws.Kind.Statement (.abs h w sat) := fun h => Bool.noConfusion h.2
theorem Laws.Kind.min (h : Hdr) (w : Width) : Laws.Kind.Statement (.min h w) := fun h => Bool.noConfusion h.2
theorem Laws.Kind.max (h : Hdr) (w : Width) : Laws.Kind.Statement (.max h w) := fun h => Bool.noConfusion h.2
theorem Laws.Kind.minu (h : Hdr) (w : Width) : Laws.Kind.Statement (.minu h w) := fun h => Bool.noConfusion h.2
theorem Laws.Kind.maxu (h : Hdr) (w : Width) : Laws.Kind.Statement (.maxu h w) := fun h => Bool.noConfusion h.2
theorem Laws.Kind.mul (h : Hdr) (w : Width) : Laws.Kind.Statement (.mul h w) := fun h => Bool.noConfusion h.2
theorem Laws.Kind.mulh (h : Hdr) (w : Width) : Laws.Kind.Statement (.mulh h w) := fun h => Bool.noConfusion h.2
theorem Laws.Kind.mulhu (h : Hdr) (w : Width) : Laws.Kind.Statement (.mulhu h w) := fun h => Bool.noConfusion h.2
theorem Laws.Kind.mulhsu (h : Hdr) (w : Width) : Laws.Kind.Statement (.mulhsu h w) := fun h => Bool.noConfusion h.2
theorem Laws.Kind.madd (h : Hdr) (w : Width) : Laws.Kind.Statement (.madd h w) := fun h => Bool.noConfusion h.2
theorem Laws.Kind.div (h : Hdr) (w : Width) : Laws.Kind.Statement (.div h w) := fun h => Bool.noConfusion h.2
theorem Laws.Kind.divu (h : Hdr) (w : Width) : Laws.Kind.Statement (.divu h w) := fun h => Bool.noConfusion h.2
theorem Laws.Kind.rem (h : Hdr) (w : Width) : Laws.Kind.Statement (.rem h w) := fun h => Bool.noConfusion h.2
theorem Laws.Kind.remu (h : Hdr) (w : Width) : Laws.Kind.Statement (.remu h w) := fun h => Bool.noConfusion h.2
theorem Laws.Kind.and (h : Hdr) (w : Width) : Laws.Kind.Statement (.and h w) := fun h => Bool.noConfusion h.2
theorem Laws.Kind.or (h : Hdr) (w : Width) : Laws.Kind.Statement (.or h w) := fun h => Bool.noConfusion h.2
theorem Laws.Kind.xor (h : Hdr) (w : Width) : Laws.Kind.Statement (.xor h w) := fun h => Bool.noConfusion h.2
theorem Laws.Kind.andn (h : Hdr) (w : Width) : Laws.Kind.Statement (.andn h w) := fun h => Bool.noConfusion h.2
theorem Laws.Kind.andi (h : Hdr) (w : Width) (zx : Bool) (imm : BitVec 26) : Laws.Kind.Statement (.andi h w zx imm) := fun h => Bool.noConfusion h.2
theorem Laws.Kind.ori (h : Hdr) (w : Width) (zx : Bool) (imm : BitVec 26) : Laws.Kind.Statement (.ori h w zx imm) := fun h => Bool.noConfusion h.2
theorem Laws.Kind.xori (h : Hdr) (w : Width) (zx : Bool) (imm : BitVec 26) : Laws.Kind.Statement (.xori h w zx imm) := fun h => Bool.noConfusion h.2
theorem Laws.Kind.shl (h : Hdr) (w : Width) (amt : Option (BitVec 6)) : Laws.Kind.Statement (.shl h w amt) := fun h => Bool.noConfusion h.2
theorem Laws.Kind.shr (h : Hdr) (w : Width) (amt : Option (BitVec 6)) : Laws.Kind.Statement (.shr h w amt) := fun h => Bool.noConfusion h.2
theorem Laws.Kind.sar (h : Hdr) (w : Width) (amt : Option (BitVec 6)) : Laws.Kind.Statement (.sar h w amt) := fun h => Bool.noConfusion h.2
theorem Laws.Kind.rol (h : Hdr) (w : Width) (amt : Option (BitVec 6)) : Laws.Kind.Statement (.rol h w amt) := fun h => Bool.noConfusion h.2
theorem Laws.Kind.ror (h : Hdr) (w : Width) (amt : Option (BitVec 6)) : Laws.Kind.Statement (.ror h w amt) := fun h => Bool.noConfusion h.2
theorem Laws.Kind.clz (h : Hdr) (w : Width) : Laws.Kind.Statement (.clz h w) := fun h => Bool.noConfusion h.2
theorem Laws.Kind.ctz (h : Hdr) (w : Width) : Laws.Kind.Statement (.ctz h w) := fun h => Bool.noConfusion h.2
theorem Laws.Kind.popc (h : Hdr) (w : Width) : Laws.Kind.Statement (.popc h w) := fun h => Bool.noConfusion h.2
theorem Laws.Kind.bfx (h : Hdr) (w : Width) (pos : BitVec 6) (len1 : BitVec 6) : Laws.Kind.Statement (.bfx h w pos len1) := fun h => Bool.noConfusion h.2
theorem Laws.Kind.bfxu (h : Hdr) (w : Width) (pos : BitVec 6) (len1 : BitVec 6) : Laws.Kind.Statement (.bfxu h w pos len1) := fun h => Bool.noConfusion h.2
theorem Laws.Kind.bfi (h : Hdr) (w : Width) (pos : BitVec 6) (len1 : BitVec 6) : Laws.Kind.Statement (.bfi h w pos len1) := fun h => Bool.noConfusion h.2
theorem Laws.Kind.fadd (h : Hdr) (f : FFmt) (m : Rm) : Laws.Kind.Statement (.fadd h f m) := fun h => Bool.noConfusion h.2
theorem Laws.Kind.fsub (h : Hdr) (f : FFmt) (m : Rm) : Laws.Kind.Statement (.fsub h f m) := fun h => Bool.noConfusion h.2
theorem Laws.Kind.fmul (h : Hdr) (f : FFmt) (m : Rm) : Laws.Kind.Statement (.fmul h f m) := fun h => Bool.noConfusion h.2
theorem Laws.Kind.fdiv (h : Hdr) (f : FFmt) (m : Rm) : Laws.Kind.Statement (.fdiv h f m) := fun h => Bool.noConfusion h.2
theorem Laws.Kind.fsqrt (h : Hdr) (f : FFmt) (m : Rm) : Laws.Kind.Statement (.fsqrt h f m) := fun h => Bool.noConfusion h.2
theorem Laws.Kind.fma (h : Hdr) (f : FFmt) (m : Rm) : Laws.Kind.Statement (.fma h f m) := fun h => Bool.noConfusion h.2
theorem Laws.Kind.fmin (h : Hdr) (f : FFmt) (prop : Bool) : Laws.Kind.Statement (.fmin h f prop) := fun h => Bool.noConfusion h.2
theorem Laws.Kind.fmax (h : Hdr) (f : FFmt) (prop : Bool) : Laws.Kind.Statement (.fmax h f prop) := fun h => Bool.noConfusion h.2
theorem Laws.Kind.fsgn (h : Hdr) (f : FFmt) (k : Sgn) : Laws.Kind.Statement (.fsgn h f k) := fun h => Bool.noConfusion h.2
theorem Laws.Kind.fcmp (h : Hdr) (f : FFmt) (k : FCond) : Laws.Kind.Statement (.fcmp h f k) := fun h => Bool.noConfusion h.2
theorem Laws.Kind.fclass (h : Hdr) (f : FFmt) : Laws.Kind.Statement (.fclass h f) := fun h => Bool.noConfusion h.2
theorem Laws.Kind.fcvt (h : Hdr) : Laws.Kind.Statement (.fcvt h) := fun h => Bool.noConfusion h.2
theorem Laws.Kind.ftoi (h : Hdr) : Laws.Kind.Statement (.ftoi h) := fun h => Bool.noConfusion h.2
theorem Laws.Kind.itof (h : Hdr) : Laws.Kind.Statement (.itof h) := fun h => Bool.noConfusion h.2
theorem Laws.Kind.ld (h : Hdr) (w : Width) (s : Bool) (at_ : Bool) (x2 : Bool) (l : LayA) : Laws.Kind.Statement (.ld h w s at_ x2 l) := fun h => Bool.noConfusion h.2
theorem Laws.Kind.st (h : Hdr) (w : Width) (at_ : Bool) (x2 : Bool) (l : LayA) : Laws.Kind.Statement (.st h w at_ x2 l) := fun h => Bool.noConfusion h.2
theorem Laws.Kind.ldf (h : Hdr) (w : Width) (s : Bool) (l : LayA) : Laws.Kind.Statement (.ldf h w s l) := fun h => Bool.noConfusion h.2
theorem Laws.Kind.ldfe (h : Hdr) (w : Width) (s : Bool) (l : LayA) : Laws.Kind.Statement (.ldfe h w s l) := fun h => Bool.noConfusion h.2
theorem Laws.Kind.stf (h : Hdr) (w : Width) (l : LayA) : Laws.Kind.Statement (.stf h w l) := fun h => Bool.noConfusion h.2
theorem Laws.Kind.aadd (h : Hdr) (w : Width) (l : LayA) : Laws.Kind.Statement (.aadd h w l) := fun h => Bool.noConfusion h.2
theorem Laws.Kind.aand (h : Hdr) (w : Width) (l : LayA) : Laws.Kind.Statement (.aand h w l) := fun h => Bool.noConfusion h.2
theorem Laws.Kind.aor (h : Hdr) (w : Width) (l : LayA) : Laws.Kind.Statement (.aor h w l) := fun h => Bool.noConfusion h.2
theorem Laws.Kind.axor (h : Hdr) (w : Width) (l : LayA) : Laws.Kind.Statement (.axor h w l) := fun h => Bool.noConfusion h.2
theorem Laws.Kind.amin (h : Hdr) (w : Width) (l : LayA) : Laws.Kind.Statement (.amin h w l) := fun h => Bool.noConfusion h.2
theorem Laws.Kind.amax (h : Hdr) (w : Width) (l : LayA) : Laws.Kind.Statement (.amax h w l) := fun h => Bool.noConfusion h.2
theorem Laws.Kind.aminu (h : Hdr) (w : Width) (l : LayA) : Laws.Kind.Statement (.aminu h w l) := fun h => Bool.noConfusion h.2
theorem Laws.Kind.amaxu (h : Hdr) (w : Width) (l : LayA) : Laws.Kind.Statement (.amaxu h w l) := fun h => Bool.noConfusion h.2
theorem Laws.Kind.aswap (h : Hdr) (w : Width) (l : LayA) : Laws.Kind.Statement (.aswap h w l) := fun h => Bool.noConfusion h.2
theorem Laws.Kind.acas (h : Hdr) (w : Width) (l : LayA) : Laws.Kind.Statement (.acas h w l) := fun h => Bool.noConfusion h.2
theorem Laws.Kind.aadds (h : Hdr) (w : Width) (u : Bool) (l : LayA) : Laws.Kind.Statement (.aadds h w u l) := fun h => Bool.noConfusion h.2
theorem Laws.Kind.afadd (h : Hdr) (f : FFmt) (m : Rm) (l : LayA) : Laws.Kind.Statement (.afadd h f m l) := fun h => Bool.noConfusion h.2
theorem Laws.Kind.afmin (h : Hdr) (f : FFmt) (prop : Bool) (l : LayA) : Laws.Kind.Statement (.afmin h f prop l) := fun h => Bool.noConfusion h.2
theorem Laws.Kind.afmax (h : Hdr) (f : FFmt) (prop : Bool) (l : LayA) : Laws.Kind.Statement (.afmax h f prop l) := fun h => Bool.noConfusion h.2
theorem Laws.Kind.fence (h : Hdr) (seq : BitVec 5) (sc : Scope) : Laws.Kind.Statement (.fence h seq sc) := fun h => Bool.noConfusion h.2
theorem Laws.Kind.cfence (h : Hdr) (seq : BitVec 5) : Laws.Kind.Statement (.cfence h seq) := fun h => Bool.noConfusion h.2
theorem Laws.Kind.sacq (h : Hdr) (l : LayQ) : Laws.Kind.Statement (.sacq h l) := fun h => Bool.noConfusion h.2
theorem Laws.Kind.sacqt (h : Hdr) (l : LayQ) : Laws.Kind.Statement (.sacqt h l) := fun h => Bool.noConfusion h.2
theorem Laws.Kind.srel (h : Hdr) (l : LayQ) : Laws.Kind.Statement (.srel h l) := fun h => Bool.noConfusion h.2
theorem Laws.Kind.syncw (h : Hdr) (l : LayA) : Laws.Kind.Statement (.syncw h l) := fun h => Bool.noConfusion h.2
theorem Laws.Kind.sbar (h : Hdr) (seq : BitVec 5) (tsc : Scope) (ring : BitVec 5) : Laws.Kind.Statement (.sbar h seq tsc ring) := fun h => Bool.noConfusion h.2
theorem Laws.Kind.cbar (h : Hdr) (seq : BitVec 5) (cb : BitVec 3) : Laws.Kind.Statement (.cbar h seq cb) := fun h => Bool.noConfusion h.2
theorem Laws.Kind.send (h : Hdr) (l : LayS) : Laws.Kind.Statement (.send h l) := fun h => Bool.noConfusion h.2
theorem Laws.Kind.wake (h : Hdr) (l : LayS) : Laws.Kind.Statement (.wake h l) := fun h => Bool.noConfusion h.2
theorem Laws.Kind.aaddb (h : Hdr) (w : Width) (l : LayA) : Laws.Kind.Statement (.aaddb h w l) := fun h => Bool.noConfusion h.2
theorem Laws.Kind.vld (h : Hdr) (w : Width) (l : LayL) : Laws.Kind.Statement (.vld h w l) := fun h => Bool.noConfusion h.2
theorem Laws.Kind.vst (h : Hdr) (w : Width) (l : LayL) : Laws.Kind.Statement (.vst h w l) := fun h => Bool.noConfusion h.2
theorem Laws.Kind.vlds (h : Hdr) (w : Width) (l : LayL) : Laws.Kind.Statement (.vlds h w l) := fun h => Bool.noConfusion h.2
theorem Laws.Kind.vsts (h : Hdr) (w : Width) (l : LayL) : Laws.Kind.Statement (.vsts h w l) := fun h => Bool.noConfusion h.2
theorem Laws.Kind.vgath (h : Hdr) (w : Width) (l : LayX) : Laws.Kind.Statement (.vgath h w l) := fun h => Bool.noConfusion h.2
theorem Laws.Kind.vscat (h : Hdr) (w : Width) (l : LayX) : Laws.Kind.Statement (.vscat h w l) := fun h => Bool.noConfusion h.2
theorem Laws.Kind.vcst (h : Hdr) (w : Width) (l : LayL) : Laws.Kind.Statement (.vcst h w l) := fun h => Bool.noConfusion h.2
theorem Laws.Kind.vmov (h : Hdr) (w : Width) (l : LayR) : Laws.Kind.Statement (.vmov h w l) := fun h => Bool.noConfusion h.2
theorem Laws.Kind.vadd (h : Hdr) (o : VOp) (l : LayR) : Laws.Kind.Statement (.vadd h o l) := fun h => Bool.noConfusion h.2
theorem Laws.Kind.vsub (h : Hdr) (o : VOp) (l : LayR) : Laws.Kind.Statement (.vsub h o l) := fun h => Bool.noConfusion h.2
theorem Laws.Kind.vmul (h : Hdr) (o : VOp) (l : LayR) : Laws.Kind.Statement (.vmul h o l) := fun h => Bool.noConfusion h.2
theorem Laws.Kind.vfma (h : Hdr) (o : VOp) (l : LayR) : Laws.Kind.Statement (.vfma h o l) := fun h => Bool.noConfusion h.2
theorem Laws.Kind.vdiv (h : Hdr) (o : VOp) (l : LayR) : Laws.Kind.Statement (.vdiv h o l) := fun h => Bool.noConfusion h.2
theorem Laws.Kind.vsqrt (h : Hdr) (o : VOp) (l : LayR) : Laws.Kind.Statement (.vsqrt h o l) := fun h => Bool.noConfusion h.2
theorem Laws.Kind.vmin (h : Hdr) (o : VOp) (l : LayR) : Laws.Kind.Statement (.vmin h o l) := fun h => Bool.noConfusion h.2
theorem Laws.Kind.vmax (h : Hdr) (o : VOp) (l : LayR) : Laws.Kind.Statement (.vmax h o l) := fun h => Bool.noConfusion h.2
theorem Laws.Kind.vabs (h : Hdr) (o : VOp) (l : LayR) : Laws.Kind.Statement (.vabs h o l) := fun h => Bool.noConfusion h.2
theorem Laws.Kind.vneg (h : Hdr) (o : VOp) (l : LayR) : Laws.Kind.Statement (.vneg h o l) := fun h => Bool.noConfusion h.2
theorem Laws.Kind.vand (h : Hdr) (w : Width) (l : LayR) : Laws.Kind.Statement (.vand h w l) := fun h => Bool.noConfusion h.2
theorem Laws.Kind.vor (h : Hdr) (w : Width) (l : LayR) : Laws.Kind.Statement (.vor h w l) := fun h => Bool.noConfusion h.2
theorem Laws.Kind.vxor (h : Hdr) (w : Width) (l : LayR) : Laws.Kind.Statement (.vxor h w l) := fun h => Bool.noConfusion h.2
theorem Laws.Kind.vshl (h : Hdr) (w : Width) (sc1 : Bool) (l : LayR) : Laws.Kind.Statement (.vshl h w sc1 l) := fun h => Bool.noConfusion h.2
theorem Laws.Kind.vshr (h : Hdr) (w : Width) (sc1 : Bool) (l : LayR) : Laws.Kind.Statement (.vshr h w sc1 l) := fun h => Bool.noConfusion h.2
theorem Laws.Kind.vsar (h : Hdr) (w : Width) (sc1 : Bool) (l : LayR) : Laws.Kind.Statement (.vsar h w sc1 l) := fun h => Bool.noConfusion h.2
theorem Laws.Kind.vcvt (h : Hdr) (l : LayR) : Laws.Kind.Statement (.vcvt h l) := fun h => Bool.noConfusion h.2
theorem Laws.Kind.vcmp (h : Hdr) (o : VOp) (l : LayR) : Laws.Kind.Statement (.vcmp h o l) := fun h => Bool.noConfusion h.2
theorem Laws.Kind.vmask (h : Hdr) (w : Width) (k : BitVec 3) (l : LayR) : Laws.Kind.Statement (.vmask h w k l) := fun h => Bool.noConfusion h.2
theorem Laws.Kind.vsel (h : Hdr) (w : Width) (l : LayR) : Laws.Kind.Statement (.vsel h w l) := fun h => Bool.noConfusion h.2
theorem Laws.Kind.vred (h : Hdr) (o : VOp) (l : LayR) : Laws.Kind.Statement (.vred h o l) := fun h => Bool.noConfusion h.2
theorem Laws.Kind.vscan (h : Hdr) (o : VOp) (l : LayR) : Laws.Kind.Statement (.vscan h o l) := fun h => Bool.noConfusion h.2
theorem Laws.Kind.vperm (h : Hdr) (w : Width) (two : Bool) (l : LayR) : Laws.Kind.Statement (.vperm h w two l) := fun h => Bool.noConfusion h.2
theorem Laws.Kind.vbcast (h : Hdr) (w : Width) (lane : Bool) (l : LayR) : Laws.Kind.Statement (.vbcast h w lane l) := fun h => Bool.noConfusion h.2
theorem Laws.Kind.vext (h : Hdr) (w : Width) (l : LayR) : Laws.Kind.Statement (.vext h w l) := fun h => Bool.noConfusion h.2
theorem Laws.Kind.vins (h : Hdr) (w : Width) (l : LayR) : Laws.Kind.Statement (.vins h w l) := fun h => Bool.noConfusion h.2
theorem Laws.Kind.vexp (h : Hdr) (o : VOp) (l : LayR) : Laws.Kind.Statement (.vexp h o l) := fun h => Bool.noConfusion h.2
theorem Laws.Kind.vlog (h : Hdr) (o : VOp) (l : LayR) : Laws.Kind.Statement (.vlog h o l) := fun h => Bool.noConfusion h.2
theorem Laws.Kind.vrsq (h : Hdr) (o : VOp) (l : LayR) : Laws.Kind.Statement (.vrsq h o l) := fun h => Bool.noConfusion h.2
theorem Laws.Kind.vtanh (h : Hdr) (o : VOp) (l : LayR) : Laws.Kind.Statement (.vtanh h o l) := fun h => Bool.noConfusion h.2
theorem Laws.Kind.vbms (h : Hdr) (o : VOp) (l : LayB) : Laws.Kind.Statement (.vbms h o l) := fun h => Bool.noConfusion h.2
theorem Laws.Kind.vsrch (h : Hdr) (o : VOp) (l : LayR) : Laws.Kind.Statement (.vsrch h o l) := fun h => Bool.noConfusion h.2
theorem Laws.Kind.mclaim (h : Hdr) (seq : BitVec 5) (ot : BitVec 5) (exp : BitVec 7) : Laws.Kind.Statement (.mclaim h seq ot exp) := fun h => Bool.noConfusion h.2
theorem Laws.Kind.mrel (h : Hdr) (seq : BitVec 5) (ot : BitVec 5) : Laws.Kind.Statement (.mrel h seq ot) := fun h => Bool.noConfusion h.2
theorem Laws.Kind.mclr (h : Hdr) (seq : BitVec 5) (at_ : BitVec 5) (lf : LaneFmt) : Laws.Kind.Statement (.mclr h seq at_ lf) := fun h => Bool.noConfusion h.2
theorem Laws.Kind.mma (h : Hdr) (l : LayM) : Laws.Kind.Statement (.mma h l) := fun h => Bool.noConfusion h.2
theorem Laws.Kind.mmasp (h : Hdr) (l : LayM) (om : BitVec 5) : Laws.Kind.Statement (.mmasp h l om) := fun h => Bool.noConfusion h.2
theorem Laws.Kind.mmsc (h : Hdr) (l : LayM) (os : BitVec 5) : Laws.Kind.Statement (.mmsc h l os) := fun h => Bool.noConfusion h.2
theorem Laws.Kind.mscl (h : Hdr) (seq : BitVec 5) (at_ : BitVec 5) (by_ : ScaleBy) : Laws.Kind.Statement (.mscl h seq at_ by_) := fun h => Bool.noConfusion h.2
theorem Laws.Kind.mcomb (h : Hdr) (seq : BitVec 5) (atd : BitVec 5) (ats : BitVec 5) (op : Comb) : Laws.Kind.Statement (.mcomb h seq atd ats op) := fun h => Bool.noConfusion h.2
theorem Laws.Kind.mdrn (h : Hdr) (l : LayD) : Laws.Kind.Statement (.mdrn h l) := fun h => Bool.noConfusion h.2
theorem Laws.Kind.mdrnt (h : Hdr) (l : LayD) : Laws.Kind.Statement (.mdrnt h l) := fun h => Bool.noConfusion h.2
theorem Laws.Kind.mtrn (h : Hdr) (seq : BitVec 5) (at_ : BitVec 5) : Laws.Kind.Statement (.mtrn h seq at_) := fun h => Bool.noConfusion h.2
theorem Laws.Kind.mcvt (h : Hdr) (seq : BitVec 5) (at_ : BitVec 5) (toA40 : Bool) (mode : Rm) : Laws.Kind.Statement (.mcvt h seq at_ toA40 mode) := fun h => Bool.noConfusion h.2
theorem Laws.Kind.macc (h : Hdr) (seq : BitVec 5) (at_ : BitVec 5) (ot : BitVec 5) (f : BitVec 5) : Laws.Kind.Statement (.macc h seq at_ ot f) := fun h => Bool.noConfusion h.2
theorem Laws.Kind.mstat (h : Hdr) (seq : BitVec 5) : Laws.Kind.Statement (.mstat h seq) := fun h => Bool.noConfusion h.2
theorem Laws.Kind.xcpy (h : Hdr) (seq : BitVec 5) : Laws.Kind.Statement (.xcpy h seq) := fun h => Bool.noConfusion h.2
theorem Laws.Kind.xc2d (h : Hdr) (seq : BitVec 5) (sp : BitVec 10) (dp : BitVec 10) : Laws.Kind.Statement (.xc2d h seq sp dp) := fun h => Bool.noConfusion h.2
theorem Laws.Kind.xgath (h : Hdr) (seq : BitVec 5) (cntm1 : BitVec 16) : Laws.Kind.Statement (.xgath h seq cntm1) := fun h => Bool.noConfusion h.2
theorem Laws.Kind.xscat (h : Hdr) (seq : BitVec 5) (cntm1 : BitVec 16) : Laws.Kind.Statement (.xscat h seq cntm1) := fun h => Bool.noConfusion h.2
theorem Laws.Kind.xfill (h : Hdr) (seq : BitVec 5) : Laws.Kind.Statement (.xfill h seq) := fun h => Bool.noConfusion h.2
theorem Laws.Kind.xarr (h : Hdr) (seq : BitVec 5) (ring : BitVec 5) : Laws.Kind.Statement (.xarr h seq ring) := fun h => Bool.noConfusion h.2
theorem Laws.Kind.xqry (h : Hdr) (seq : BitVec 5) : Laws.Kind.Statement (.xqry h seq) := fun h => Bool.noConfusion h.2
theorem Laws.Kind.cpost (h : Hdr) (seq : BitVec 5) (tsc : Scope) (cp : BitVec 3) : Laws.Kind.Statement (.cpost h seq tsc cp) := fun h => Bool.noConfusion h.2
theorem Laws.Kind.cwait (h : Hdr) (seq : BitVec 5) (cp : BitVec 3) : Laws.Kind.Statement (.cwait h seq cp) := fun h => Bool.noConfusion h.2
theorem Laws.Kind.cwaitChk (h : Hdr) (seq : BitVec 5) (cp : BitVec 3) : Laws.Kind.Statement (.cwaitChk h seq cp) := fun h => Bool.noConfusion h.2
theorem Laws.Kind.cpoll (h : Hdr) (seq : BitVec 5) (cp : BitVec 3) : Laws.Kind.Statement (.cpoll h seq cp) := fun h => Bool.noConfusion h.2
theorem Laws.Kind.cabrt (h : Hdr) (seq : BitVec 5) (tsc : Scope) (cp : BitVec 3) : Laws.Kind.Statement (.cabrt h seq tsc cp) := fun h => Bool.noConfusion h.2
theorem Laws.Kind.drun (h : Hdr) : Laws.Kind.Statement (.drun h) := fun h => Bool.noConfusion h.2
theorem Laws.Kind.drunRel (h : Hdr) : Laws.Kind.Statement (.drunRel h) := fun h => Bool.noConfusion h.2
theorem Laws.Kind.drunRes (h : Hdr) : Laws.Kind.Statement (.drunRes h) := fun h => Bool.noConfusion h.2
theorem Laws.Kind.drunResp (h : Hdr) : Laws.Kind.Statement (.drunResp h) := fun h => Bool.noConfusion h.2
theorem Laws.Kind.dstop (h : Hdr) : Laws.Kind.Statement (.dstop h) := fun h => Bool.noConfusion h.2
theorem Laws.Kind.dstopEnd (h : Hdr) : Laws.Kind.Statement (.dstopEnd h) := fun h => Bool.noConfusion h.2
theorem Laws.Kind.dpos (h : Hdr) : Laws.Kind.Statement (.dpos h) := fun h => Bool.noConfusion h.2
theorem Laws.Kind.dposElap (h : Hdr) : Laws.Kind.Statement (.dposElap h) := fun h => Bool.noConfusion h.2
theorem Laws.Kind.dposT0 (h : Hdr) : Laws.Kind.Statement (.dposT0 h) := fun h => Bool.noConfusion h.2
theorem Laws.Kind.csrr (h : Hdr) (csr : BitVec 12) : Laws.Kind.Statement (.csrr h csr) := fun h => Bool.noConfusion h.2
theorem Laws.Kind.csrw (h : Hdr) (csr : BitVec 12) : Laws.Kind.Statement (.csrw h csr) := fun h => Bool.noConfusion h.2
theorem Laws.Kind.csrs (h : Hdr) (csr : BitVec 12) : Laws.Kind.Statement (.csrs h csr) := fun h => Bool.noConfusion h.2
theorem Laws.Kind.csrc (h : Hdr) (csr : BitVec 12) : Laws.Kind.Statement (.csrc h csr) := fun h => Bool.noConfusion h.2
theorem Laws.Kind.csrx (h : Hdr) (csr : BitVec 12) : Laws.Kind.Statement (.csrx h csr) := fun h => Bool.noConfusion h.2
theorem Laws.Kind.scall (h : Hdr) (svc : BitVec 8) : Laws.Kind.Statement (.scall h svc) := fun h => Bool.noConfusion h.2
theorem Laws.Kind.sret (h : Hdr) : Laws.Kind.Statement (.sret h) := fun h => Bool.noConfusion h.2
theorem Laws.Kind.brk (h : Hdr) (code : BitVec 16) : Laws.Kind.Statement (.brk h code) := fun h => Bool.noConfusion h.2
theorem Laws.Kind.xtrig (h : Hdr) : Laws.Kind.Statement (.xtrig h) := fun h => Bool.noConfusion h.2
theorem Laws.Kind.tbind (h : Hdr) : Laws.Kind.Statement (.tbind h) := fun h => Bool.noConfusion h.2
theorem Laws.Kind.tbindGen (h : Hdr) : Laws.Kind.Statement (.tbindGen h) := fun h => Bool.noConfusion h.2
theorem Laws.Kind.bcinv (h : Hdr) : Laws.Kind.Statement (.bcinv h) := fun h => Bool.noConfusion h.2
theorem Laws.Kind.bcinvLine (h : Hdr) : Laws.Kind.Statement (.bcinvLine h) := fun h => Bool.noConfusion h.2
theorem Laws.Kind.wfm (h : Hdr) : Laws.Kind.Statement (.wfm h) := fun h => Bool.noConfusion h.2
theorem Laws.Kind.dact (delta : BitVec 12) (bank : BitVec 3) (row : BitVec 13) (rinc : BitVec 8) : Laws.Kind.Statement (.dact delta bank row rinc) := fun h => Bool.noConfusion h.1
theorem Laws.Kind.drd (delta : BitVec 12) (bank : BitVec 3) (col : BitVec 4) (t : VTgt) (step : BitVec 11) (cinc : BitVec 4) : Laws.Kind.Statement (.drd delta bank col t step cinc) := fun h => Bool.noConfusion h.1
theorem Laws.Kind.dwr (delta : BitVec 12) (bank : BitVec 3) (col : BitVec 4) (t : VTgt) (step : BitVec 11) (cinc : BitVec 4) : Laws.Kind.Statement (.dwr delta bank col t step cinc) := fun h => Bool.noConfusion h.1
theorem Laws.Kind.dpre (delta : BitVec 12) (bank : BitVec 3) : Laws.Kind.Statement (.dpre delta bank) := fun h => Bool.noConfusion h.1
theorem Laws.Kind.dprea (delta : BitVec 12) : Laws.Kind.Statement (.dprea delta) := fun h => Bool.noConfusion h.1
theorem Laws.Kind.drefa (delta : BitVec 12) (th : Option (BitVec 4)) : Laws.Kind.Statement (.drefa delta th) := fun h => Bool.noConfusion h.1
theorem Laws.Kind.drefb (delta : BitVec 12) (bank : BitVec 3) (th : Option (BitVec 4)) : Laws.Kind.Statement (.drefb delta bank th) := fun h => Bool.noConfusion h.1
theorem Laws.Kind.dwait (delta : BitVec 12) (count : BitVec 32) : Laws.Kind.Statement (.dwait delta count) := fun h => Bool.noConfusion h.1
theorem Laws.Kind.dchk (delta : BitVec 12) (kind : ChkKind) (index : BitVec 6) (ginc : BitVec 8) (value : BitVec 32) : Laws.Kind.Statement (.dchk delta kind index ginc value) := fun h => Bool.noConfusion h.1
theorem Laws.Kind.dsig (delta : BitVec 12) (sem : Bool) (index : BitVec 6) (amount : BitVec 32) : Laws.Kind.Statement (.dsig delta sem index amount) := fun h => Bool.noConfusion h.1
theorem Laws.Kind.drpt (delta : BitVec 12) (back : BitVec 12) (count : BitVec 32) : Laws.Kind.Statement (.drpt delta back count) := fun h => Bool.noConfusion h.1
theorem Laws.Kind.dend (delta : BitVec 12) : Laws.Kind.Statement (.dend delta) := fun h => Bool.noConfusion h.1
theorem Laws.Kind.blockEntry (cell : Nat) (x : Nat) : Laws.Kind.Statement (.blockEntry cell x) := fun h => Bool.noConfusion h.2
theorem Laws.Kind.blockCommit (cell : Nat) (x : Nat) : Laws.Kind.Statement (.blockCommit cell x) := fun h => Bool.noConfusion h.2
theorem Laws.Kind.slotExpiry (cell : Nat) (x : Nat) (slot : Nat) : Laws.Kind.Statement (.slotExpiry cell x slot) := fun h => Bool.noConfusion h.2
theorem Laws.Kind.storeQueueLeave (cell : Nat) (x : Nat) : Laws.Kind.Statement (.storeQueueLeave cell x) := fun h => Bool.noConfusion h.2
theorem Laws.Kind.remoteLoadIssue (cell : Nat) (x : Nat) : Laws.Kind.Statement (.remoteLoadIssue cell x) := fun h => Bool.noConfusion h.2
theorem Laws.Kind.homeAccess (n : Nat) : Laws.Kind.Statement (.homeAccess n) := fun h => Bool.noConfusion h.2
theorem Laws.Kind.loadResponse (n : Nat) : Laws.Kind.Statement (.loadResponse n) := fun h => Bool.noConfusion h.2
theorem Laws.Kind.lateDropStop (cell : Nat) (x : Nat) : Laws.Kind.Statement (.lateDropStop cell x) := fun h => Bool.noConfusion h.2
theorem Laws.Kind.fullEmptyRelease (unit : Nat) : Laws.Kind.Statement (.fullEmptyRelease unit) := fun h => Bool.noConfusion h.2
theorem Laws.Kind.ringArrival (who : RingAgent) (ring : RingRef) : Laws.Kind.Statement (.ringArrival who ring) := fun h => Bool.noConfusion h.2
theorem Laws.Kind.ringRotation (ring : RingRef) : Laws.Kind.Statement (.ringRotation ring) := fun h => Bool.noConfusion h.2
theorem Laws.Kind.ringHoldRelease (n : Nat) : Laws.Kind.Statement (.ringHoldRelease n) := fun h => Bool.noConfusion h.2
theorem Laws.Kind.semaphoreAcquireServe (cell : Nat) (q : Nat) : Laws.Kind.Statement (.semaphoreAcquireServe cell q) := fun h => Bool.noConfusion h.2
theorem Laws.Kind.syncWordArrival (n : Nat) : Laws.Kind.Statement (.syncWordArrival n) := fun h => Bool.noConfusion h.2
theorem Laws.Kind.syncwRelease (unit : Nat) : Laws.Kind.Statement (.syncwRelease unit) := fun h => Bool.noConfusion h.2
theorem Laws.Kind.clusterBarrierComplete (cluster : Nat) (n : Nat) : Laws.Kind.Statement (.clusterBarrierComplete cluster n) := fun h => Bool.noConfusion h.2
theorem Laws.Kind.messageDelivery (n : Nat) : Laws.Kind.Statement (.messageDelivery n) := fun h => Bool.noConfusion h.2
theorem Laws.Kind.messageDispatch (cell : Nat) (x : Nat) : Laws.Kind.Statement (.messageDispatch cell x) := fun h => Bool.noConfusion h.2
theorem Laws.Kind.wfmWake (cell : Nat) (x : Nat) : Laws.Kind.Statement (.wfmWake cell x) := fun h => Bool.noConfusion h.2
theorem Laws.Kind.resultLanding (cell : Nat) (x : Nat) (n : Nat) : Laws.Kind.Statement (.resultLanding cell x n) := fun h => Bool.noConfusion h.2
theorem Laws.Kind.txeAccept (cell : Nat) : Laws.Kind.Statement (.txeAccept cell) := fun h => Bool.noConfusion h.2
theorem Laws.Kind.txePieceIssue (cell : Nat) : Laws.Kind.Statement (.txePieceIssue cell) := fun h => Bool.noConfusion h.2
theorem Laws.Kind.txeComplete (cell : Nat) (n : Nat) : Laws.Kind.Statement (.txeComplete cell n) := fun h => Bool.noConfusion h.2
theorem Laws.Kind.vxeCommandStart (cell : Nat) : Laws.Kind.Statement (.vxeCommandStart cell) := fun h => Bool.noConfusion h.2
theorem Laws.Kind.vxeCommandComplete (cell : Nat) : Laws.Kind.Statement (.vxeCommandComplete cell) := fun h => Bool.noConfusion h.2
theorem Laws.Kind.mxeCommandStart (cell : Nat) : Laws.Kind.Statement (.mxeCommandStart cell) := fun h => Bool.noConfusion h.2
theorem Laws.Kind.accumulatorWriteDone (cell : Nat) : Laws.Kind.Statement (.accumulatorWriteDone cell) := fun h => Bool.noConfusion h.2
theorem Laws.Kind.drainComplete (cell : Nat) (n : Nat) : Laws.Kind.Statement (.drainComplete cell n) := fun h => Bool.noConfusion h.2
theorem Laws.Kind.engineReportStop (cell : Nat) (x : Nat) : Laws.Kind.Statement (.engineReportStop cell x) := fun h => Bool.noConfusion h.2
theorem Laws.Kind.progressFault (cell : Nat) (x : Nat) : Laws.Kind.Statement (.progressFault cell x) := fun h => Bool.noConfusion h.2
theorem Laws.Kind.drunAccept (cell : Nat) : Laws.Kind.Statement (.drunAccept cell) := fun h => Bool.noConfusion h.2
theorem Laws.Kind.programStart (cell : Nat) : Laws.Kind.Statement (.programStart cell) := fun h => Bool.noConfusion h.2
theorem Laws.Kind.resumePreamble (cell : Nat) : Laws.Kind.Statement (.resumePreamble cell) := fun h => Bool.noConfusion h.2
theorem Laws.Kind.dstopEffect (cell : Nat) : Laws.Kind.Statement (.dstopEffect cell) := fun h => Bool.noConfusion h.2
theorem Laws.Kind.seqFetch (cell : Nat) : Laws.Kind.Statement (.seqFetch cell) := fun h => Bool.noConfusion h.2
theorem Laws.Kind.vaultDelivery (cell : Nat) : Laws.Kind.Statement (.vaultDelivery cell) := fun h => Bool.noConfusion h.2
theorem Laws.Kind.dwrStaging (cell : Nat) : Laws.Kind.Statement (.dwrStaging cell) := fun h => Bool.noConfusion h.2
theorem Laws.Kind.faultPrecharge (cell : Nat) : Laws.Kind.Statement (.faultPrecharge cell) := fun h => Bool.noConfusion h.2
theorem Laws.Kind.refreshTick (cell : Nat) : Laws.Kind.Statement (.refreshTick cell) := fun h => Bool.noConfusion h.2
theorem Laws.Kind.guardRefresh (cell : Nat) : Laws.Kind.Statement (.guardRefresh cell) := fun h => Bool.noConfusion h.2
theorem Laws.Kind.refreshClassFall (field : Nat) : Laws.Kind.Statement (.refreshClassFall field) := fun h => Bool.noConfusion h.2
theorem Laws.Kind.untimedAccess (cell : Nat) : Laws.Kind.Statement (.untimedAccess cell) := fun h => Bool.noConfusion h.2
theorem Laws.Kind.rowRemap (cell : Nat) (bank : Nat) (row : Nat) : Laws.Kind.Statement (.rowRemap cell bank row) := fun h => Bool.noConfusion h.2
theorem Laws.Kind.cacheFill (field : Nat) (slice : Nat) : Laws.Kind.Statement (.cacheFill field slice) := fun h => Bool.noConfusion h.2
theorem Laws.Kind.cacheFlush (field : Nat) (slice : Nat) : Laws.Kind.Statement (.cacheFlush field slice) := fun h => Bool.noConfusion h.2
theorem Laws.Kind.treeinjPush (cell : Nat) (x : Nat) : Laws.Kind.Statement (.treeinjPush cell x) := fun h => Bool.noConfusion h.2
theorem Laws.Kind.treeextPop (cell : Nat) (x : Nat) : Laws.Kind.Statement (.treeextPop cell x) := fun h => Bool.noConfusion h.2
theorem Laws.Kind.treestatRead (cell : Nat) : Laws.Kind.Statement (.treestatRead cell) := fun h => Bool.noConfusion h.2
theorem Laws.Kind.treeNodeCombine (level : Nat) (node : Nat) (chan : Nat) : Laws.Kind.Statement (.treeNodeCombine level node chan) := fun h => Bool.noConfusion h.2
theorem Laws.Kind.treeExtractValid (n : Nat) : Laws.Kind.Statement (.treeExtractValid n) := fun h => Bool.noConfusion h.2
theorem Laws.Kind.collectivePostAccept (cell : Nat) (x : Nat) : Laws.Kind.Statement (.collectivePostAccept cell x) := fun h => Bool.noConfusion h.2
theorem Laws.Kind.collectiveRoundStart (g : Nat) (inst : Nat) : Laws.Kind.Statement (.collectiveRoundStart g inst) := fun h => Bool.noConfusion h.2
theorem Laws.Kind.bucketStep (g inst : Nat) (recv : List (List (BitVec 64 × Bool))) : Laws.Kind.Statement (.bucketStep g inst recv) := fun h => Bool.noConfusion h.2
theorem Laws.Kind.collectivePostFinish (g : Nat) (inst : Nat) : Laws.Kind.Statement (.collectivePostFinish g inst) := fun h => Bool.noConfusion h.2
theorem Laws.Kind.cwaitRelease (cell : Nat) (x : Nat) : Laws.Kind.Statement (.cwaitRelease cell x) := fun h => Bool.noConfusion h.2
theorem Laws.Kind.abortMarker (g : Nat) (inst : Nat) (round : Nat) (link : Option Nat) : Laws.Kind.Statement (.abortMarker g inst round link) := fun h => Bool.noConfusion h.2
theorem Laws.Kind.linkFrameReceive (g : Nat) (f : Frame) : Laws.Kind.Statement (.linkFrameReceive g f) := fun h => Bool.noConfusion h.2
theorem Laws.Kind.linkWake (g : Nat) (peer : Bool) : Laws.Kind.Statement (.linkWake g peer) := fun h => Bool.noConfusion h.2
theorem Laws.Kind.wavelengthReady (g : Nat) (lam : Nat) : Laws.Kind.Statement (.wavelengthReady g lam) := fun h => Bool.noConfusion h.2
theorem Laws.Kind.wakeTimeout (g : Nat) : Laws.Kind.Statement (.wakeTimeout g) := fun h => Bool.noConfusion h.2
theorem Laws.Kind.linkPark (g : Nat) (mask : BitVec 6) : Laws.Kind.Statement (.linkPark g mask) := fun h => Bool.noConfusion h.2
theorem Laws.Kind.hostMemAccess (a : HostAcc) : Laws.Kind.Statement (.hostMemAccess a) := fun h => Bool.noConfusion h.2
theorem Laws.Kind.launchPosting (i : Nat) : Laws.Kind.Statement (.launchPosting i) := fun h => Bool.noConfusion h.2
theorem Laws.Kind.launchDispatch (i : Nat) : Laws.Kind.Statement (.launchDispatch i) := fun h => Bool.noConfusion h.2
theorem Laws.Kind.timedDispatch (i : Nat) (placeable : Bool) : Laws.Kind.Statement (.timedDispatch i placeable) := fun h => Bool.noConfusion h.2
theorem Laws.Kind.launchCancel (i : Nat) : Laws.Kind.Statement (.launchCancel i) := fun h => Bool.noConfusion h.2
theorem Laws.Kind.launchKill (k : KillReq) : Laws.Kind.Statement (.launchKill k) := fun h => Bool.noConfusion h.2
theorem Laws.Kind.launchBinding (i : Nat) (p : Placement) : Laws.Kind.Statement (.launchBinding i p) := fun h => Bool.noConfusion h.2
theorem Laws.Kind.completionToken (i : Nat) : Laws.Kind.Statement (.completionToken i) := fun h => Bool.noConfusion h.2
theorem Laws.Kind.nodeAdoption (i : Nat) (deadCell : Nat) (acell : Nat) (actx : Nat) (node : Nat) (am : Nat) (abase : Nat) : Laws.Kind.Statement (.nodeAdoption i deadCell acell actx node am abase) := fun h => Bool.noConfusion h.2
theorem Laws.Kind.fwload (floor : Nat) : Laws.Kind.Statement (.fwload floor) := fun h => Bool.noConfusion h.2
theorem Laws.Kind.getid : Laws.Kind.Statement (.getid) := fun h => Bool.noConfusion h.2
theorem Laws.Kind.attest : Laws.Kind.Statement (.attest) := fun h => Bool.noConfusion h.2
theorem Laws.Kind.dumpbuf : Laws.Kind.Statement (.dumpbuf) := fun h => Bool.noConfusion h.2
theorem Laws.Kind.halt : Laws.Kind.Statement (.halt) := fun h => Bool.noConfusion h.2
theorem Laws.Kind.telem : Laws.Kind.Statement (.telem) := fun h => Bool.noConfusion h.2
theorem Laws.Kind.grant (approve : Bool) : Laws.Kind.Statement (.grant approve) := fun h => Bool.noConfusion h.2
theorem Laws.Kind.syscfg : Laws.Kind.Statement (.syscfg) := fun h => Bool.noConfusion h.2
theorem Laws.Kind.herrRead : Laws.Kind.Statement (.herrRead) := fun h => Bool.noConfusion h.2
theorem Laws.Kind.hdropRead (cell : Nat) : Laws.Kind.Statement (.hdropRead cell) := fun h => Bool.noConfusion h.2
theorem Laws.Kind.sterrClear (cell : Nat) (x : Nat) : Laws.Kind.Statement (.sterrClear cell x) := fun h => Bool.noConfusion h.2
theorem Laws.Kind.vxstatClear (cell : Nat) (x : Nat) : Laws.Kind.Statement (.vxstatClear cell x) := fun h => Bool.noConfusion h.2
theorem Laws.Kind.mxstatClear (cell : Nat) (x : Nat) : Laws.Kind.Statement (.mxstatClear cell x) := fun h => Bool.noConfusion h.2
theorem Laws.Kind.txstatClear (cell : Nat) (x : Nat) : Laws.Kind.Statement (.txstatClear cell x) := fun h => Bool.noConfusion h.2
theorem Laws.Kind.semovfClear (cell : Nat) (mask : BitVec 64) : Laws.Kind.Statement (.semovfClear cell mask) := fun h => Bool.noConfusion h.2
theorem Laws.Kind.srseedWrite (cell : Nat) (x : Nat) (v : BitVec 64) : Laws.Kind.Statement (.srseedWrite cell x v) := fun h => Bool.noConfusion h.2
theorem Laws.Kind.registerWrite (r : RegRef) (v : BitVec 64) : Laws.Kind.Statement (.registerWrite r v) := fun h => Bool.noConfusion h.2
theorem Laws.Kind.atsMiss (pasid : Nat) (page : Nat) (entry : Option (Nat × Nat)) : Laws.Kind.Statement (.atsMiss pasid page entry) := fun h => Bool.noConfusion h.2
theorem Laws.Kind.atsInvalidation (pasid : Nat) (page : Nat) : Laws.Kind.Statement (.atsInvalidation pasid page) := fun h => Bool.noConfusion h.2
theorem Laws.Kind.stopReport (cell : Nat) (x : Nat) (handled : Bool) : Laws.Kind.Statement (.stopReport cell x handled) := fun h => Bool.noConfusion h.2
theorem Laws.Kind.resume (cell : Nat) (x : Nat) : Laws.Kind.Statement (.resume cell x) := fun h => Bool.noConfusion h.2
theorem Laws.Kind.redirect (cell : Nat) (x : Nat) (addr : BitVec 64) : Laws.Kind.Statement (.redirect cell x addr) := fun h => Bool.noConfusion h.2
theorem Laws.Kind.setslot (cell : Nat) (x : Nat) (slot : Nat) (v : BitVec 64) (life : BitVec 3) : Laws.Kind.Statement (.setslot cell x slot v life) := fun h => Bool.noConfusion h.2
theorem Laws.Kind.endh (cell : Nat) (x : Nat) : Laws.Kind.Statement (.endh cell x) := fun h => Bool.noConfusion h.2
theorem Laws.Kind.mode (cell : Nat) (x : Nat) (sup : Bool) : Laws.Kind.Statement (.mode cell x sup) := fun h => Bool.noConfusion h.2
theorem Laws.Kind.clrstat (cell : Nat) (x : Nat) : Laws.Kind.Statement (.clrstat cell x) := fun h => Bool.noConfusion h.2
theorem Laws.Kind.hwFatalFault (cell : Nat) (unit : Nat) : Laws.Kind.Statement (.hwFatalFault cell unit) := fun h => Bool.noConfusion h.2
theorem Laws.Kind.fatalDump (i : Nat) (manager : Bool) : Laws.Kind.Statement (.fatalDump i manager) := fun h => Bool.noConfusion h.2
theorem Laws.Kind.supervisorRecovery : Laws.Kind.Statement (.supervisorRecovery) := fun h => Bool.noConfusion h.2
theorem Laws.Kind.bankErrorEvent (b : BankRef) (key : Nat) (correctable : Bool) : Laws.Kind.Statement (.bankErrorEvent b key correctable) := fun h => Bool.noConfusion h.2
theorem Laws.Kind.bankRetirement (b : BankRef) : Laws.Kind.Statement (.bankRetirement b) := fun h => Bool.noConfusion h.2
theorem Laws.Kind.cellRetirement (cell : Nat) : Laws.Kind.Statement (.cellRetirement cell) := fun h => Bool.noConfusion h.2
theorem Laws.Kind.preemption (sx0 : Nat) (sy0 : Nat) (sx1 : Nat) (sy1 : Nat) : Laws.Kind.Statement (.preemption sx0 sy0 sx1 sy1) := fun h => Bool.noConfusion h.2
theorem Laws.Kind.snapshotRestore (i : Nat) (cells : List (Nat × Nat)) : Laws.Kind.Statement (.snapshotRestore i cells) := fun h => Bool.noConfusion h.2
theorem Laws.Kind.configSegmentLoad (cell : Nat) (load : Nat) (seg : SegNo) (discard : Bool) (regs : List (RegRef × BitVec 64)) (data : List (Nat × Byte)) : Laws.Kind.Statement (.configSegmentLoad cell load seg discard regs data) := fun h => Bool.noConfusion h.2
theorem Laws.Kind.haltSignal (sig : HaltSig) (cells : List Nat) : Laws.Kind.Statement (.haltSignal sig cells) := fun h => Bool.noConfusion h.2
theorem Laws.Kind.haltRelease (groups : BitVec 16) (cells : List Nat) : Laws.Kind.Statement (.haltRelease groups cells) := fun h => Bool.noConfusion h.2
theorem Laws.Kind.rebinding (ents : List (RegRef × BitVec 64)) (moves : List (Nat × Nat)) : Laws.Kind.Statement (.rebinding ents moves) := fun h => Bool.noConfusion h.2
theorem Laws.Kind.flitMisroute (n : Nat) : Laws.Kind.Statement (.flitMisroute n) := fun h => Bool.noConfusion h.2
theorem Laws.Kind.saffronControlPeriod (fields : List Nat) (fvf pwctl duty : List (BitVec 64)) : Laws.Kind.Statement (.saffronControlPeriod fields fvf pwctl duty) := fun h => Bool.noConfusion h.2
theorem Laws.Kind.operatingPointChange (field volt freq : Nat) : Laws.Kind.Statement (.operatingPointChange field volt freq) := fun h => Bool.noConfusion h.2
theorem Laws.Kind.sensorSample (field : Nat) (i : Nat) (raw : Nat) : Laws.Kind.Statement (.sensorSample field i raw) := fun h => Bool.noConfusion h.2
theorem Laws.Kind.thermalTrip (field : Nat) : Laws.Kind.Statement (.thermalTrip field) := fun h => Bool.noConfusion h.2
theorem Laws.Kind.tripClear (field : Nat) : Laws.Kind.Statement (.tripClear field) := fun h => Bool.noConfusion h.2
theorem Laws.Kind.waferReset : Laws.Kind.Statement (.waferReset) := fun h => Bool.noConfusion h.2
theorem Laws.Kind.bootProgress (found : Option (List (Nat × Nat × Nat))) : Laws.Kind.Statement (.bootProgress found) := fun h => Bool.noConfusion h.2
theorem Laws.Kind.coreCycle (field : Nat) : Laws.Kind.Statement (.coreCycle field) := fun h => Bool.noConfusion h.2
theorem Laws.Kind.vaultClock : Laws.Kind.Statement (.vaultClock) := fun h => Bool.noConfusion h.2
theorem Laws.Kind.powerOnReset : Laws.Kind.Statement (.powerOnReset) := fun h => Bool.noConfusion h.2
theorem Laws.Kind.mailboxOverrun (payload : Bool) : Laws.Kind.Statement (.mailboxOverrun payload) := fun h => Bool.noConfusion h.2
theorem Laws.Kind.unknownMailboxCommand : Laws.Kind.Statement (.unknownMailboxCommand) := fun h => Bool.noConfusion h.2
theorem Laws.Kind.sensorSuspectClear (field : Nat) (i : Nat) : Laws.Kind.Statement (.sensorSuspectClear field i) := fun h => Bool.noConfusion h.2
theorem Laws.Kind.voltageSettled (field : Nat) : Laws.Kind.Statement (.voltageSettled field) := fun h => Bool.noConfusion h.2
theorem Laws.Kind.vaultInterfaceFailure (cell : Nat) : Laws.Kind.Statement (.vaultInterfaceFailure cell) := fun h => Bool.noConfusion h.2
theorem Laws.Kind.treeRepair (lat : List (Nat × Nat)) : Laws.Kind.Statement (.treeRepair lat) := fun h => Bool.noConfusion h.2
theorem Laws.Kind.meshRouteRepair (cell : Nat) : Laws.Kind.Statement (.meshRouteRepair cell) := fun h => Bool.noConfusion h.2

end Sys2Proof
end

