-- ==== Sys2Proof/Tests/Slice0.lean ====
section
/-! SUPPORT. Tests/Slice0.lean: the model's own tests: words written out from the spec's encoding tables and the
instructions they stand for, an ill-formed term for each check of WellFormed, and for the hypotheses of each statement a
concrete state that meets them. -/
open Sys2Proof Sys2Proof.Machine
set_option maxRecDepth 100000

/-! ### Helpers -/

/-- Every word of a list decodes to the instruction beside it. -/
def Tests.reads (l : List (Word × Instr)) : Bool := l.all fun e => decide ((decode e.1).toOption = some e.2)
/-- The environment of the instruction under way, when it may fire. -/
def Tests.go (s : State) (i : Instr) : Option Env :=
  match s.envOf i with
  | some e => if readiness e.f (e.n.by e.now) = .go ∧ s.canIssue e.cell e.x = true ∧ e.badPort = none then some e else none
  | none => none
/-- An instruction may fire in a state, in an environment of which `p` holds. -/
def Tests.can (s : State) (i : Instr) (p : Env → Bool := fun _ => true) : Bool := (Tests.go s i).any p
theorem Tests.canFire_of_can {s : State} {i : Instr} {p : Env → Bool} (h : Tests.can s i p = true) :
    ∃ e, CanFire s i e ∧ p e = true := by
  unfold Tests.can Tests.go at h
  split at h
  · rename_i e he
    split at h
    · rename_i g; exact ⟨e, ⟨he, g.1, g.2.1, g.2.2⟩, by simpa using h⟩
    · simp at h
  · simp at h
/-- A token of a value, clean or poisoned, at a port of one producer. -/
def Tests.port (t : Tok) : PortSt := { prod := 1, tok := some t }
/-- The reset state with an instruction in flight in context 0 of cell 0, tokens at its ports, and no move to come. -/
def Tests.at_ (i : Instr) (a : Tok := {}) (b : Tok := {}) (hi : Tok := {}) : State :=
  { (State.reset.withWord (encode i)).onCtx 0 0 (fun c => { c with flight := c.flight.map fun k =>
      { k with insts := k.insts.map fun n => { n with a := Tests.port a, b := Tests.port b, hi := Tests.port hi } } }) with agenda := [] }
/-- An event answers a next state of which `p` holds. -/
def Tests.gives (i : Instr) (s : State) (p : State → Bool) : Bool :=
  match exec i s with
  | .next t => p t
  | _ => false

/-! ### Decoding: words of Tables 10-3 to 10-7, 11-1, 12-8, 13-1, 14-1, 15-3 and 16-1, and that each of them fires -/

def Tests.controlWords : List (Word × Instr) := [
  (0x0080000000000002, .br .onFalse 2),
  (0x0180000000000000, .jmp .onFalse),
  (0x0200850003FFFFFF, .call { pr := .always, ta := .slot 5 0, tb := .none } 0x3FFFFFF),
  (0x0300850810000000, .callr { pr := .always, ta := .slot 5 0, tb := .port 1 .a }),
  (0x0400000000000000, .ret .always),
  (0x05C0000000000000, .done .gated),
  (0x0600000000000000, .yield .always),
  (0x0700000000000000, .trap .always),
  (0x0800408824000000, .null { pr := .always, ta := .port 1 .a, tb := .port 2 .b }),
  (0x0910408000000000, .mov { pr := .always, ta := .port 1 .a, tb := .none } .w16),
  (0x0A31408001ABCDEF, .movi { pr := .always, ta := .port 1 .a, tb := .none } .w64 true 0x1ABCDEF),
  (0x0B00408000D159E2, .movhi { pr := .always, ta := .port 1 .a, tb := .none } (.mid 0xD159E2)),
  (0x0B01850000000012, .movhi { pr := .always, ta := .slot 5 0, tb := .none } (.top 0x12)),
  (0x0C20408000000000, .sel { pr := .always, ta := .port 1 .a, tb := .none } .w32),
  (0x0D00408000000000, .baddr { pr := .always, ta := .port 1 .a, tb := .none })]
theorem test_decode_control : Tests.reads Tests.controlWords = true := by decide
theorem test_fires_control : (Tests.controlWords.all fun e => Tests.can { State.reset.withWord e.1 with agenda := [] } e.2) = true := by decide
def Tests.testWords : List (Word × Instr) := [
  (0x1000408000000000, .teq { pr := .always, ta := .port 1 .a, tb := .none } .w8),
  (0x1110408000000000, .tne { pr := .always, ta := .port 1 .a, tb := .none } .w16),
  (0x1220408000000000, .tlt { pr := .always, ta := .port 1 .a, tb := .none } .w32),
  (0x1330408000000000, .tle { pr := .always, ta := .port 1 .a, tb := .none } .w64),
  (0x1400408000000000, .tltu { pr := .always, ta := .port 1 .a, tb := .none } .w8),
  (0x1510408000000000, .tleu { pr := .always, ta := .port 1 .a, tb := .none } .w16),
  (0x1630408824000005, .teqi { pr := .always, ta := .port 1 .a, tb := .port 2 .b } .w64 5),
  (0x1730408824000006, .tnei { pr := .always, ta := .port 1 .a, tb := .port 2 .b } .w64 6),
  (0x1830408824000007, .tlti { pr := .always, ta := .port 1 .a, tb := .port 2 .b } .w64 7),
  (0x1930408824000008, .tlei { pr := .always, ta := .port 1 .a, tb := .port 2 .b } .w64 8),
  (0x1A30408824000009, .tltui { pr := .always, ta := .port 1 .a, tb := .port 2 .b } .w64 9),
  (0x1B3040882400000A, .tleui { pr := .always, ta := .port 1 .a, tb := .port 2 .b } .w64 10),
  (0x1C3040800000003F, .tbit { pr := .always, ta := .port 1 .a, tb := .none } .w64 63),
  (0x1D20408000000000, .tnz { pr := .always, ta := .port 1 .a, tb := .none } .w32 none),
  (0x1D21408000000009, .tnz { pr := .always, ta := .port 1 .a, tb := .none } .w32 (some 9))]
theorem test_decode_test : Tests.reads Tests.testWords = true := by decide
theorem test_fires_test : (Tests.testWords.all fun e => Tests.can { State.reset.withWord e.1 with agenda := [] } e.2) = true := by decide
def Tests.integerWords : List (Word × Instr) := [
  (0x20004090A0000000, .add { pr := .always, ta := .port 1 .a, tb := .slot 5 0 } .w8),
  (0x21104090A0000000, .sub { pr := .always, ta := .port 1 .a, tb := .slot 5 0 } .w16),
  (0x23304090A0000000, .adds { pr := .always, ta := .port 1 .a, tb := .slot 5 0 } .w64),
  (0x24004090A0000000, .addsu { pr := .always, ta := .port 1 .a, tb := .slot 5 0 } .w8),
  (0x25104090A0000000, .subs { pr := .always, ta := .port 1 .a, tb := .slot 5 0 } .w16),
  (0x26204090A0000000, .subsu { pr := .always, ta := .port 1 .a, tb := .slot 5 0 } .w32),
  (0x29104090A0000000, .min { pr := .always, ta := .port 1 .a, tb := .slot 5 0 } .w16),
  (0x2A204090A0000000, .max { pr := .always, ta := .port 1 .a, tb := .slot 5 0 } .w32),
  (0x2B304090A0000000, .minu { pr := .always, ta := .port 1 .a, tb := .slot 5 0 } .w64),
  (0x2C004090A0000000, .maxu { pr := .always, ta := .port 1 .a, tb := .slot 5 0 } .w8),
  (0x2D104090A0000000, .mul { pr := .always, ta := .port 1 .a, tb := .slot 5 0 } .w16),
  (0x2E204090A0000000, .mulh { pr := .always, ta := .port 1 .a, tb := .slot 5 0 } .w32),
  (0x2F304090A0000000, .mulhu { pr := .always, ta := .port 1 .a, tb := .slot 5 0 } .w64),
  (0x30004090A0000000, .mulhsu { pr := .always, ta := .port 1 .a, tb := .slot 5 0 } .w8),
  (0x31104090A0000000, .madd { pr := .always, ta := .port 1 .a, tb := .slot 5 0 } .w16),
  (0x32204090A0000000, .div { pr := .always, ta := .port 1 .a, tb := .slot 5 0 } .w32),
  (0x33304090A0000000, .divu { pr := .always, ta := .port 1 .a, tb := .slot 5 0 } .w64),
  (0x34004090A0000000, .rem { pr := .always, ta := .port 1 .a, tb := .slot 5 0 } .w8),
  (0x35104090A0000000, .remu { pr := .always, ta := .port 1 .a, tb := .slot 5 0 } .w16),
  (0x36204090A0000000, .and { pr := .always, ta := .port 1 .a, tb := .slot 5 0 } .w32),
  (0x37304090A0000000, .or { pr := .always, ta := .port 1 .a, tb := .slot 5 0 } .w64),
  (0x38004090A0000000, .xor { pr := .always, ta := .port 1 .a, tb := .slot 5 0 } .w8),
  (0x39104090A0000000, .andn { pr := .always, ta := .port 1 .a, tb := .slot 5 0 } .w16),
  (0x42204090A0000000, .clz { pr := .always, ta := .port 1 .a, tb := .slot 5 0 } .w32),
  (0x43304090A0000000, .ctz { pr := .always, ta := .port 1 .a, tb := .slot 5 0 } .w64),
  (0x44004090A0000000, .popc { pr := .always, ta := .port 1 .a, tb := .slot 5 0 } .w8),
  (0x2230896000000001, .addi { pr := .always, ta := .slot 9 3, tb := .none } .w64 1),
  (0x2710408000000000, .neg { pr := .always, ta := .port 1 .a, tb := .none } .w16 false),
  (0x2811408000000000, .abs { pr := .always, ta := .port 1 .a, tb := .none } .w16 true),
  (0x3A00408000000007, .andi { pr := .always, ta := .port 1 .a, tb := .none } .w8 false 7),
  (0x3B01408000000007, .ori { pr := .always, ta := .port 1 .a, tb := .none } .w8 true 7),
  (0x3C00408000000007, .xori { pr := .always, ta := .port 1 .a, tb := .none } .w8 false 7),
  (0x3D31408000000021, .shl { pr := .always, ta := .port 1 .a, tb := .none } .w64 (some 33)),
  (0x3E30408000000000, .shr { pr := .always, ta := .port 1 .a, tb := .none } .w64 none),
  (0x3F31408000000021, .sar { pr := .always, ta := .port 1 .a, tb := .none } .w64 (some 33)),
  (0x4030408000000000, .rol { pr := .always, ta := .port 1 .a, tb := .none } .w64 none),
  (0x4131408000000021, .ror { pr := .always, ta := .port 1 .a, tb := .none } .w64 (some 33)),
  (0x4520408000000189, .bfx { pr := .always, ta := .port 1 .a, tb := .none } .w32 9 6),
  (0x46304080000000C9, .bfxu { pr := .always, ta := .port 1 .a, tb := .none } .w64 9 3),
  (0x47304080000000C9, .bfi { pr := .always, ta := .port 1 .a, tb := .none } .w64 9 3)]
theorem test_decode_integer : Tests.reads Tests.integerWords = true := by decide
theorem test_fires_integer : (Tests.integerWords.all fun e => Tests.can { State.reset.withWord e.1 with agenda := [] } e.2) = true := by decide
def Tests.floatWords : List (Word × Instr) := [
  (0x50304090A0000000, .fadd { pr := .always, ta := .port 1 .a, tb := .slot 5 0 } .fp64 .rne),
  (0x51214090A0000000, .fsub { pr := .always, ta := .port 1 .a, tb := .slot 5 0 } .fp32 .rtz),
  (0x52124090A0000000, .fmul { pr := .always, ta := .port 1 .a, tb := .slot 5 0 } .fp16 .rup),
  (0x531B4090A0000000, .fdiv { pr := .always, ta := .port 1 .a, tb := .slot 5 0 } .bf16 .rdn),
  (0x54344090A0000000, .fsqrt { pr := .always, ta := .port 1 .a, tb := .slot 5 0 } .fp64 .sr),
  (0x55254090A0000000, .fma { pr := .always, ta := .port 1 .a, tb := .slot 5 0 } .fp32 .dyn),
  (0x5621408000000000, .fmin { pr := .always, ta := .port 1 .a, tb := .none } .fp32 true),
  (0x5718408000000000, .fmax { pr := .always, ta := .port 1 .a, tb := .none } .bf16 false),
  (0x5832408000000000, .fsgn { pr := .always, ta := .port 1 .a, tb := .none } .fp64 .jx),
  (0x5925408000000000, .fcmp { pr := .always, ta := .port 1 .a, tb := .none } .fp32 .leq),
  (0x5A10408000000000, .fclass { pr := .always, ta := .port 1 .a, tb := .none } .fp16),
  (0x5B00408000000000, .fcvt { pr := .always, ta := .port 1 .a, tb := .none }),
  (0x5C00408000000000, .ftoi { pr := .always, ta := .port 1 .a, tb := .none }),
  (0x5D00408000000000, .itof { pr := .always, ta := .port 1 .a, tb := .none })]
theorem test_decode_float : Tests.reads Tests.floatWords = true := by decide
theorem test_fires_float : (Tests.floatWords.all fun e => Tests.can { State.reset.withWord e.1 with agenda := [] } e.2) = true := by decide
def Tests.memoryWords : List (Word × Instr) := [
  (0x6024408000200010, .ld { pr := .always, ta := .port 1 .a, tb := .none } .w32 true false false { seq := 1, tsc := .none, disp := 16 }),
  (0x6033408000200010, .ld { pr := .always, ta := .port 1 .a, tb := .none } .w64 false true true { seq := 1, tsc := .none, disp := 16 }),
  (0x613041E000100000, .st { pr := .always, ta := .port 3 .c, tb := .none } .w64 false false { seq := 0, tsc := .waf, disp := 0 }),
  (0x6214408000200010, .ldf { pr := .always, ta := .port 1 .a, tb := .none } .w16 true { seq := 1, tsc := .none, disp := 16 }),
  (0x633041F0A0540008, .ldfe { pr := .always, ta := .port 3 .c, tb := .slot 5 0 } .w64 false { seq := 2, tsc := .sys, disp := 8 }),
  (0x6430000000600000, .stf { pr := .always, ta := .none, tb := .none } .w64 { seq := 3, tsc := .none, disp := 0 }),
  (0x6500850000000000, .aadd { pr := .always, ta := .slot 5 0, tb := .none } .w8 { seq := 0, tsc := .none, disp := 0 }),
  (0x6610850000200000, .aand { pr := .always, ta := .slot 5 0, tb := .none } .w16 { seq := 1, tsc := .none, disp := 0 }),
  (0x6720850000400000, .aor { pr := .always, ta := .slot 5 0, tb := .none } .w32 { seq := 2, tsc := .none, disp := 0 }),
  (0x6830850000600000, .axor { pr := .always, ta := .slot 5 0, tb := .none } .w64 { seq := 3, tsc := .none, disp := 0 }),
  (0x6900850000800000, .amin { pr := .always, ta := .slot 5 0, tb := .none } .w8 { seq := 4, tsc := .none, disp := 0 }),
  (0x6A10850000A00000, .amax { pr := .always, ta := .slot 5 0, tb := .none } .w16 { seq := 5, tsc := .none, disp := 0 }),
  (0x6B20850000C00000, .aminu { pr := .always, ta := .slot 5 0, tb := .none } .w32 { seq := 6, tsc := .none, disp := 0 }),
  (0x6C30850000E00000, .amaxu { pr := .always, ta := .slot 5 0, tb := .none } .w64 { seq := 7, tsc := .none, disp := 0 }),
  (0x6D00850001000000, .aswap { pr := .always, ta := .slot 5 0, tb := .none } .w8 { seq := 8, tsc := .none, disp := 0 }),
  (0x6E10850001200000, .acas { pr := .always, ta := .slot 5 0, tb := .none } .w16 { seq := 9, tsc := .none, disp := 0 }),
  (0x6F21850000000000, .aadds { pr := .always, ta := .slot 5 0, tb := .none } .w32 true { seq := 0, tsc := .none, disp := 0 }),
  (0x701D850000000000, .afadd { pr := .always, ta := .slot 5 0, tb := .none } .bf16 .dyn { seq := 0, tsc := .none, disp := 0 }),
  (0x7131850000000000, .afmin { pr := .always, ta := .slot 5 0, tb := .none } .fp64 true { seq := 0, tsc := .none, disp := 0 }),
  (0x7220850000000000, .afmax { pr := .always, ta := .slot 5 0, tb := .none } .fp32 false { seq := 0, tsc := .none, disp := 0 }),
  (0x7304000000200000, .fence { pr := .always, ta := .none, tb := .none } 1 .waf),
  (0x7400000000200000, .cfence { pr := .always, ta := .none, tb := .none } 1),
  (0x750100000003FFFF, .sacq { pr := .always, ta := .none, tb := .none } { seq := 0, tsc := .none, q := 63, amt := some 4095 }),
  (0x7600850000007000, .sacqt { pr := .always, ta := .slot 5 0, tb := .none } { seq := 0, tsc := .none, q := 7, amt := none }),
  (0x77018960000C7002, .srel { pr := .always, ta := .slot 9 3, tb := .none } { seq := 0, tsc := .fld, q := 7, amt := some 2 }),
  (0x780040800000FFF0, .syncw { pr := .always, ta := .port 1 .a, tb := .none } { seq := 0, tsc := .none, disp := 65520 }),
  (0x7900896000040011, .sbar { pr := .always, ta := .slot 9 3, tb := .none } 0 .cel 17),
  (0x7A00850000000003, .cbar { pr := .always, ta := .slot 5 0, tb := .none } 0 3),
  (0x7B00000000016000, .send { pr := .always, ta := .none, tb := .none } { seq := 0, tsc := .none, vc := 2, wcnt := 3 }),
  (0x7C00000000038000, .wake { pr := .always, ta := .none, tb := .none } { seq := 0, tsc := .none, vc := 7, wcnt := 0 }),
  (0x7D30850000000000, .aaddb { pr := .always, ta := .slot 5 0, tb := .none } .w64 { seq := 0, tsc := .none, disp := 0 })]
theorem test_decode_memory : Tests.reads Tests.memoryWords = true := by decide
theorem test_fires_memory : (Tests.memoryWords.all fun e => Tests.can { State.reset.withWord e.1 with agenda := [] } e.2) = true := by decide
def Tests.vectorWords : List (Word × Instr) := [
  (0x80200000000077FF, .vld { pr := .always, ta := .none, tb := .none } .w32 { seq := 0, tsc := .none, vr := 3, km := 5, z := true, disp := 511 }),
  (0x8130000000006000, .vst { pr := .always, ta := .none, tb := .none } .w64 { seq := 0, tsc := .none, vr := 3, km := 0, z := false, disp := 0 }),
  (0x8210000000006000, .vlds { pr := .always, ta := .none, tb := .none } .w16 { seq := 0, tsc := .none, vr := 3, km := 0, z := false, disp := 0 }),
  (0x8300000000006000, .vsts { pr := .always, ta := .none, tb := .none } .w8 { seq := 0, tsc := .none, vr := 3, km := 0, z := false, disp := 0 }),
  (0x842000000000642A, .vgath { pr := .always, ta := .none, tb := .none } .w32 { seq := 0, tsc := .none, vr := 3, vi := 4, km := 1, z := false, sc := 2, u := true }),
  (0x852000000000642A, .vscat { pr := .always, ta := .none, tb := .none } .w32 { seq := 0, tsc := .none, vr := 3, vi := 4, km := 1, z := false, sc := 2, u := true }),
  (0x8620850000006000, .vcst { pr := .always, ta := .slot 5 0, tb := .none } .w32 { seq := 0, tsc := .none, vr := 3, km := 0, z := false, disp := 0 }),
  (0x8720000000011020, .vmov { pr := .always, ta := .none, tb := .none } .w32 { seq := 0, vd := 1, va := 2, vb := 0, km := 4, z := false, bf := false, ex := false }),
  (0x88210000000110E0, .vadd { pr := .always, ta := .none, tb := .none } { w := .w32, flt := false, m := 1 } { seq := 0, vd := 1, va := 2, vb := 3, km := 4, z := false, bf := false, ex := false }),
  (0x891D0000000110E2, .vsub { pr := .always, ta := .none, tb := .none } { w := .w16, flt := true, m := 5 } { seq := 0, vd := 1, va := 2, vb := 3, km := 4, z := false, bf := true, ex := false }),
  (0x8A020000000110E0, .vmul { pr := .always, ta := .none, tb := .none } { w := .w8, flt := false, m := 2 } { seq := 0, vd := 1, va := 2, vb := 3, km := 4, z := false, bf := false, ex := false }),
  (0x8B380000000110E0, .vfma { pr := .always, ta := .none, tb := .none } { w := .w64, flt := true, m := 0 } { seq := 0, vd := 1, va := 2, vb := 3, km := 4, z := false, bf := false, ex := false }),
  (0x8C210000000110E0, .vdiv { pr := .always, ta := .none, tb := .none } { w := .w32, flt := false, m := 1 } { seq := 0, vd := 1, va := 2, vb := 3, km := 4, z := false, bf := false, ex := false }),
  (0x8D2B000000011020, .vsqrt { pr := .always, ta := .none, tb := .none } { w := .w32, flt := true, m := 3 } { seq := 0, vd := 1, va := 2, vb := 0, km := 4, z := false, bf := false, ex := false }),
  (0x8E290000000110E0, .vmin { pr := .always, ta := .none, tb := .none } { w := .w32, flt := true, m := 1 } { seq := 0, vd := 1, va := 2, vb := 3, km := 4, z := false, bf := false, ex := false }),
  (0x8F310000000110E0, .vmax { pr := .always, ta := .none, tb := .none } { w := .w64, flt := false, m := 1 } { seq := 0, vd := 1, va := 2, vb := 3, km := 4, z := false, bf := false, ex := false }),
  (0x9001000000011020, .vabs { pr := .always, ta := .none, tb := .none } { w := .w8, flt := false, m := 1 } { seq := 0, vd := 1, va := 2, vb := 0, km := 4, z := false, bf := false, ex := false }),
  (0x9128000000011020, .vneg { pr := .always, ta := .none, tb := .none } { w := .w32, flt := true, m := 0 } { seq := 0, vd := 1, va := 2, vb := 0, km := 4, z := false, bf := false, ex := false }),
  (0x99250000000710E0, .vcmp { pr := .always, ta := .none, tb := .none } { w := .w32, flt := false, m := 5 } { seq := 0, vd := 7, va := 2, vb := 3, km := 4, z := false, bf := false, ex := false }),
  (0x9C27850000001020, .vred { pr := .always, ta := .slot 5 0, tb := .none } { w := .w32, flt := false, m := 7 } { seq := 0, vd := 0, va := 2, vb := 0, km := 4, z := false, bf := false, ex := false }),
  (0x9D28000000011021, .vscan { pr := .always, ta := .none, tb := .none } { w := .w32, flt := true, m := 0 } { seq := 0, vd := 1, va := 2, vb := 0, km := 4, z := false, bf := false, ex := true }),
  (0xA229000000011020, .vexp { pr := .always, ta := .none, tb := .none } { w := .w32, flt := true, m := 1 } { seq := 0, vd := 1, va := 2, vb := 0, km := 4, z := false, bf := false, ex := false }),
  (0xA318000000011022, .vlog { pr := .always, ta := .none, tb := .none } { w := .w16, flt := true, m := 0 } { seq := 0, vd := 1, va := 2, vb := 0, km := 4, z := false, bf := true, ex := false }),
  (0xA428000000011020, .vrsq { pr := .always, ta := .none, tb := .none } { w := .w32, flt := true, m := 0 } { seq := 0, vd := 1, va := 2, vb := 0, km := 4, z := false, bf := false, ex := false }),
  (0xA518000000011020, .vtanh { pr := .always, ta := .none, tb := .none } { w := .w16, flt := true, m := 0 } { seq := 0, vd := 1, va := 2, vb := 0, km := 4, z := false, bf := false, ex := false }),
  (0xA7230000000110E0, .vsrch { pr := .always, ta := .none, tb := .none } { w := .w32, flt := false, m := 3 } { seq := 0, vd := 1, va := 2, vb := 3, km := 4, z := false, bf := false, ex := false }),
  (0x92300000000110E0, .vand { pr := .always, ta := .none, tb := .none } .w64 { seq := 0, vd := 1, va := 2, vb := 3, km := 4, z := false, bf := false, ex := false }),
  (0x93300000000110E0, .vor { pr := .always, ta := .none, tb := .none } .w64 { seq := 0, vd := 1, va := 2, vb := 3, km := 4, z := false, bf := false, ex := false }),
  (0x94300000000110E0, .vxor { pr := .always, ta := .none, tb := .none } .w64 { seq := 0, vd := 1, va := 2, vb := 3, km := 4, z := false, bf := false, ex := false }),
  (0x95100000000110E0, .vshl { pr := .always, ta := .none, tb := .none } .w16 false { seq := 0, vd := 1, va := 2, vb := 3, km := 4, z := false, bf := false, ex := false }),
  (0x97100000000110E0, .vsar { pr := .always, ta := .none, tb := .none } .w16 false { seq := 0, vd := 1, va := 2, vb := 3, km := 4, z := false, bf := false, ex := false }),
  (0x9611000000011020, .vshr { pr := .always, ta := .none, tb := .none } .w16 true { seq := 0, vd := 1, va := 2, vb := 0, km := 4, z := false, bf := false, ex := false }),
  (0x9800000000011060, .vcvt { pr := .always, ta := .none, tb := .none } { seq := 0, vd := 1, va := 2, vb := 1, km := 4, z := false, bf := false, ex := false }),
  (0x9A000000000110C0, .vmask { pr := .always, ta := .none, tb := .none } .w8 0 { seq := 0, vd := 1, va := 2, vb := 3, km := 0, z := false, bf := false, ex := false }),
  (0x9B200000000110E0, .vsel { pr := .always, ta := .none, tb := .none } .w32 { seq := 0, vd := 1, va := 2, vb := 3, km := 4, z := false, bf := false, ex := false }),
  (0x9E210000000110E0, .vperm { pr := .always, ta := .none, tb := .none } .w32 true { seq := 0, vd := 1, va := 2, vb := 3, km := 4, z := false, bf := false, ex := false }),
  (0x9F20000000010020, .vbcast { pr := .always, ta := .none, tb := .none } .w32 false { seq := 0, vd := 1, va := 0, vb := 0, km := 4, z := false, bf := false, ex := false }),
  (0xA020850000001000, .vext { pr := .always, ta := .slot 5 0, tb := .none } .w32 { seq := 0, vd := 0, va := 2, vb := 0, km := 0, z := false, bf := false, ex := false }),
  (0xA120000000010000, .vins { pr := .always, ta := .none, tb := .none } .w32 { seq := 0, vd := 1, va := 0, vb := 0, km := 0, z := false, bf := false, ex := false }),
  (0xA622000000011380, .vbms { pr := .always, ta := .none, tb := .none } { w := .w32, flt := false, m := 2 } { seq := 0, vd := 1, vp := 2, j := 3, k := 4 })]
theorem test_decode_vector : Tests.reads Tests.vectorWords = true := by decide
theorem test_fires_vector : (Tests.vectorWords.all fun e => Tests.can { State.reset.withWord e.1 with agenda := [] } e.2) = true := by decide
def Tests.matrixWords : List (Word × Instr) := [
  (0xB0008500001F8000, .mclaim { pr := .always, ta := .slot 5 0, tb := .none } 0 31 64),
  (0xB100000000070000, .mrel { pr := .always, ta := .none, tb := .none } 0 7),
  (0xB200000000168000, .mclr { pr := .always, ta := .none, tb := .none } 0 22 .a80),
  (0xB3000000000110E0, .mma { pr := .always, ta := .none, tb := .none } { seq := 0, oa := 1, ob := 2, at_ := 3, z := true }),
  (0xB4000000000110E9, .mmasp { pr := .always, ta := .none, tb := .none } { seq := 0, oa := 1, ob := 2, at_ := 3, z := true } 9),
  (0xB5000000000110EA, .mmsc { pr := .always, ta := .none, tb := .none } { seq := 0, oa := 1, ob := 2, at_ := 3, z := true } 10),
  (0xB600000000040000, .mscl { pr := .always, ta := .none, tb := .none } 0 4 .scalar),
  (0xB602000000042800, .mscl { pr := .always, ta := .none, tb := .none } 0 4 (.col 5)),
  (0xB700000000042C00, .mcomb { pr := .always, ta := .none, tb := .none } 0 4 5 .min),
  (0xB800000000040CC0, .mdrn { pr := .always, ta := .none, tb := .none } { seq := 0, at_ := 4, fmt := 3, mode := 1, sat := true, q := none }),
  (0xB901000000040C07, .mdrnt { pr := .always, ta := .none, tb := .none } { seq := 0, at_ := 4, fmt := 3, mode := 0, sat := false, q := some 7 }),
  (0xBA00000000060000, .mtrn { pr := .always, ta := .none, tb := .none } 0 6),
  (0xBB00000000064800, .mcvt { pr := .always, ta := .none, tb := .none } 0 6 true .rtz),
  (0xBC00000000063840, .macc { pr := .always, ta := .none, tb := .none } 0 6 7 1),
  (0xBD00850000000000, .mstat { pr := .always, ta := .slot 5 0, tb := .none } 0)]
theorem test_decode_matrix : Tests.reads Tests.matrixWords = true := by decide
theorem test_fires_matrix : (Tests.matrixWords.all fun e => Tests.can { State.reset.withWord e.1 with agenda := [] } e.2) = true := by decide
def Tests.systemWords : List (Word × Instr) := [
  (0xC000850000000000, .xcpy { pr := .always, ta := .slot 5 0, tb := .none } 0),
  (0xC100850000001808, .xc2d { pr := .always, ta := .slot 5 0, tb := .none } 0 3 4),
  (0xC2008500000001E0, .xgath { pr := .always, ta := .slot 5 0, tb := .none } 0 15),
  (0xC3008500000001E0, .xscat { pr := .always, ta := .slot 5 0, tb := .none } 0 15),
  (0xC400850000000000, .xfill { pr := .always, ta := .slot 5 0, tb := .none } 0),
  (0xC500000000000010, .xarr { pr := .always, ta := .none, tb := .none } 0 16),
  (0xC600850000000000, .xqry { pr := .always, ta := .slot 5 0, tb := .none } 0),
  (0xC700896000140007, .cpost { pr := .always, ta := .slot 9 3, tb := .none } 0 .sys 7),
  (0xC800850000000002, .cwait { pr := .always, ta := .slot 5 0, tb := .none } 0 2),
  (0xC801850000000002, .cwaitChk { pr := .always, ta := .slot 5 0, tb := .none } 0 2),
  (0xC900850000000002, .cpoll { pr := .always, ta := .slot 5 0, tb := .none } 0 2),
  (0xCA00000000000002, .cabrt { pr := .always, ta := .none, tb := .none } 0 .none 2),
  (0xCB00850000000000, .drun { pr := .always, ta := .slot 5 0, tb := .none }),
  (0xCB01850000000000, .drunRel { pr := .always, ta := .slot 5 0, tb := .none }),
  (0xCB02850000000000, .drunRes { pr := .always, ta := .slot 5 0, tb := .none }),
  (0xCB03850000000000, .drunResp { pr := .always, ta := .slot 5 0, tb := .none }),
  (0xCC00000000000000, .dstop { pr := .always, ta := .none, tb := .none }),
  (0xCC01000000000000, .dstopEnd { pr := .always, ta := .none, tb := .none }),
  (0xCD00850000000000, .dpos { pr := .always, ta := .slot 5 0, tb := .none }),
  (0xCD01850000000000, .dposElap { pr := .always, ta := .slot 5 0, tb := .none }),
  (0xCD02850000000000, .dposT0 { pr := .always, ta := .slot 5 0, tb := .none }),
  (0xD000408000000001, .csrr { pr := .always, ta := .port 1 .a, tb := .none } 0x01),
  (0xD100000000000107, .csrw { pr := .always, ta := .none, tb := .none } 0x107),
  (0xD200408000000107, .csrs { pr := .always, ta := .port 1 .a, tb := .none } 0x107),
  (0xD300408000000107, .csrc { pr := .always, ta := .port 1 .a, tb := .none } 0x107),
  (0xD400408000000107, .csrx { pr := .always, ta := .port 1 .a, tb := .none } 0x107),
  (0xD50000000000007F, .scall { pr := .always, ta := .none, tb := .none } 0x7F),
  (0xD600000000000000, .sret { pr := .always, ta := .none, tb := .none }),
  (0xD70000000000BEEF, .brk { pr := .always, ta := .none, tb := .none } 0xBEEF),
  (0xD800000000000000, .xtrig { pr := .always, ta := .none, tb := .none }),
  (0xD900850000000000, .tbind { pr := .always, ta := .slot 5 0, tb := .none }),
  (0xD901850000000000, .tbindGen { pr := .always, ta := .slot 5 0, tb := .none }),
  (0xDA00000000000000, .bcinv { pr := .always, ta := .none, tb := .none }),
  (0xDA01000000000000, .bcinvLine { pr := .always, ta := .none, tb := .none }),
  (0xDB00000000000000, .wfm { pr := .always, ta := .none, tb := .none })]
theorem test_decode_system : Tests.reads Tests.systemWords = true := by decide
theorem test_fires_system : (Tests.systemWords.all fun e => Tests.can { State.reset.withWord e.1 with agenda := [] } e.2) = true := by decide

/-- Examples of the spec: words its chapters assemble. -/
theorem test_decode_examples : Tests.reads [
    (0x0A31408001ABCDEF, .movi { pr := .always, ta := .port 1 .a, tb := .none } .w64 true 0x1ABCDEF),
    (0x0B00410000D159E2, .movhi { pr := .always, ta := .port 2 .a, tb := .none } (.mid 0xD159E2)),
    (0x0B01870000000012, .movhi { pr := .always, ta := .slot 7 0, tb := .none } (.top 0x12)),
    (0x0500000000000000, .done .always)] = true := by decide
/-- Table 6-10, word by word, and a DRD with STEP and CINC of the streaming program. -/
theorem test_vault_words : ([
    (0x800A500100000000, .dchk 10 .ring 16 1 0), (0x0002006401000000, .dact 2 0 100 1), (0x0002406401000000, .dact 2 2 100 1),
    (0x100C00E020000000, .drd 12 0 0 (.rng 16 1 false 0) 0 0), (0x100240E020080000, .drd 2 2 0 (.rng 16 1 false 1) 0 0),
    (0x300E000000000000, .dpre 14 0), (0x3002400000000000, .dpre 2 2), (0x9000100000000000, .dsig 0 false 16 0),
    (0xA000008000000008, .drpt 0 8 8), (0xB000000000000000, .dend 0), (0x100200E020000410, .drd 2 0 0 (.rng 16 1 false 0) 4 1),
    (0x7000000000000006, .dwait 0 6), (0x4005000000000000, .dprea 5)] : List (Word × Instr)).all
      (fun e => decide ((decodeVault e.1).toOption = some e.2)) = true := by decide
theorem test_decode_refuses : ([0x0E00000000000000, 0x0010000000000000, 0x0500000000000001, 0x2030409000000001] : List Word).all
      (fun w => (decode w).toOption.isNone) = true ∧
    ([0xC000000000000000, 0xB000000000000001] : List Word).all (fun w => (decodeVault w).toOption.isNone) = true := by decide
theorem test_table_word : decodeTableWord 64 0x2230864000000001 =
    some (.addi { pr := .always, ta := .slot 6 2, tb := .none } .w64 1) := by decide

/-! ### WellFormed: an ill-formed term for each check -/

/-- A header without targets, a register layout with nothing set. -/
def Tests.h : Hdr := { pr := .always, ta := .none, tb := .none }
def Tests.r : LayR := { seq := 0, vd := 1, va := 2, vb := 3, km := 0, z := false, bf := false, ex := false }
def Tests.o (w : Width) (flt : Bool) (m : BitVec 3) : VOp := { w := w, flt := flt, m := m }
def Tests.l : LayA := { seq := 0, tsc := .none, disp := 0 }
def Tests.ll : LayL := { seq := 0, tsc := .none, vr := 3, km := 0, z := true, disp := 0 }
def Tests.illFormed (l : List Instr) : Bool := l.all fun i => !i.wf

theorem test_wf_scalar : Tests.illFormed [
    .tbit Tests.h .w8 8, .shl Tests.h .w8 (some 8), .shr Tests.h .w16 (some 16), .sar Tests.h .w32 (some 32), .rol Tests.h .w8 (some 63),
    .ror Tests.h .w16 (some 20), .bfx Tests.h .w8 7 1, .bfxu Tests.h .w32 0 32, .bfi Tests.h .w64 63 1,
    .add { Tests.h with ta := .malformed 5 } .w8, .null { Tests.h with tb := .malformed 0x7FF }] = true := by decide
theorem test_wf_memory : Tests.illFormed [
    .ld Tests.h .w32 false false true Tests.l, .ld Tests.h .w64 true false true Tests.l, .ld Tests.h .w8 false true false Tests.l,
    .ld { Tests.h with ta := .slot 5 0 } .w64 false false true { Tests.l with tsc := .cel },
    .st Tests.h .w32 false true Tests.l, .st Tests.h .w16 true false Tests.l, .afadd Tests.h .fp32 .sr Tests.l, .fence Tests.h 0 .none,
    .sbar Tests.h 0 .none 20, .send Tests.h { seq := 0, tsc := .none, vc := 6, wcnt := 0 },
    .wake Tests.h { seq := 0, tsc := .none, vc := 6, wcnt := 0 }, .wake Tests.h { seq := 0, tsc := .none, vc := 1, wcnt := 1 },
    .st { Tests.h with ta := .port 1 .a } .w64 false false { Tests.l with tsc := .waf },
    .st { Tests.h with ta := .slot 5 0 } .w64 false false Tests.l, .aadd { Tests.h with ta := .port 1 .a } .w64 Tests.l,
    .fence { Tests.h with ta := .slot 5 0 } 0 .cel] = true := by decide
theorem test_wf_vector : Tests.illFormed [
    .vst Tests.h .w8 Tests.ll, .vsts Tests.h .w8 Tests.ll, .vcst Tests.h .w8 Tests.ll, .vcst Tests.h .w8 { Tests.ll with z := false, disp := 1 },
    .vscat Tests.h .w8 { seq := 0, tsc := .none, vr := 1, vi := 2, km := 0, z := true, sc := 0, u := false },
    .vmov Tests.h .w8 Tests.r, .vadd Tests.h (Tests.o .w8 false 3) Tests.r, .vadd Tests.h (Tests.o .w8 true 0) Tests.r,
    .vadd Tests.h (Tests.o .w32 true 0) { Tests.r with bf := true }, .vsub Tests.h (Tests.o .w8 false 3) Tests.r,
    .vmul Tests.h (Tests.o .w32 true 6) Tests.r, .vfma Tests.h (Tests.o .w8 false 1) Tests.r, .vdiv Tests.h (Tests.o .w8 false 2) Tests.r,
    .vsqrt Tests.h (Tests.o .w32 false 0) { Tests.r with vb := 0 }, .vsqrt Tests.h (Tests.o .w32 true 0) Tests.r,
    .vmin Tests.h (Tests.o .w8 false 2) Tests.r, .vmax Tests.h (Tests.o .w32 true 2) Tests.r,
    .vabs Tests.h (Tests.o .w8 false 2) { Tests.r with vb := 0 }, .vneg Tests.h (Tests.o .w32 true 1) { Tests.r with vb := 0 },
    .vand Tests.h .w8 { Tests.r with bf := true }, .vor Tests.h .w8 { Tests.r with ex := true }, .vxor Tests.h .w8 { Tests.r with bf := true },
    .vshl Tests.h .w8 true Tests.r, .vshr Tests.h .w8 true Tests.r, .vsar Tests.h .w8 true Tests.r,
    .vcvt Tests.h { Tests.r with bf := true }, .vcmp Tests.h (Tests.o .w8 false 0) { Tests.r with vd := 8 },
    .vcmp Tests.h (Tests.o .w8 false 6) Tests.r, .vmask Tests.h .w8 0 { Tests.r with vd := 8 }, .vmask Tests.h .w8 4 Tests.r,
    .vmask Tests.h .w8 5 Tests.r, .vmask Tests.h .w8 6 Tests.r, .vmask Tests.h .w8 0 { Tests.r with km := 1 },
    .vsel Tests.h .w8 Tests.r] = true := by decide
theorem test_wf_lanes : Tests.illFormed [
    .vred Tests.h (Tests.o .w32 true 3) { Tests.r with vd := 0, vb := 0 }, .vred Tests.h (Tests.o .w8 false 0) Tests.r,
    .vscan Tests.h (Tests.o .w8 false 0) Tests.r, .vperm Tests.h .w8 false { Tests.r with bf := true }, .vbcast Tests.h .w8 false Tests.r,
    .vbcast Tests.h .w64 true { Tests.r with vb := 8 }, .vext Tests.h .w8 Tests.r, .vins Tests.h .w8 Tests.r,
    .vexp Tests.h (Tests.o .w64 true 0) { Tests.r with vb := 0 }, .vlog Tests.h (Tests.o .w32 true 2) { Tests.r with vb := 0 },
    .vrsq Tests.h (Tests.o .w32 false 0) { Tests.r with vb := 0 }, .vtanh Tests.h (Tests.o .w32 true 1) { Tests.r with vb := 0 },
    .vbms Tests.h (Tests.o .w64 false 0) { seq := 0, vd := 1, vp := 2, j := 3, k := 0 },
    .vbms Tests.h (Tests.o .w8 false 1) { seq := 0, vd := 1, vp := 2, j := 0, k := 0 }, .vsrch Tests.h (Tests.o .w8 false 4) Tests.r]
    = true := by decide
theorem test_wf_engines : Tests.illFormed [
    .mclaim Tests.h 0 0 65, .mclr Tests.h 0 24 .i40, .mclr Tests.h 0 1 .a80, .mma Tests.h { seq := 0, oa := 0, ob := 0, at_ := 24, z := false },
    .mmasp Tests.h { seq := 0, oa := 0, ob := 0, at_ := 24, z := false } 0, .mmsc Tests.h { seq := 0, oa := 0, ob := 0, at_ := 24, z := false } 0,
    .mscl Tests.h 0 24 .scalar, .mcomb Tests.h 0 24 0 .add, .mcomb Tests.h 0 0 24 .add,
    .mdrn Tests.h { seq := 0, at_ := 24, fmt := 1, mode := 0, sat := false, q := none },
    .mdrn Tests.h { seq := 0, at_ := 0, fmt := 0x12, mode := 0, sat := false, q := none },
    .mdrnt Tests.h { seq := 0, at_ := 0, fmt := 1, mode := 6, sat := false, q := none },
    .mtrn Tests.h 0 24, .mcvt Tests.h 0 24 false .rne, .macc Tests.h 0 24 0 0, .macc Tests.h 0 0 0 0x12, .xarr Tests.h 0 20,
    .csrr Tests.h 0x016, .csrw Tests.h 0x3FF, .csrs Tests.h 0x11B, .csrc Tests.h 0x1C5, .csrx Tests.h 0x2A0] = true := by decide
theorem test_wf_vault : Tests.illFormed [
    .drd 0 0 0 (.rng 20 0 false 0) 0 0, .dwr 0 0 0 (.rng 31 0 true 0) 0 0, .dchk 0 .ring 20 0 0, .dchk 0 .sync 8 0 0, .dsig 0 true 1 0,
    .dsig 0 false 20 0, .dsig 0 false 1 5, .drpt 0 0 1, .drpt 0 1 0] = true := by decide
theorem test_wf_good : ([.add Tests.h .w8, .ld Tests.h .w64 false true true Tests.l, .sbar Tests.h 0 .none 19, .mclaim Tests.h 0 31 64,
    .bfi Tests.h .w64 63 0, .vadd Tests.h (Tests.o .w8 false 2) Tests.r, .csrr Tests.h 0x29E, .dchk 0 .sync 7 0 0, .drpt 0 1 1] :
      List Instr).all Instr.wf = true := by decide

/-! ### Witnesses: states and operands that meet the hypotheses of the statements.  For the statements of the form "whenever it
may fire", test_fires_* above shows a firing of every instruction; here stand the further conditions. -/

def Tests.hs : Hdr := { pr := .always, ta := .slot 9 1, tb := .none }
def Tests.hv : Hdr := { pr := .always, ta := .port 1 .a, tb := .none }
def Tests.loc (n : Nat) : Tok := { v := 0x2000000000000000 + BitVec.ofNat 64 n }
def Tests.bad : Tok := { v := 0x2000000000000040, poi := true }
/-- What an address check answers: a fault, here, the window, a tag. -/
def Tests.route (x : Except (Cause × Word) (Word × Route)) : Option (Option Route) :=
  match x with
  | .error _ => some none
  | .ok r => some (some r.2)
def Tests.errs (x : Except (Cause × Word) (Word × Route)) : Bool := Tests.route x == some none
def Tests.isHere (x : Except (Cause × Word) (Word × Route)) : Bool :=
  match x with
  | .ok (_, .here _) => true
  | _ => false
def Tests.isMmio (x : Except (Cause × Word) (Word × Route)) (p : Nat → Bool) : Bool :=
  match x with
  | .ok (_, .mmio o) => p o
  | _ => false
def Tests.isTag (x : Except (Cause × Word) (Word × Route)) : Bool :=
  match x with
  | .ok (_, .tag _) => true
  | _ => false
def Tests.acc (e : Env) (n : Nat) (al : Bool) : Except (Cause × Word) (Word × Route) := e.access (e.tok .a) 0 n al

/-- BitFields: the widest field, the highest one, and one that fills a byte. -/
theorem witness_bit_fields : (0 : BitVec 6).toNat + (63 : BitVec 6).toNat + 1 ≤ Width.w64.bits ∧
    (63 : BitVec 6).toNat + (0 : BitVec 6).toNat + 1 ≤ Width.w64.bits ∧ (7 : BitVec 6).toNat + (0 : BitVec 6).toNat + 1 ≤ Width.w8.bits := by
  decide
/-- Exits: offset 0 lies within the space, one block below address 0 and one beyond its top do not. -/
def Tests.within (e : Env) (off : Int) : Bool :=
  let w : Nat := if e.blk.addr.extractLsb' 61 3 = 1#3 then 32 else 35
  decide (0 ≤ (e.blk.addr.toNat % 2 ^ w : Int) + off * 64 ∧ (e.blk.addr.toNat % 2 ^ w : Int) + off * 64 < 2 ^ w)
theorem witness_exits : Tests.can (Tests.at_ (.br .always 0)) (.br .always 0) (fun e => Tests.within e 0) = true ∧
    Tests.can (Tests.at_ (.br .always 0x3FFFFFF)) (.br .always 0x3FFFFFF) (fun e => !Tests.within e (-1)) = true ∧
    Tests.can (Tests.at_ (.call Tests.hv 0x1FFFFFF)) (.call Tests.hv 0x1FFFFFF) (fun e => Tests.within e (2 ^ 25 - 1)) = true ∧
    Tests.can (Tests.at_ (.call Tests.hv 0x2000000)) (.call Tests.hv 0x2000000) (fun e => !Tests.within e (-2 ^ 25)) = true := by decide
/-- EffectiveAddress: a poisoned base, a closed space, a carry out of the offset part, and the two ends of the LOC space. -/
theorem witness_effective_address :
    (effAddr { v := 0, poi := true } 0).toOption = none ∧ (effAddr { v := 0x7FFFFFFFFFFFFFFF } 1).toOption = none ∧
    (effAddr { v := 0x20000000FFFFFFFF } 1).toOption = none ∧ (effAddr { v := 0x2000000000000000 } (-1)).toOption = none ∧
    (effAddr { v := 0x20000000FFFFFFFE } 1).toOption = some 0x20000000FFFFFFFF ∧
    (effAddr { v := 0x2000000000000001 } (-1)).toOption = some 0x2000000000000000 := by decide

def Tests.st : Instr := .st Tests.h .w64 false false Tests.l
def Tests.ldfe : Instr := .ldfe { Tests.h with tb := .slot 5 0 } .w64 false Tests.l
def Tests.mine (s : State) : State := s.onCell 0 fun k => { k with treech := [(0, 0x8000000000000000)] }
/-- StoresQueue: each of the three outcomes for ST, STF and LDFE; the user code region ends at 1 KiB. -/
theorem witness_stores_queue :
    Tests.can (Tests.at_ Tests.st Tests.bad) Tests.st (fun e => Tests.errs (Tests.acc e 8 false)) = true ∧
    Tests.can (Tests.mine (Tests.at_ Tests.st (Tests.loc 0x40000200))) Tests.st (fun e => Tests.isMmio (Tests.acc e 8 false) fun o => !treeInj o) = true ∧
    Tests.can (Tests.mine (Tests.at_ Tests.st (Tests.loc 0x40000000))) Tests.st (fun e => Tests.isMmio (Tests.acc e 8 false) treeInj) = true ∧
    Tests.can (Tests.at_ Tests.st (Tests.loc 0x3FFF8)) Tests.st (fun e => Tests.isHere (Tests.acc e 8 false)) = true ∧
    Tests.can (Tests.at_ (.stf Tests.h .w64 Tests.l) (Tests.loc 8)) (.stf Tests.h .w64 Tests.l) (fun e => Tests.isHere (Tests.acc e 8 false)) = true ∧
    Tests.can (Tests.mine (Tests.at_ Tests.ldfe (Tests.loc 0x40000100))) Tests.ldfe
      (fun e => Tests.isMmio (Tests.acc e 8 false) fun o => (treeExt o).isSome) = true ∧
    Tests.can (Tests.at_ Tests.ldfe (Tests.loc 8)) Tests.ldfe (fun e => Tests.isHere (Tests.acc e 8 false)) = true := by decide
/-- AtomicsQueue: the same for an aligned atomic. -/
theorem witness_atomics_queue : let i : Instr := .aadd Tests.h .w64 Tests.l
    Tests.can (Tests.at_ i (Tests.loc 4)) i (fun e => Tests.errs (Tests.acc e 8 true)) = true ∧
    Tests.can (Tests.at_ i (Tests.loc 0x40000200)) i (fun e => Tests.isMmio (Tests.acc e 8 true) fun _ => true) = true ∧
    Tests.can (Tests.at_ i (Tests.loc 8)) i (fun e => Tests.isHere (Tests.acc e 8 true)) = true := by decide

def Tests.ld : Instr := .ld Tests.hv .w64 false false false Tests.l
/-- LoadsDeliver: a bad address, a local place that nothing holds, no earlier store, a tag. -/
theorem witness_loads_deliver :
    Tests.can (Tests.at_ Tests.ld Tests.bad) Tests.ld (fun e => Tests.errs (Tests.acc e 8 false) && decide (e.s.waitOf e.wait = .emitted)) = true ∧
    Tests.can (Tests.at_ Tests.ld (Tests.loc 0x3FFF8)) Tests.ld (fun e => Tests.isHere (Tests.acc e 8 false) &&
      decide (e.s.waitOf e.wait = .emitted) && e.loadClear && e.localClear && decide (e.priorStores = [])) = true ∧
    Tests.can { Tests.at_ Tests.ld with ftab := [(0, 0x8000)] } Tests.ld (fun e => Tests.isTag (Tests.acc e 8 false)) = true := by decide

/-- A TCM word of cell 0, full. -/
def Tests.fullWord (s : State) (off n : Nat) : State :=
  { s with mem := s.mem.applyAll (s.fullOps { r := .tcm 0, off := off } n true) }
def Tests.tcm (off : Nat) : Place := { r := .tcm 0, off := off }
/-- WordWaits: LDF of a full and of an empty word, SYNCW of a generation reached (2^31 - 1 behind) and of one not (2^31). -/
theorem witness_word_waits : let i : Instr := .ldf Tests.hv .w64 false Tests.l
    let j : Instr := .syncw Tests.hv Tests.l
    Tests.can (Tests.fullWord (Tests.at_ i (Tests.loc 8)) 8 8) i (fun e => Tests.isHere (Tests.acc e 8 false) && e.s.allFull (Tests.tcm 8) 8 &&
      e.s.waits.isEmpty && e.loadClear && e.localClear) = true ∧
    Tests.can (Tests.at_ i (Tests.loc 8)) i (fun e => !e.s.allFull (Tests.tcm 8) 8) = true ∧
    Tests.can (Tests.at_ j (Tests.loc 16) { v := 0x80000001 }) j (fun e => Tests.isHere (Tests.acc e 16 true) && e.loadClear && e.localClear &&
      decide ((BitVec.ofNat 32 (e.s.syncGen (Tests.tcm 16)) - (e.tok .b).v.setWidth 32).toNat < 2 ^ 31)) = true ∧
    Tests.can (Tests.at_ j (Tests.loc 16) { v := 0x80000000 }) j (fun e =>
      decide (¬ (BitVec.ofNat 32 (e.s.syncGen (Tests.tcm 16)) - (e.tok .b).v.setWidth 32).toNat < 2 ^ 31)) = true := by decide
/-- Fences: clear, and with a drop the fence covers. -/
theorem witness_fences : let i : Instr := .fence Tests.h 0 .waf
    Tests.can (Tests.at_ i) i (fun e => e.fenceOk .waf && ((e.c.drops.find? fun d => covers .waf d.2.2.2) == none)) = true ∧
    Tests.can ((Tests.at_ i).onCtx 0 0 fun c => { c with drops := [(3, 0x06, 0x44, .cel)] }) i (fun e => e.fenceOk .waf &&
      ((e.c.drops.find? fun d => covers .waf d.2.2.2) == some (3, 0x06, 0x44, .cel))) = true := by decide
/-- SynchronisationQueues: a clean amount, a valid ring, the own bit of a barrier, a translated tag, an owned port with buffers. -/
def Tests.q (n : Option (BitVec 12)) : LayQ := { seq := 0, tsc := .none, q := 63, amt := n }
def Tests.syncState (s : State) : State :=
  let s := s.onCluster 0 fun c => { c with rd := [(15, { cfg := 0x8000000000000000 })], cb := [(7, { mask := 1 })] }
  let s := s.onCell 0 fun k => { k with cpcfg := [(7, 0x8000000000000040)] }
  { s with ftab := [(127, 0x8000)] }
theorem witness_synchronisation :
    Tests.can (Tests.at_ (.sacq Tests.h (Tests.q none))) (.sacq Tests.h (Tests.q none)) (fun e => !(e.tok .b).poi) = true ∧
    Tests.can (Tests.syncState (Tests.at_ (.sbar Tests.h 0 .none 15))) (.sbar Tests.h 0 .none 15)
      (fun e => (e.s.ringAt (ringRef e.cell 15)).valid) = true ∧
    Tests.can (Tests.syncState (Tests.at_ (.cbar Tests.h 0 7))) (.cbar Tests.h 0 7)
      (fun e => ((e.s.clusterAt (clusterOf e.cell)).cb.get {} 7).mask.getLsbD (4 * (e.cell % 16) + e.x)) = true ∧
    Tests.can (Tests.syncState (Tests.at_ (.send Tests.h { seq := 0, tsc := .none, vc := 7, wcnt := 3 }) { v := 0xFE0000 }))
      (.send Tests.h { seq := 0, tsc := .none, vc := 7, wcnt := 3 }) (fun e => !(e.tok .a).poi && (e.tok .a).v.extractLsb' 24 40 == 0 &&
        (e.tok .a).v.extractLsb' 0 4 == 0 && (e.s.ftab.get 0 ((e.tok .a).v.extractLsb' 17 7).toNat).getLsbD 15) = true ∧
    Tests.can (Tests.syncState (Tests.at_ (.cpost Tests.h 0 .none 7) (Tests.loc 0x3FFC0) (Tests.loc 0))) (.cpost Tests.h 0 .none 7)
      (fun e => e.ownsPort 7 && (e.bufferFault (e.tok .a) 64 == none) && (e.bufferFault (e.tok .b) 64 == none)) = true ∧
    Tests.can (Tests.syncState (Tests.at_ (.cwait Tests.hs 0 7))) (.cwait Tests.hs 0 7) (fun e => e.ownsPort 7) = true := by decide
/-- VectorQueues: a charge that fits and each check passing and failing. -/
def Tests.lv : LayL := { seq := 0, tsc := .none, vr := 31, km := 0, z := false, disp := 0 }
def Tests.lx : LayX := { seq := 0, tsc := .none, vr := 31, vi := 1, km := 0, z := false, sc := 0, u := false }
theorem witness_vector_queues :
    Tests.can (Tests.at_ (.vld Tests.h .w8 Tests.lv) (Tests.loc 0x3FFC0)) (.vld Tests.h .w8 Tests.lv)
      (fun e => e.engOk false 1 && e.lineChk Tests.lv false == none) = true ∧
    Tests.can (Tests.at_ (.vst Tests.h .w8 Tests.lv) Tests.bad) (.vst Tests.h .w8 Tests.lv)
      (fun e => e.engOk false 1 && (e.lineChk Tests.lv true).isSome) = true ∧
    Tests.can (Tests.at_ (.vlds Tests.h .w8 Tests.lv) (Tests.loc 0) { v := 8 }) (.vlds Tests.h .w8 Tests.lv)
      (fun e => e.strideChk .w8 Tests.lv false == none) = true ∧
    Tests.can (Tests.at_ (.vsts Tests.h .w8 Tests.lv) (Tests.loc 0) Tests.bad) (.vsts Tests.h .w8 Tests.lv)
      (fun e => (e.strideChk .w8 Tests.lv true).isSome) = true ∧
    Tests.can (Tests.at_ (.vgath Tests.h .w8 Tests.lx) (Tests.loc 0)) (.vgath Tests.h .w8 Tests.lx) (fun e => e.baseChk == none) = true ∧
    Tests.can (Tests.at_ (.vscat Tests.h .w8 Tests.lx) Tests.bad) (.vscat Tests.h .w8 Tests.lx) (fun e => e.baseChk.isSome) = true ∧
    Tests.can (Tests.at_ (.vcst Tests.h .w8 Tests.lv) (Tests.loc 0) (Tests.loc 64)) (.vcst Tests.h .w8 Tests.lv) (fun e => e.cstChk == none) = true ∧
    Tests.can (Tests.at_ (.vcst Tests.h .w8 Tests.lv) Tests.bad) (.vcst Tests.h .w8 Tests.lv) (fun e => e.cstChk.isSome) = true ∧
    Tests.can (Tests.at_ (.vcvt Tests.h { Tests.r with vb := 0 }) {} { v := 0x0101 }) (.vcvt Tests.h { Tests.r with vb := 0 })
      (fun e => (convWordOf (e.tok .b).v).any fun c => vcvtOk c 0) = true := by decide
/-- MatrixQueues: a format word with a path, one without, a poisoned one; a drain whose ports are good, and not. -/
def Tests.lm : LayM := { seq := 0, oa := 0, ob := 31, at_ := 23, z := true }
def Tests.ldr : LayD := { seq := 0, at_ := 23, fmt := 1, mode := 0, sat := false, q := some 63 }
theorem witness_matrix_queues :
    Tests.can (Tests.at_ (.mma Tests.h Tests.lm) { v := 771 }) (.mma Tests.h Tests.lm)
      (fun e => e.engOk true (mmaCharge (.mma Tests.h Tests.lm) (e.tok .a).v) && (mmaPath (.mma Tests.h Tests.lm) (e.tok .a).v).isSome) = true ∧
    Tests.can (Tests.at_ (.mmasp Tests.h Tests.lm 31) { v := 771 }) (.mmasp Tests.h Tests.lm 31)
      (fun e => e.engOk true (mmaCharge (.mmasp Tests.h Tests.lm 31) (e.tok .a).v) &&
        (mmaPath (.mmasp Tests.h Tests.lm 31) (e.tok .a).v).isSome) = true ∧
    Tests.can (Tests.at_ (.mmsc Tests.h Tests.lm 31) { v := 4626 }) (.mmsc Tests.h Tests.lm 31)
      (fun e => e.engOk true (mmaCharge (.mmsc Tests.h Tests.lm 31) (e.tok .a).v) &&
        (mmaPath (.mmsc Tests.h Tests.lm 31) (e.tok .a).v).isSome) = true ∧
    Tests.can (Tests.at_ (.mma Tests.h Tests.lm) { v := 0 }) (.mma Tests.h Tests.lm)
      (fun e => e.engOk true (mmaCharge (.mma Tests.h Tests.lm) (e.tok .a).v) && mmaPath (.mma Tests.h Tests.lm) (e.tok .a).v == none) = true ∧
    Tests.can (Tests.at_ (.mma Tests.h Tests.lm) Tests.bad) (.mma Tests.h Tests.lm)
      (fun e => e.engOk true (mmaCharge (.mma Tests.h Tests.lm) (e.tok .a).v) && (e.tok .a).poi) = true ∧
    Tests.can (Tests.at_ (.mdrn Tests.h Tests.ldr) (Tests.loc 0x3FFC0)) (.mdrn Tests.h Tests.ldr)
      (fun e => e.engOk true 48 && e.drainChk Tests.ldr false == none) = true ∧
    Tests.can (Tests.at_ (.mdrnt Tests.h Tests.ldr) (Tests.loc 32)) (.mdrnt Tests.h Tests.ldr)
      (fun e => e.engOk true 48 && (e.drainChk Tests.ldr true).isSome) = true := by decide
/-- TransferQueues: clean ports and a poisoned one. -/
theorem witness_transfer_queues :
    Tests.can (Tests.at_ (.xcpy Tests.h 0) (Tests.loc 0)) (.xcpy Tests.h 0) (fun e => !(e.tok .a).poi && !(e.tok .b).poi && !(e.tok .hi).poi) = true ∧
    Tests.can (Tests.at_ (.xcpy Tests.h 0) Tests.bad) (.xcpy Tests.h 0) (fun e => (e.tok .a).poi) = true := by decide
/-- VaultCommandsSent: clean ports. -/
theorem witness_vault_commands : Tests.can (Tests.at_ (.drun Tests.h)) (.drun Tests.h)
    (fun e => (usedPorts e.f e.n).all fun q => !(e.tok q).poi) = true := by decide
/-- SystemInstructions: a CSR of the oldest block's alone and one of any; BRK disabled and enabled; a binding and no binding. -/
theorem witness_system :
    Tests.can (Tests.at_ (.csrr Tests.hv 0x100)) (.csrr Tests.hv 0x100) (fun e => e.pos == 0) = true ∧
    Tests.can (Tests.at_ (.csrs Tests.hv 0x000)) (.csrs Tests.hv 0x000) (fun e => e.pos == 0 && !(e.tok .a).poi) = true ∧
    Tests.can (Tests.at_ (.csrw Tests.h 0x000)) (.csrw Tests.h 0x000) (fun e => !(e.tok .a).poi) = true ∧
    Tests.can (Tests.at_ (.brk Tests.h 0xFFFF)) (.brk Tests.h 0xFFFF) (fun e => !(e.s.cellAt e.cell).hgrp.getLsbD 32) = true ∧
    Tests.can ((Tests.at_ (.brk Tests.h 0)).onCell 0 fun k => { k with hgrp := 0x100010000 }) (.brk Tests.h 0)
      (fun e => (e.s.cellAt e.cell).hgrp.getLsbD 32) = true ∧
    Tests.can (Tests.at_ (.tbind Tests.hs) { v := 0x7F }) (.tbind Tests.hs) (fun e => bindTarget (e.tok .a).v != none) = true ∧
    Tests.can (Tests.at_ (.tbind Tests.hs) { v := 0x80 }) (.tbind Tests.hs) (fun e => bindTarget (e.tok .a).v == none) = true := by decide

/-! ### Witnesses: blocks -/

/-- The block k64 of Table 11-6 at TCM offset 0 of cell 0, and a context about to enter it. -/
def Tests.k64 : List Word := [0x1010000100000000, 0x80, 0, 0, 0, 0, 0, 0, 0x0A31408001ABCDEF, 0x0B00410000D159E2, 0x0B01870000000012,
  0x0500000000000000, 0, 0, 0, 0]
def Tests.put (s : State) (p : Place) (l : List Word) : State := s.stored p (l.flatMap fun w => bytesOf 8 w.toNat)
def Tests.atK64 : State := ((Tests.put State.reset (Tests.tcm 0) Tests.k64).onCell 0 fun k => { k with codeLim := 1 }).onCtx 0 0 fun c => { c with next := .at_ 0x2000000000000000 }
theorem witness_block_entry : Tests.atK64.entryOpen 0 = true ∧ Tests.atK64.nextIn 0 = some 0 ∧
    Tests.gives (.blockEntry 0 0) Tests.atK64 (fun t => (t.cellAt 0).entered && (t.cellAt 0).lastIn == 0 &&
      (t.ctxAt 0 0).flight.map (fun b => (b.entryFault.isNone, b.insts.length)) == [(true, 4)]) = true := by decide
/-- A block that has taken its exit, with two slot writes. -/
def Tests.doneBlock : Block := { id := 5, addr := 0x2000000000000040, exits := [(0, .addr { v := 0x2000000000000080 })], swr := [
  (7, 1, { v := 9 }), (8, 0, { v := 10, poi := true })] }
def Tests.withBlock (b : Block) : State := State.reset.onCtx 0 0 fun c => { c with flight := [b] }
theorem witness_block_commit : let s := Tests.withBlock Tests.doneBlock
    s.oldest 0 0 = some Tests.doneBlock ∧ s.canCommit 0 0 Tests.doneBlock (fun _ => false) = true ∧
    Tests.gives (.blockCommit 0 0) s (fun t => let c := t.ctxAt 0 0
      c.ccount == 1 && c.next == .at_ 0x2000000000000080 && c.flight == [] && !c.stopped &&
      c.slotAt 7 == { v := 9, life := 1, wrote := some 1 } && c.slotAt 8 == { v := 10, poi := true, wrote := some 1 }) = true := by decide
def Tests.badBlock : Block := { id := 5, addr := 0x2000000000000040, faults := [{ idx := 3, cause := 0x06, tval := 0x77 }], excd := true }
theorem witness_block_fault : let s := Tests.withBlock Tests.badBlock
    s.oldest 0 0 = some Tests.badBlock ∧ s.complete 0 0 Tests.badBlock = true ∧
    s.commitFault 0 0 Tests.badBlock = some { idx := 3, cause := 0x06, tval := 0x77 } ∧
    Tests.gives (.blockCommit 0 0) s (fun t => let c := t.ctxAt 0 0
      c.stopped && c.flight == [] && c.tcause == 0x8000000000000006 && c.tblk == 0x2000000000000040 && c.tidx == 3 && c.tval == 0x77 &&
      c.ccount == 0 && t.mem == s.mem && c.sq == []) = true := by decide
def Tests.oldSlot : State := State.reset.onCtx 0 0 fun c =>
  { c with slots := [(7, { v := 9, life := 1, wrote := some 3 })], ccount := 3 + BitVec.ofNat 64 (lifeOf 1) }
theorem witness_slot_expiry : let c := Tests.oldSlot.ctxAt 0 0
    (c.slotAt (BitVec.ofNat 6 7)).wrote = some 3 ∧ (c.slotAt (BitVec.ofNat 6 7)).life ≠ 0 ∧
    lifeOf (c.slotAt (BitVec.ofNat 6 7)).life ≤ (c.ccount - 3).toNat ∧
    Tests.gives (.slotExpiry 0 0 7) Tests.oldSlot (fun t => (t.ctxAt 0 0).slotAt 7 == { v := 9, life := 1, wrote := none }) = true := by decide
def Tests.landing : State := State.reset.onCtx 0 0 fun c =>
  { c with lands := [{ id := 1, slot := 9, life := 2, val := none }, { id := 2, slot := 63, life := 2, val := some { v := 5 } }], ccount := 4 }
theorem witness_landing : let c := Tests.landing.ctxAt 0 0
    c.lands[1]? = some { id := 2, slot := 63, life := 2, val := some { v := 5 } } ∧ (∀ k ∈ c.lands.take 1, k.slot ≠ 63) ∧
    Tests.gives (.resultLanding 0 0 1) Tests.landing (fun t => (t.ctxAt 0 0).slotAt 63 == { v := 5, life := 2, wrote := some 4 } &&
      (t.ctxAt 0 0).lands == c.lands.eraseIdx 1) = true := by decide
def Tests.lateDrop : State := State.reset.onCtx 0 0 fun c => { c with lateDrop := true, sterr := 0x0600000000000000, sterra := 0x44 }
theorem witness_late_drop : let c := Tests.lateDrop.ctxAt 0 0
    c.lateDrop = true ∧ c.flight = [] ∧ c.stopped = false ∧
    Tests.gives (.lateDropStop 0 0) Tests.lateDrop (fun t => let d := t.ctxAt 0 0
      d.stopped && d.tcause == 0x8000000000000006 && d.tblk == c.nextAddr && d.tidx == 0xFF && d.tval == 0x44 && !d.lateDrop) = true := by decide

/-! ### Witnesses: the store queue, homes and words -/

/-- A command at the head of the store queue of context 0 of cell 0. -/
def Tests.queued (c : Cmd) : State := State.reset.onCtx 0 0 fun q => { q with sq := [c] }
def Tests.cmd (i : Instr) (rt : Route) (n : Nat) (b : Tok := {}) : Cmd := { id := 4, i := i, route := rt, len := n, b := b }
def Tests.stCmd : Cmd := Tests.cmd (.st Tests.h .w64 true false Tests.l) (.here (Tests.tcm 0x3FFF8)) 8 { v := 0x0102030405060708 }
theorem witness_local_store : let s := Tests.queued Tests.stCmd
    s.mem.wf = true ∧ (s.fieldAt 0).gated = false ∧ (s.ctxAt 0 0).sq = [Tests.stCmd] ∧
    s.waitOf Tests.stCmd.wait = .emitted ∧ unitEnd Tests.stCmd.fmode true 0x3FFF8 8 0 = 8 ∧ Tests.stCmd.data.length = 8 ∧
    Tests.gives (.storeQueueLeave 0 0) s (fun t => (t.ctxAt 0 0).sq == [] && t.mem == s.mem.applyAll (s.writeOps (Tests.tcm 0x3FFF8) Tests.stCmd.data) &&
      t.mem.read (keyOf 1 0 0x3FFF8) == 8 && t.mem.read (keyOf 1 0 0x3FFFF) == 1 && t.mem.read (keyOf 1 0 0x3FFF7) == 0) = true := by decide
/-- Table 13-3 at width 8, one value each. -/
theorem test_atomic_values :
    atomicNew 0 (.aadd Tests.h .w8 Tests.l) 0xFF 2 0 = some 1 ∧ atomicNew 0 (.amin Tests.h .w8 Tests.l) 0x80 1 0 = some 0x80 ∧
    atomicNew 0 (.aminu Tests.h .w8 Tests.l) 0x80 1 0 = some 1 ∧ atomicNew 0 (.amax Tests.h .w8 Tests.l) 0x80 1 0 = some 1 ∧
    atomicNew 0 (.aadds Tests.h .w8 false Tests.l) 0x7F 1 0 = some 0x7F ∧ atomicNew 0 (.aadds Tests.h .w8 true Tests.l) 0xFF 1 0 = some 0xFF ∧
    atomicNew 0 (.acas Tests.h .w8 Tests.l) 5 5 9 = some 9 ∧ atomicNew 0 (.acas Tests.h .w8 Tests.l) 5 6 9 = none ∧
    atomicNew 0 (.aaddb Tests.h .w8 Tests.l) 112 16 128 = some 128 ∧ atomicNew 0 (.aaddb Tests.h .w8 Tests.l) 120 16 128 = none := by decide
def Tests.aCmd : Cmd := Tests.cmd (.aadd { Tests.h with ta := .slot 5 0 } .w64 Tests.l) (.here (Tests.tcm 8)) 8 { v := 3 }
theorem witness_local_atomic : let s := (Tests.queued Tests.aCmd).onCtx 0 0 fun c => { c with lands := [{ id := 4, slot := 5, life := 0 }] }
    (s.fieldAt 0).gated = false ∧ (s.ctxAt 0 0).sq = [Tests.aCmd] ∧ s.waitOf Tests.aCmd.wait = .emitted ∧
    Tests.gives (.storeQueueLeave 0 0) s (fun t => (t.ctxAt 0 0).sq == [] && t.mem.read (keyOf 1 0 8) == 3 &&
      (t.ctxAt 0 0).lands == ((s.ctxAt 0 0).result 4 { v := 0 }).lands) = true := by decide
def Tests.srel : Cmd := { Tests.cmd (.srel Tests.h (Tests.q (some 4095))) (.bad 0) 4095 with len := 4095 }
def Tests.waitTok (c : Cmd) (t : TokSt) : State := { Tests.queued { c with wait := some 9 } with tokens := [(9, t)] }
theorem witness_store_queue :
    (Tests.waitTok Tests.srel .waiting).waitOf (some 9) = .waiting ∧
    Tests.gives (.storeQueueLeave 0 0) (Tests.waitTok Tests.srel .waiting) (fun t => (t.ctxAt 0 0).sq.length == 1) = true ∧
    Tests.gives (.storeQueueLeave 0 0) (Tests.queued Tests.srel) (fun t => (t.ctxAt 0 0).sq == [] && ((t.cellAt 0).sem.get 0 63).toNat == 4095) = true ∧
    Tests.gives (.storeQueueLeave 0 0) ((Tests.queued Tests.srel).onCell 0 fun k => { k with sem := [(63, 0xFFFFFFFF)] })
      (fun t => ((t.cellAt 0).sem.get 0 63) == 0xFFFFFFFF) = true ∧
    Tests.gives (.storeQueueLeave 0 0) (Tests.queued (Tests.cmd (.cfence Tests.h 0) (.bad 0) 0)) (fun t => (t.ctxAt 0 0).sq == []) = true ∧
    (Tests.waitTok Tests.srel (.error 0x06 0x44)).waitOf (some 9) = .error 0x06 0x44 ∧
    Tests.gives (.storeQueueLeave 0 0) (Tests.waitTok Tests.srel (.error 0x06 0x44)) (fun t => (t.ctxAt 0 0).sq == [] &&
      fld (t.ctxAt 0 0).sterr 32 16 == 1 && t.mem == State.reset.mem) = true := by decide
def Tests.sendCmd : Cmd := { Tests.cmd (.send Tests.h { seq := 0, tsc := .none, vc := 7, wcnt := 3 }) (.bad 0) 0 with ea := 0xFE0010, ws := [{}, {}, {}] }
def Tests.sbarCmd : Cmd := Tests.cmd (.sbar Tests.h 0 .none 16) (.bad 0) 0
def Tests.ring : Ring := { cfg := 0x8000000000000000, part := 0x3 }
def Tests.withRing (s : State) : State := s.onCell 0 fun k => { k with td := [(0, Tests.ring)] }
def Tests.injCmd : Cmd := Tests.cmd Tests.st (.mmio 8) 8 { v := 7 }
theorem witness_store_queue_more :
    (Tests.queued Tests.sendCmd).holds.contains (fld Tests.sendCmd.ea 17 7) = false ∧
    Tests.gives (.storeQueueLeave 0 0) (Tests.queued Tests.sendCmd) (fun t => (t.ctxAt 0 0).sq == [] && t.net.length == 1 &&
      (t.net.map fun a => match a.op with
        | .message m => m.tag == 0xFE0010 && m.vc == 7 && m.words.length == 4
        | _ => false) == [true]) = true ∧
    (Tests.withRing (Tests.queued Tests.sbarCmd)).engRing Tests.sbarCmd = false ∧
    (((Tests.withRing State.reset).ringAt (ringRef 0 16)).arrive (ringBitCtx (ringRef 0 16) 0 0)).isSome = true ∧
    Tests.gives (.storeQueueLeave 0 0) (Tests.withRing (Tests.queued Tests.sbarCmd)) (fun t => (t.ctxAt 0 0).sq == [] &&
      some (t.ringAt (ringRef 0 16)) == Tests.ring.arrive (ringBitCtx (ringRef 0 16) 0 0)) = true ∧
    treeInj 8 = true ∧ Tests.gives (.treeinjPush 0 0) (Tests.queued Tests.injCmd) (fun t => (t.ctxAt 0 0).sq == [] &&
      (t.cellAt 0).inj == [(1, { v := 7 })]) = true := by decide
/-- A remote load of the oldest block, to a tag. -/
def Tests.rld : Cmd := { Tests.cmd Tests.ld (.tag 0x40) 8 with rvc := 3 }
def Tests.rldBlock (st : InstPhase) : Block := { id := 5, addr := 0x2000000000000040, insts := [{ word := encode Tests.ld, st := st }], loads := [Tests.rld] }
def Tests.rldState : State := Tests.withBlock (Tests.rldBlock .issued)
theorem witness_remote_load : let s := Tests.rldState
    s.oldest 0 0 = some (Tests.rldBlock .issued) ∧ (Tests.rldBlock .issued).nextLoad = some Tests.rld ∧ s.waitOf Tests.rld.wait = .emitted ∧
    (s.ctxAt 0 0).sq = [] ∧ (Tests.rldBlock .issued).holdsLoads 0 = false ∧ s.heldTag 0x40 = false ∧
    { s with holds := [0] }.heldTag 0x40 = true ∧
    Tests.gives (.remoteLoadIssue 0 0) s (fun t => t.net.map (fun a => (a.addr, a.len, a.vc, a.gen)) == [(0x40, 8, 3, 0)] &&
      t.net.map (fun a => a.back) == [.inst 0 0 5 0] && t.mem == s.mem) = true ∧
    Tests.gives (.remoteLoadIssue 0 0) { s with holds := [0] } (fun t => t == { s with holds := [0] }) = true := by decide
def Tests.resp (b : Back) (err : Option Cause) (due : Nat) : Resp := { id := 9, back := b, data := bytesOf 8 0xFF, err := err, addr := 0x40, due := due }
theorem witness_load_response :
    let s := { Tests.landing with resps := [Tests.resp (.slot 0 0 1 true) none 0] }
    let u := { Tests.rldState with resps := [Tests.resp (.inst 0 0 5 0) (some 0x07) 0] }
    let w := { Tests.rldState with resps := [Tests.resp (.inst 0 0 5 0) none 1] }
    Tests.gives (.loadResponse 0) s (fun t => t.resps == [] && t.ctxAt 0 0 == (s.ctxAt 0 0).result 1 (tokOfBytes true (bytesOf 8 0xFF)) && t.mem == s.mem) = true ∧
    (u.ctxAt 0 0).posOf 5 = some 0 ∧ (u.ctxAt 0 0).block 0 = some (Tests.rldBlock .issued) ∧ (Tests.rldBlock .issued).instr 0 = some Tests.ld ∧
    Tests.gives (.loadResponse 0) u (fun t => t.resps == [] && t.mem == u.mem && ((t.ctxAt 0 0).block 0).map (fun b => (b.faults, b.excd)) ==
      some ([{ idx := 0, cause := 0x07, tval := 0x40 }], true)) = true ∧
    w.vtime.toNat < 1 ∧ Tests.gives (.loadResponse 0) w (fun t => t == w) = true := by decide

/-- An access in flight to a TCM place of cell 0. -/
def Tests.acc0 (op : Op) (n : Nat) : Acc :=
  { id := 3, who := .ctx 1 0, cell := 1, vc := 0, addr := 0x8, place := some (Tests.tcm 8), len := n, op := op, back := .store 1 0 4, at_ := true }
def Tests.flying (a : Acc) : State := { State.reset with net := [a] }
def Tests.homeOk (s : State) (n : Nat) (a : Acc) : Bool :=
  decide (s.net[n]? = some a) && !s.stale a && !s.accHeld a && !s.routerStops a && (a.place.isSome || a.ring.isSome || fld a.addr 61 3 != 1)
def Tests.answered (t : State) (a : Acc) (d : List (Byte × Bool)) (err : Option Cause) : Bool :=
  t.resps.map (fun r => (r.back, r.data)) == [(a.back, d)] && t.resps.map (fun r => (r.err, r.addr)) == [(err, a.addr)]
def Tests.lost : Acc := { id := 3, who := .ctx 1 0, cell := 1, vc := 0, addr := 0x40, len := 8, op := .read, back := .inst 1 0 5 0 }
theorem witness_home_access :
    let rd := Tests.acc0 .read 8
    let wr := Tests.acc0 (.write (bytesOf 8 0x55)) 8
    let two := { State.reset with net := [Tests.lost, { Tests.lost with id := 4 }] }
    Tests.homeOk (Tests.flying rd) 0 rd = true ∧ (Tests.flying rd).firstAtHome 0 rd = true ∧ unitEnd rd.fmode rd.at_ 8 8 0 = 8 ∧
    Tests.gives (.homeAccess 0) (Tests.flying rd) (fun t => t.net == [] && t.mem == State.reset.mem && Tests.answered t rd (State.reset.bytesAt (Tests.tcm 8) 8) none) = true ∧
    (Tests.flying wr).codeWrite (Tests.tcm 8) 8 (wr.sup && !wr.byTxe) = false ∧
    Tests.gives (.homeAccess 0) (Tests.flying wr) (fun t => t.net == [] && t.mem == (State.reset.stored (Tests.tcm 8) (bytesOf 8 0x55)).mem &&
      Tests.answered t wr [] none) = true ∧
    Tests.homeOk two 1 { Tests.lost with id := 4 } = true ∧ two.firstAtHome 1 { Tests.lost with id := 4 } = false ∧ Tests.gives (.homeAccess 1) two (fun t => t == two) = true ∧
    Tests.homeOk (Tests.flying Tests.lost) 0 Tests.lost = true ∧ (Tests.flying Tests.lost).firstAtHome 0 Tests.lost = true ∧
    (match (Tests.flying Tests.lost).accPlace Tests.lost with
      | .error c => c == cTrans
      | .ok _ => false) = true ∧
    Tests.gives (.homeAccess 0) (Tests.flying Tests.lost) (fun t => t.net == [] && t.mem == State.reset.mem && Tests.answered t Tests.lost [] (some cTrans)) = true := by
  decide
theorem witness_home_atomic : let a := Tests.acc0 (.atomic { Tests.aCmd with cell := 1 }) 8
    Tests.homeOk (Tests.flying a) 0 a = true ∧ (Tests.flying a).codeWrite (Tests.tcm 8) 8 (a.sup && !a.byTxe) = false ∧
    atomicNew 0 Tests.aCmd.i (numOf ((Tests.flying a).bytesAt (Tests.tcm 8) 8)) 3 0 = some 3 ∧
    Tests.gives (.homeAccess 0) (Tests.flying a) (fun t => t.net == [] && t.mem.read (keyOf 1 0 8) == 3 &&
      Tests.answered t a (State.reset.bytesAt (Tests.tcm 8) 8) none) = true := by decide
/-- A sync word of COUNT 1, GEN 0xFFFFFFFF and the total given, at TCM offset 16 of cell 0. -/
def Tests.syncAt (s : State) (total : Nat) : State :=
  s.stored (Tests.tcm 16) (bytesOf 4 total ++ bytesOf 4 1 ++ bytesOf 4 0xFFFFFFFF ++ bytesOf 4 0)
def Tests.cnt (k : Nat) : Acc := { Tests.acc0 (.count k false) 16 with place := some (Tests.tcm 16), addr := 0x10 }
def Tests.wordIs (t : State) (count gen flags : Nat) : Bool :=
  t.numAt (Tests.tcm 20) 4 == count && t.numAt (Tests.tcm 24) 4 == gen && t.numAt (Tests.tcm 28) 4 == flags
theorem witness_sync_words :
    Tests.homeOk (Tests.syncAt (Tests.flying (Tests.cnt 1)) 4) 0 (Tests.cnt 1) = true ∧
    Tests.gives (.syncWordArrival 0) (Tests.syncAt (Tests.flying (Tests.cnt 1)) 4) (fun t => t.net == [] && Tests.wordIs t 2 0xFFFFFFFF 0 &&
      t.mem == ((Tests.syncAt (Tests.flying (Tests.cnt 1)) 4).storedWord (Tests.tcm 16) 2 0xFFFFFFFF 0).mem && Tests.answered t (Tests.cnt 1) [] none) = true ∧
    Tests.gives (.syncWordArrival 0) (Tests.syncAt (Tests.flying (Tests.cnt 8)) 4) (fun t => Tests.wordIs t 1 1 2 &&
      t.mem == (let u := (Tests.syncAt (Tests.flying (Tests.cnt 8)) 4).storedWord (Tests.tcm 16) 1 1 2
        u.mem.applyAll (u.fullOps (Tests.tcm 24) 8 true))) = true ∧
    Tests.gives (.syncWordArrival 0) (Tests.syncAt (Tests.flying (Tests.cnt 8)) 0) (fun t => Tests.wordIs t 9 0xFFFFFFFF 0) = true := by decide
def Tests.waiter (op : Op) (n : Nat) : Acc := { Tests.acc0 op n with place := some (Tests.tcm 16) }
theorem witness_word_waiters :
    let f := Tests.waiter .ldf 8
    let g := Tests.waiter (.syncw 0x7FFFFFFF) 16
    let h := Tests.waiter (.syncw 0x80000001) 16
    let s := { State.reset with waits := [f] }
    let full := Tests.fullWord s 16 8
    s.allFull (Tests.tcm 16) f.len = false ∧ Tests.gives (.fullEmptyRelease 0) s (fun t => t == s) = true ∧
    full.allFull (Tests.tcm 16) f.len = true ∧
    Tests.gives (.fullEmptyRelease 0) full (fun t => t.waits == [] && t.mem == full.mem && Tests.answered t f (full.bytesAt (Tests.tcm 16) 8) none) = true ∧
    (BitVec.ofNat 32 (State.reset.syncGen (Tests.tcm 16)) - 0x7FFFFFFF : BitVec 32).toNat = 2 ^ 31 + 1 ∧
    Tests.gives (.syncwRelease 0) { State.reset with waits := [g] } (fun t => t == { State.reset with waits := [g] }) = true ∧
    (BitVec.ofNat 32 (State.reset.syncGen (Tests.tcm 16)) - 0x80000001 : BitVec 32).toNat = 2 ^ 31 - 1 ∧
    Tests.gives (.syncwRelease 0) { State.reset with waits := [h] } (fun t => t.waits == [] && t.mem == State.reset.mem &&
      Tests.answered t h (State.reset.bytesAt (Tests.tcm 24) 4) none) = true := by decide

/-! ### Witnesses: rings, services, messages -/

/-- A TCM ring of cell 0 of four slots of 64 bytes, empty-marking, phi 3, at slot 3. -/
def Tests.fecRing (arr : BitVec 48) : Ring := { cfg := 0x8060601000000000, part := 0x800000000003, arr := arr, pend := 1, gen := 0xFFFFFFFF, sp := 3 }
def Tests.ringState (r : Ring) : State := State.reset.onCell 0 fun k => { k with td := [(0, r)] }
theorem test_ring_arrive :
    ((Tests.fecRing 1).arrive 47).map (fun d => d.arr) = some 0x800000000001 ∧ (Tests.fecRing 1).arrive 0 = none ∧
    ((Tests.fecRing 3).arrive 1).map (fun d => d.pend) = some 3 ∧ (Tests.fecRing 1).arrive 2 = some (Tests.fecRing 1) := by decide
theorem witness_ring_rotation : let d := Tests.fecRing 0x800000000003
    d.valid = true ∧ d.part ≠ 0 ∧ d.arr = d.part ∧ d.fec = true ∧ d.slots = 4 ∧
    Tests.gives (.ringRotation (.tcm 0 0)) (Tests.fullWord (Tests.ringState d) 192 64) (fun t =>
      t.ringAt (.tcm 0 0) == { d with sp := 0, gen := 0, arr := 1, pend := 0, turned := true } && t.allFull (Tests.tcm 192) 64 == false) = true ∧
    Tests.gives (.ringRotation (.tcm 0 0)) (Tests.ringState (Tests.fecRing 3)) (fun t => t == Tests.ringState (Tests.fecRing 3)) = true := by decide
theorem witness_ring_arrival : let s := Tests.withRing (Tests.queued Tests.sbarCmd)
    let u := (Tests.queued Tests.sbarCmd).onCell 0 fun k => { k with td := [(0, { Tests.ring with arr := 1, pend := 1 })] }
    Tests.sbarCmd.i = .sbar Tests.h 0 .none 16 ∧ s.waitOf Tests.sbarCmd.wait = .emitted ∧
    Tests.gives (.ringArrival (.ctx 0 0) (.tcm 0 0)) s (fun t => some (t.ringAt (.tcm 0 0)) == Tests.ring.arrive 0 && (t.ctxAt 0 0).sq == []) = true ∧
    (u.ringAt (.tcm 0 0)).arrive 0 = none ∧ Tests.gives (.ringArrival (.ctx 0 0) (.tcm 0 0)) u (fun t => t == u) = true := by decide
/-- A load held by the arrival of its agent at the ring. -/
def Tests.heldRing (r : Ring) : State :=
  let s := Tests.at_ Tests.ld { v := 0x6000000000000008 }
  { (s.onCell 0 fun k => { k with td := [(0, r)] }).onCtx 0 0 (fun c => { c with flight := c.flight.map fun b =>
      { b with insts := b.insts.map fun n => { n with st := .held } } }) with
    held := [{ Tests.acc0 .read 8 with ring := some (.tcm 0 0, 1, 8), back := .inst 0 0 ((s.ctxAt 0 0).flight.map (fun b => b.id)).sum 0 }] }
theorem witness_ring_hold : let r : Ring := { cfg := 0x8060000000000000, part := 3, sp := 3 }
    let s := Tests.heldRing { r with arr := 1 }
    let u := Tests.heldRing r
    s.ringHeld (.tcm 0 0) 0 = true ∧ Tests.gives (.ringHoldRelease 0) s (fun t => t == s) = true ∧
    u.ringHeld (.tcm 0 0) 0 = false ∧ ((u.envAt 0 0 0 0).map fun e => (e.n.st, fld (e.tok .a).v 61 3)) = some (.held, 3) ∧
    Tests.gives (.ringHoldRelease 0) u (fun t => t.held == [] && t.mem == u.mem &&
      ((t.ctxAt 0 0).block 0).map (fun b => b.insts.map fun n => n.st) == some [.fired]) = true := by decide

/-- A block that waits for an acquire of semaphore 63. -/
def Tests.acqBlock (i : Instr) : Block := { id := 5, addr := 0x2000000000000040, insts := [{ word := encode i, st := .acquiring }],
                                            exits := [(1, .addr { v := 0x80 })], acqs := [(0, Tests.cmd i (.bad 0) 0, true)] }
def Tests.sacq : Instr := .sacq Tests.h (Tests.q (some 3))
def Tests.acquiring (have_ : BitVec 32) : State := (Tests.withBlock (Tests.acqBlock Tests.sacq)).onCell 0 fun k =>
  { k with sem := [(63, have_)], semWait := [{ x := 0, blk := 5, idx := 0, n := 3, q := 63 }] }
theorem witness_semaphore_wait : let s := Tests.acquiring 3
    let w : Acquire := { x := 0, blk := 5, idx := 0, n := 3, q := 63 }
    (s.cellAt 0).semWait.find? (fun w => w.q == 63) = some w ∧ s.oldest 0 0 = some (Tests.acqBlock Tests.sacq) ∧
    s.canCommit 0 0 (Tests.acqBlock Tests.sacq) serviced = true ∧
    Tests.gives (.semaphoreAcquireServe 0 63) s (fun t => (t.cellAt 0).sem.get 0 63 == 0 && (t.cellAt 0).semWait == [] && (t.ctxAt 0 0).ccount == 1) = true ∧
    Tests.gives (.semaphoreAcquireServe 0 63) (Tests.acquiring 2) (fun t => t == Tests.acquiring 2) = true := by decide
def Tests.cwait (chk : Bool) : Instr := if chk then .cwaitChk Tests.h 0 7 else .cwait Tests.h 0 7
def Tests.cwaiting (chk : Bool) (stat : Word) : State := (Tests.withBlock (Tests.acqBlock (Tests.cwait chk))).onCell 0 fun k => { k with cpstat := [(7, stat)] }
theorem witness_collective_wait : let s := Tests.cwaiting false 0x1000000
    let u := Tests.cwaiting false 0x1000001
    let v := Tests.cwaiting true 0x0100000001000001
    let b := Tests.acqBlock (Tests.cwait false)
    s.oldest 0 0 = some b ∧ s.complete 0 0 b = true ∧ s.commitFault 0 0 b = none ∧ (s.cellAt 0).cpIdle 7 = false ∧
    Tests.gives (.cwaitRelease 0 0) s (fun t => t == s) = true ∧
    (u.cellAt 0).cpIdle 7 = true ∧ u.canCommit 0 0 b (fun _ => false) = true ∧
    Tests.gives (.cwaitRelease 0 0) u (fun t => (t.ctxAt 0 0).ccount == 1 && (t.ctxAt 0 0).next == .at_ 0x80) = true ∧
    (v.ctxAt 0 0).outcome (Tests.acqBlock (Tests.cwait true)) = none ∧ (v.cellAt 0).cpLast 7 = 1 ∧
    Tests.gives (.cwaitRelease 0 0) v (fun t => (t.ctxAt 0 0).stopped && (t.ctxAt 0 0).tcause == 0x800000000000000D && (t.ctxAt 0 0).tval == 7 &&
      (t.ctxAt 0 0).tidx == 0) = true := by decide
theorem witness_cluster_barrier :
    let s := State.reset.onCluster 0 fun c => { c with cb := [(15, { mask := 3, arr := 3, gen := 0xFFFFFFFF })] }
    Tests.gives (.clusterBarrierComplete 0 15) s (fun t => (t.clusterAt 0).cb.get {} 15 == { mask := 3, arr := 0, gen := 0 } && t.mem == s.mem) = true := by
  decide

/-- A message of three words for NODE 1 of the cell that virtual field 0 leads to, on its way. -/
def Tests.msg (wake : Bool) (ws : List Tok) : Msg := { vc := 2, tag := 0x10, words := ws, wake := wake }
def Tests.flight1 (m : Msg) (entry : Word) (mq : List Msg) : State :=
  { ((State.reset.onCell 0 fun k => { k with htab := [(65, entry)] }).onCtx 0 0 (fun c => { c with mq := mq })).onField 0 (fun f => { f with ctab := [(0, 0x8000)] }) with
    ftab := [(0, 0x8000)], ltab := [(0, 0x8000)], net := [{ id := 3, who := .ctx 1 0, cell := 1, vc := 2, addr := 0, op := .message m }] }
theorem witness_message_delivery : let m := Tests.msg false [{ v := 1 }]
    let full := Tests.flight1 m 0x8000000000000000 (List.replicate 16 m)
    ((Tests.flight1 m 0 []).msgCell 0x10).toOption = some (some (0, false)) ∧ (Tests.flight1 m 0 []).firstAtHome 0 { id := 3, who := .ctx 1 0, cell := 1, vc := 2, addr := 0, op := .message m } = true ∧
    Tests.gives (.messageDelivery 0) (Tests.flight1 m 0 []) (fun t => t.net == [] && (t.cellAt 0).hdropNow == 1 && !(t.fieldAt 0).msgDrops.isEmpty) = true ∧
    Tests.gives (.messageDelivery 0) (Tests.flight1 m 0x8000000000000000 (List.replicate 15 m)) (fun t => t.net == [] && (t.ctxAt 0 0).mq == List.replicate 16 m) = true ∧
    Tests.gives (.messageDelivery 0) full (fun t => t == { full with net := full.net.map fun a => { a with done := 1 } }) = true ∧
    Tests.gives (.messageDelivery 0) (Tests.flight1 (Tests.msg true [{ v := 3 }]) 0x8000000000000000 [Tests.msg true [{ v := 4, poi := true }]])
      (fun t => t.net == [] && (t.ctxAt 0 0).mq == [Tests.msg true [{ v := 7, poi := true }]]) = true := by decide
def Tests.queuedMsg (nx : Nxt) : State := (State.reset.onCell 0 fun k => { k with htab := [(65, 0x8000000000000002)] }).onCtx 0 0 fun c =>
  { c with mq := [Tests.msg false [{ v := 5, poi := true }, { v := 6 }]], next := nx }
theorem witness_message_dispatch : let s := Tests.queuedMsg .idle
    let u := Tests.queuedMsg (.wfm 0x2000000000000040)
    (s.ctxAt 0 0).between = true ∧ s.runs 0 = true ∧
    Tests.gives (.messageDispatch 0 0) s (fun t => let c := t.ctxAt 0 0
      c.mq == [] && c.next == .at_ 0x2000000000000080 && c.handler && c.slotAt 60 == { v := 5, poi := true, wrote := some 1 } &&
      c.slotAt 61 == { v := 6, wrote := some 1 } && (c.slotAt 62).wrote == none) = true ∧
    Tests.gives (.wfmWake 0 0) u (fun t => let c := t.ctxAt 0 0
      c.mq == [] && c.next == .at_ 0x2000000000000040 && c.slotAt 59 == { v := 65, wrote := some 1 } && c.slotAt 60 == { v := 5, poi := true, wrote := some 1 }) = true := by
  decide

/-! ### Witnesses: engines, reports -/

def Tests.xc (i : Instr) (len : Nat) (a b : Tok := Tests.loc 0x100) : Cmd := { Tests.cmd i (.bad 0) 0 b with
  a := a, hi := { v := BitVec.ofNat 64 (len + 63 * 2 ^ 34 + 2 ^ 40 + 2 ^ 41) } }
def Tests.xcpy : Instr := .xcpy Tests.h 0
def Tests.onTxe (c : Cmd) : State := (State.reset.onCell 0 fun k => { k with txq := [c] }).onCtx 0 0 fun c => { c with txstat := 7 }
def Tests.txRunning (r : TxRun) : State := Tests.put (State.reset.onCell 0 fun k => { k with txRun := [r] }) (Tests.tcm 60) [0x0102030405060708]
theorem witness_txe_accept :
    let q := Tests.onTxe (Tests.xc (.xqry Tests.h 0) 0)
    let c := Tests.xc Tests.xcpy 64 (Tests.loc 0)
    let z := Tests.xc Tests.xcpy 64 (Tests.loc 0) Tests.bad
    let e := Tests.xc Tests.xcpy 64 { v := 0x20000000FFFFFFF0 }
    q.engRuns 0 = true ∧ q.fencePast c = true ∧
    Tests.gives (.txeAccept 0) q (fun t => (t.cellAt 0).txq == [] && t.ctxAt 0 0 == (q.ctxAt 0 0).result 4 { v := 7 }) = true ∧
    (Tests.onTxe c).txCheck c = none ∧ Tests.gives (.txeAccept 0) (Tests.onTxe c) (fun t => (t.cellAt 0).txq == [] && t.mem == State.reset.mem &&
      (t.cellAt 0).txRun.map (fun r => (r.cmd, r.issuing, r.elem, r.off)) == [(c, true, 0, 0)]) = true ∧
    (Tests.onTxe e).txCheck e = some (2, cSpace, some 0x20000000FFFFFFF0) ∧
    Tests.gives (.txeAccept 0) (Tests.onTxe e) (fun t => (t.cellAt 0).txq == [] && (t.cellAt 0).txRun == [] && t.mem == State.reset.mem &&
      (t.ctxAt 0 0).reports == [{ cause := cSpace, detail := 2, src := 3, tval := 0x20000000FFFFFFF0 }]) = true ∧
    z.i = Tests.xcpy := by decide
theorem witness_txe_piece : let r : TxRun := { cmd := Tests.xc Tests.xcpy 100 (Tests.loc 60) (Tests.loc 0x13C) }
    let s := Tests.txRunning r
    s.txBlocked 0 = false ∧ s.route 0 0 (r.cmd.a.v) 4 = .here (Tests.tcm 60) ∧ s.route 0 0 (r.cmd.b.v) 4 = .here (Tests.tcm 0x13C) ∧
    Tests.gives (.txePieceIssue 0) s (fun t => t.mem == s.mem && t.net.map (fun a => (a.place, a.len, a.who)) == [(some (Tests.tcm 0x13C), 4, .txe 0)] &&
      t.net.map (fun a => a.op) == [.engWrite (s.bytesAt (Tests.tcm 60) 4) []]) = true := by decide
theorem witness_txe_complete : let r : TxRun := { cmd := Tests.xc Tests.xcpy 64 (Tests.loc 0), issuing := false, dropped := 2 }
    let s := Tests.txRunning r
    let u := Tests.txRunning { r with code := 9, cause := 0x07, tval := some 0x44 }
    r.cmd.txSem = some 63 ∧ r.cmd.txRing = none ∧
    Tests.gives (.txeComplete 0 0) s (fun t => (t.cellAt 0).sem.get 0 63 == 1 && (t.cellAt 0).txRun == []) = true ∧
    Tests.gives (.txeComplete 0 0) u (fun t => (t.cellAt 0).sem == [] && (t.ctxAt 0 0).reports == [{ cause := 0x07, detail := 9, src := 3, tval := 0x44 }]) = true := by
  decide

/-- Lane 0 of v2 holds 200 and lane 0 of v3 holds 100; k1 is odd. -/
def Tests.vecs (s : State) : State := s.onCtx 0 0 fun c => { c with vreg := [(2, 200), (3, 100)], kreg := [(1, 1)], vxstat := 2 }
def Tests.vaddCmd (w : Option Nat) : Cmd := { Tests.cmd (.vadd Tests.h (Tests.o .w8 false 0) { Tests.r with km := 1 }) (.bad 0) 0 with wait := w }
def Tests.onVxe (t : TokSt) : State := { Tests.vecs (State.reset.onCell 0 fun k => { k with vxq := [Tests.vaddCmd (some 9)] }) with tokens := [(9, t)] }
theorem witness_vxe_start : let s := Tests.onVxe .emitted
    s.engRuns 0 = true ∧ s.sqPast (Tests.vaddCmd (some 9)) = true ∧ (s.vxAccs (Tests.vaddCmd (some 9))).toOption.map (fun l => l.length) = some 0 ∧
    Tests.gives (.vxeCommandStart 0) s (fun t => (t.cellAt 0).vxq == [] && (t.cellAt 0).vxRun.length == 1 && t.mem == s.mem &&
      ((t.ctxAt 0 0).lane 1 8 0).1 == 44) = true ∧
    Tests.gives (.vxeCommandStart 0) (Tests.onVxe .waiting) (fun t => t == Tests.onVxe .waiting) = true ∧
    Tests.gives (.vxeCommandStart 0) (Tests.onVxe (.error 0x07 0x44)) (fun t => (t.cellAt 0).vxq == [] && (t.cellAt 0).vxRun == [] &&
      (t.ctxAt 0 0).vreg == (s.ctxAt 0 0).vreg && (t.ctxAt 0 0).reports == [{ cause := 0x07, src := 1, tval := 0x44 }]) = true := by decide
def Tests.vldRun : VxRun := { cmd := Tests.cmd (.vld Tests.h .w8 { Tests.ll with vr := 2, km := 1 }) (.bad 0) 0, got := [(0, 7, false), (1, 8, false)] }
theorem witness_vxe_complete : let s := Tests.vecs (State.reset.onCell 0 fun k => { k with vxRun := [{ cmd := Tests.vaddCmd none, flags := 1, res := some { v := 5 } }] })
    let u := Tests.vecs (State.reset.onCell 0 fun k => { k with vxRun := [Tests.vldRun] })
    (s.cellAt 0).vxRun.findIdx? (fun r => r.flying.isEmpty && r.elems.isEmpty) = some 0 ∧
    Tests.gives (.vxeCommandComplete 0) s (fun t => (t.cellAt 0).vxRun == [] && (t.ctxAt 0 0).vreg == (s.ctxAt 0 0).vreg && (t.ctxAt 0 0).vxstat == 3) = true ∧
    Tests.gives (.vxeCommandComplete 0) u (fun t => ((t.ctxAt 0 0).lane 2 8 0).1 == 7 && ((t.ctxAt 0 0).lane 2 8 1).1 == 0) = true := by decide

def Tests.onMxe (i : Instr) (o : OtSt) : State := State.reset.onCell 0 fun k =>
  { k with mxq := [{ Tests.cmd i (.bad 0) 0 with a := { v := 771 } }, { Tests.cmd (.mstat Tests.h 0) (.bad 0) 0 with id := 5 },
                   { Tests.cmd (.mstat Tests.h 0) (.bad 0) 0 with id := 6, x := 1 }], ot := [(31, o)] }
theorem witness_mxe_tiles :
    Tests.gives (.mxeCommandStart 0) (Tests.onMxe (.mclaim Tests.h 0 31 64) {}) (fun t => (t.cellAt 0).mxq.length == 2 && (t.cellAt 0).otAt 31 == { st := 1, exp := 64 }) = true ∧
    Tests.gives (.mxeCommandStart 0) (Tests.onMxe (.mclaim Tests.h 0 31 0) {}) (fun t => (t.cellAt 0).otAt 31 == { st := 2 }) = true ∧
    Tests.gives (.mxeCommandStart 0) (Tests.onMxe (.mclaim Tests.h 0 31 0) { st := 2, owner := 3 }) (fun t => (t.cellAt 0).otAt 31 == { st := 2, owner := 3 }) = true ∧
    Tests.gives (.mxeCommandStart 0) (Tests.onMxe (.mrel Tests.h 0 31) { st := 2 }) (fun t => (t.cellAt 0).otAt 31 == {}) = true ∧
    Tests.gives (.mxeCommandStart 0) (Tests.onMxe (.mrel Tests.h 0 31) { st := 1 }) (fun t => (t.cellAt 0).otAt 31 == { st := 1 }) = true := by decide
theorem witness_mxe_mma : let i : Instr := .mma Tests.h Tests.lm
    let c : Cmd := { Tests.cmd i (.bad 0) 0 with a := { v := 771 } }
    let s := Tests.onMxe i { st := 2, owner := 2 }
    let u := Tests.onMxe i { st := 1 }
    (mmaOf c).isSome = true ∧ opTiles c = [0, 31] ∧ (opTiles c).find? (fun t => ((s.cellAt 0).otAt t).st != 0 && ((s.cellAt 0).otAt t).owner.toNat != 0) = some 31 ∧
    Tests.gives (.mxeCommandStart 0) s (fun t => (t.cellAt 0).mxq.map (fun c => c.id) == [6] && t.mem == s.mem && (t.cellAt 0).mxRun == [] &&
      (t.ctxAt 0 0).reports == [{ cause := 0x04, detail := 1, src := 2, tval := 31 }]) = true ∧
    Tests.gives (.mxeCommandStart 0) u (fun t => t == u) = true := by decide
theorem witness_mxe_comb : let i : Instr := .mcomb Tests.h 0 31 0 .add
    let s := Tests.onMxe i {}
    (s.cellAt 0).tag 31 = (s.cellAt 0).tag 0 ∧ (s.cellAt 0).tag 31 ≠ 2 ∧ (s.cellAt 0).busy = [] ∧ s.mem.wf = true := by decide
theorem witness_mxe_done : let r : MxRun := { cmd := Tests.cmd (.mcomb Tests.h 0 31 0 .add) (.bad 0) 0, flags := 64 }
    let s := State.reset.onCell 0 fun k => { k with mxRun := [r], busy := [(31, 4), (2, 8)] }
    let d : MxRun := { cmd := Tests.cmd (.mdrn Tests.h Tests.ldr) (.bad 0) 0, drain := true }
    Tests.gives (.accumulatorWriteDone 0) s (fun t => (t.cellAt 0).mxRun == [] && (t.cellAt 0).busy == [(2, 8)] && (t.ctxAt 0 0).mxstat == 64) = true ∧
    Tests.gives (.drainComplete 0 0) (State.reset.onCell 0 fun k => { k with mxRun := [d] }) (fun t => (t.cellAt 0).mxRun == [] && (t.cellAt 0).sem.get 0 63 == 1) = true := by
  decide

def Tests.reporting (l : List Report) : State := State.reset.onCtx 0 0 fun c => { c with reports := l }
theorem witness_reports : let r : Report := { cause := 0x09, detail := 2, src := 3, tval := 0x44 }
    let s := Tests.reporting [r]
    Tests.gives (.engineReportStop 0 0) s (fun t => let c := t.ctxAt 0 0
      c.stopped && c.reports == [] && c.tidx == 0xFF && c.tval == 0x44 && c.tcause.extractLsb' 0 8 == 0x09 && c.tcause.extractLsb' 60 3 == 3) = true ∧
    Tests.gives (.engineReportStop 0 0) (Tests.reporting [r, { r with src := 1 }]) (fun t => (t.ctxAt 0 0).tcause.extractLsb' 60 3 == 1) = true ∧
    Tests.gives (.engineReportStop 0 0) (Tests.reporting []) (fun t => t == Tests.reporting []) = true := by decide
/-- A message that has waited 5 cycles at the head of its queue, past an AGELIM of 4. -/
def Tests.aged (lim : BitVec 32) : State :=
  let s := State.reset.onCtx 0 0 fun c => { c with mq := [Tests.msg false []], agelim := lim, next := .at_ 0x2000000000000000 }
  s.onCell 0 fun k => { k with ages := (s.waiting 0).map fun a => { a with age := 5 } }
theorem witness_progress : ((Tests.aged 4).overAge 0 0).map (fun a => (a.q, a.age)) = some (1, 5) ∧ (Tests.aged 5).overAge 0 0 = none ∧
    Tests.gives (.progressFault 0 0) (Tests.aged 4) (fun t => let c := t.ctxAt 0 0
      c.stopped && c.tcause.extractLsb' 0 8 == 0x0A && c.pfault.extractLsb' 0 32 == 5 && c.tval == c.pfault && t.mem == State.reset.mem) = true ∧
    Tests.gives (.progressFault 0 0) (Tests.aged 0) (fun t => t == Tests.aged 0) = true := by decide

/-! ### Witnesses: the vault and its sequencer -/

/-- Cell 0's sequencer runs at vault clock 1000, with one entry due, bank 0 open on row 5 since clock 100. -/
def Tests.seqAt (e : Instr) (iter : Nat := 0) (bank : BankSt := { row := some 5, act := some 100 }) (g : Fetched → Fetched := id) (h : Seq → Seq := id) : State :=
  { State.reset.onCell 0 (fun k => { k with
      seq := h { st := .running, prog := 1, t0 := 100, fetched := [g { index := 2, iter := iter, entry := e }], ref := 900 },
      vault := { owned := true, banks := [(0, bank)] } }) with vtime := 1000 }
def Tests.issuedAt (t : State) (index : Nat) (iter : Nat) (wait : Nat) : Bool := let q := (t.cellAt 0).seq
  q.st == .running && q.index.toNat == index && q.iter.toNat == iter && q.ref == 1000 + wait && q.refb == 1000 && q.elap == 900
def Tests.seqFault (t : State) (c : Cause) (d : BitVec 8) : Bool := let q := (t.cellAt 0).seq
  q.st == (if c == 0x10 then .stopped else .suspended) && q.cause == c && q.detail == d && q.fetched == [] && !(t.cellAt 0).vault.owned &&
  (t.ctxAt 0 0).reports.map (fun r => (r.cause, r.detail, r.src)) == [(c, d, 4)] && t.reports.length == 1
def Tests.vaultAfter (t : State) (s : State) (c : BankCmd) : Bool := let k := s.cellAt 0
  (t.cellAt 0).vault == k.vault.issue k.liveBanks c 1000
theorem witness_entry_due : EntryDue (Tests.seqAt (.dprea 100)) { index := 2, iter := 0, entry := .dprea 100 } [] :=
  ⟨by decide, by decide, by decide, by decide, by decide, by decide, by decide⟩
theorem witness_vault_entries :
    let act := Tests.seqAt (.dact 100 7 879 1) 0
    let one := Tests.seqAt (.dpre 0 0)
    let all := Tests.seqAt (.dprea 0)
    let ref := Tests.seqAt (.drefa 0 none) 0 {}
    let refb := Tests.seqAt (.drefb 0 0 none) 0 { debt := -7 }
    let drd := Tests.seqAt (.drd 0 0 15 (.loc 0) 0 1) 1
    let dwr := Tests.seqAt (.dwr 0 0 15 (.loc 0) 0 1) 1 { row := some 5, act := some 100 } fun f => { f with staged := some (bytesOf 128 0x55) }
    Tests.gives (.dact 100 7 879 1) act (fun t => Tests.issuedAt t 3 0 0 && Tests.vaultAfter t act (.act 7 879)) = true ∧
    Tests.gives (.dact 0 0 1 0) (Tests.seqAt (.dact 0 0 1 0)) (fun t => Tests.seqFault t 0x11 2) = true ∧
    Tests.gives (.dpre 0 0) one (fun t => Tests.issuedAt t 3 0 0 && Tests.vaultAfter t one (.pre 0)) = true ∧
    Tests.gives (.dprea 0) all (fun t => Tests.issuedAt t 3 0 0 && Tests.vaultAfter t all .preAll) = true ∧
    Tests.gives (.drefa 0 none) ref (fun t => Tests.issuedAt t 3 0 0 && Tests.vaultAfter t ref .refAll) = true ∧
    Tests.gives (.drefa 0 none) (Tests.seqAt (.drefa 0 none) 0 { debt := -8 }) (fun t => Tests.seqFault t 0x14 1) = true ∧
    Tests.gives (.drefa 0 (some 0)) (Tests.seqAt (.drefa 0 (some 0)) 0 {}) (fun t => Tests.issuedAt t 3 0 0 && ((t.cellAt 0).vault.bank 0).debt == 0) = true ∧
    Tests.gives (.drefb 0 0 none) refb (fun t => Tests.issuedAt t 3 0 0 && Tests.vaultAfter t refb (.ref 0)) = true ∧
    Tests.gives (.drd 0 0 15 (.loc 0) 0 1) drd (fun t => Tests.issuedAt t 3 1 0 && Tests.vaultAfter t drd (.rd 0) &&
      (t.cellAt 0).seq.elastic.map (fun e => (e.iter, e.prog, e.data)) == [(1, 1, drd.bytesAt ((drd.cellAt 0).column 0 0 0) 128)]) = true ∧
    Tests.gives (.dwr 0 0 15 (.loc 0) 0 1) dwr (fun t => Tests.issuedAt t 3 1 0 && t.mem == (dwr.stored ((dwr.cellAt 0).column 0 0 0) (bytesOf 128 0x55)).mem) = true ∧
    Tests.gives (.dwr 0 0 15 (.loc 0) 0 1) (Tests.seqAt (.dwr 0 0 15 (.loc 0) 0 1) 1) (fun t => Tests.seqFault t 0x13 2) = true := by decide
theorem witness_vault_entries_more :
    let hot := fun (e : Instr) => (Tests.seqAt e).onField 0 fun f => { f with scls := 2 }
    let sem := fun (v : BitVec 32) (e : Instr) => (Tests.seqAt e 2).onCell 0 fun k => { k with sem := [(63, v)] }
    let chk : Instr := .dchk 0 .sem 63 1 5
    let rpt := fun (n : Nat) => Tests.seqAt (.drpt 0 2 3) n
    Tests.gives (.dprea 0) (hot (.dprea 0)) (fun t => Tests.seqFault t 0x15 0) = true ∧
    Tests.gives (.dwait 0 0xFFFFFFFF) (Tests.seqAt (.dwait 0 0xFFFFFFFF)) (fun t => Tests.issuedAt t 3 0 0xFFFFFFFF) = true ∧
    Tests.gives chk (sem 7 chk) (fun t => Tests.issuedAt t 3 2 0) = true ∧ Tests.gives chk (sem 6 chk) (fun t => Tests.seqFault t 0x12 1) = true ∧
    Tests.gives (.dsig 0 true 63 2) (sem 0xFFFFFFFF (.dsig 0 true 63 2)) (fun t => Tests.issuedAt t 3 2 0 && (t.cellAt 0).sem.get 0 63 == 0xFFFFFFFF) = true ∧
    Tests.gives (.drpt 0 2 3) (rpt 1) (fun t => Tests.issuedAt t 0 2 0) = true ∧ Tests.gives (.drpt 0 2 3) (rpt 2) (fun t => Tests.issuedAt t 3 0 0) = true ∧
    Tests.gives (.dend 0) (Tests.seqAt (.dend 0) 0 {}) (fun t => (t.cellAt 0).seq.st == .done && (t.cellAt 0).seq.index == 2 && !(t.cellAt 0).vault.owned) = true ∧
    Tests.gives (.dend 0) (Tests.seqAt (.dend 0)) (fun t => Tests.seqFault t 0x11 13) = true ∧
    (let full := Tests.seqAt (.drd 0 0 15 (.loc 0) 0 1) 1 { row := some 5, act := some 100 } id fun q => { q with elastic := List.replicate 64 { entry := .dprea 0, iter := 0, due := 1, data := [] } }
     64 ≤ (full.cellAt 0).seq.ebuf 1000 ∧ Tests.gives (.drd 0 0 15 (.loc 0) 0 1) full (fun t => Tests.seqFault t 0x13 1) = true) ∧
    (let r := (Tests.seqAt (.dsig 0 false 0 1) 0 {} id fun q => { q with elastic := [{ entry := .dprea 0, iter := 0, due := 1, data := [], prog := 1 }] }).onCell 0 fun k =>
        { k with td := [(0, Tests.ring)] }
     (r.sigRoom 0 0) = false ∨ Tests.gives (.dsig 0 false 0 1) r (fun t => (t.cellAt 0).seq.dsigs == [(.dsig 0 false 0 1, 1, 1)]) = true) := by decide

def Tests.seqOf (q : Seq) (v : Vault := {}) : State := { State.reset.onCell 0 (fun k => { k with seq := q, vault := v, codeLim := 4 }) with vtime := 1000 }
def Tests.sq (t : State) : Seq := (t.cellAt 0).seq
theorem witness_sequencer_runs :
    Tests.gives (.programStart 0) (Tests.seqOf { st := .armed, startAt := 1000, t0 := 1000 }) (fun t => (Tests.sq t).st == .running && (Tests.sq t).ref == 1000 &&
      (t.cellAt 0).vault.owned) = true ∧
    Tests.gives (.programStart 0) (Tests.seqOf { st := .armed, startAt := 1001, t0 := 1001 }) (fun t => t == Tests.seqOf { st := .armed, startAt := 1001, t0 := 1001 }) = true ∧
    Tests.gives (.resumePreamble 0) (Tests.seqOf { st := .running, pre := [3], ref := 900, refb := 900 }) (fun t => (Tests.sq t).pre == [] &&
      ((t.cellAt 0).vault.bank 3).act == some 1000) = true ∧
    Tests.gives (.dstopEffect 0) (Tests.seqOf { st := .running, stops := [(1000, false)], index := 5 } { owned := true }) (fun t => (Tests.sq t).st == .suspended &&
      (Tests.sq t).stops == [] && (Tests.sq t).index == 5 && !(t.cellAt 0).vault.owned) = true ∧
    Tests.gives (.dstopEffect 0) (Tests.seqOf { st := .running, stops := [(1000, true)] } { owned := true }) (fun t => (Tests.sq t).st == .stopped) = true ∧
    Tests.gives (.seqFetch 0) (Tests.seqOf { st := .running, fetchNext := some (2, 0) }) (fun t => Tests.seqFault t 0x10 6) = true ∧
    Tests.gives (.faultPrecharge 0) (Tests.seqOf { st := .suspended, precharge := some 999 } { banks := [(1, { row := some 5, act := some 100 })] }) (fun t =>
      (Tests.sq t).precharge == none && ((t.cellAt 0).vault.bank 1).row == none) = true := by decide
/-- A program of one DEND, and one whose entry is reserved, at TCM offset 0. -/
def Tests.image (w : Word) (q : Seq) : State := Tests.put (Tests.seqOf q) (Tests.tcm 0) [0x0120000100000000, w]
def Tests.drun (t0 : Word) : Cmd := { Tests.cmd (.drun Tests.h) (.bad 0) 0 { v := t0 } with a := Tests.loc 0, len := 1 }
theorem witness_sequencer_commands : let s := Tests.image 0xB000000000000000 { cmds := [Tests.drun 0xFFFFFFF] }
    let u := Tests.image 0xB000000000000000 { cmds := [Tests.drun 0] }
    let p := Tests.seqOf { index := 5, iter := 7, cmds := [{ Tests.cmd (.dpos Tests.h) (.bad 0) 0 with len := 1 }] }
    s.drunCode 0 (Tests.drun 0xFFFFFFF) (false, false, true) = 0 ∧
    Tests.gives (.drunAccept 0) s (fun t => (Tests.sq t).st == .armed && (Tests.sq t).startAt == 0xFFFFFFF && (Tests.sq t).image == 0 && (Tests.sq t).cmds == []) = true ∧
    u.drunCode 0 (Tests.drun 0) (false, false, true) ≠ 0 ∧
    Tests.gives (.drunAccept 0) u (fun t => (Tests.sq t).st == .idle && (Tests.sq t).cmds == []) = true ∧
    Tests.gives (.drunAccept 0) p (fun t => (Tests.sq t).cmds == []) = true := by decide
theorem witness_sequencer_columns :
    let d : Deliv := { entry := .drd 0 0 0 (.loc 2) (-1) 0, iter := 1, due := 1000, data := bytesOf 128 0x55 }
    let f : Fetched := { index := 0, iter := 1, entry := .dwr 0 0 0 (.loc 2) (-1) 0 }
    let s := Tests.seqOf { st := .running, elastic := [{ d with done := 120 }] }
    let s0 := Tests.seqOf { st := .running, elastic := [d] }
    let got := State.reset.bytesAt (Tests.tcm 128) 124
    let g := Tests.image 0xB000000000000000 { st := .running, fetchNext := some (0, 0), header := 0x0120000100000000 }
    Tests.gives (.vaultDelivery 0) s (fun t => (Tests.sq t).elastic == [] && t.allFull (Tests.tcm 248) 8 && !t.allFull (Tests.tcm 240) 8) = true ∧
    Tests.gives (.vaultDelivery 0) s0 (fun t => (Tests.sq t).elastic == [{ d with done := 8 }] && t.allFull (Tests.tcm 128) 8 &&
      t.numAt (Tests.tcm 128) 8 == 0x55) = true ∧
    Tests.gives (.vaultDelivery 0) { s0 with vtime := 999 } (fun t => t == { s0 with vtime := 999 }) = true ∧
    Tests.gives (.dwrStaging 0) (Tests.seqOf { st := .running, fetched := [f] }) (fun t => (Tests.sq t).fetched ==
      [{ f with began := true, got := State.reset.bytesAt (Tests.tcm 128) 4 }]) = true ∧
    Tests.gives (.dwrStaging 0) (Tests.seqOf { st := .running, fetched := [{ f with began := true, got := got }] }) (fun t => (Tests.sq t).fetched ==
      [{ f with began := true, got := State.reset.bytesAt (Tests.tcm 128) 128, staged := some (State.reset.bytesAt (Tests.tcm 128) 128) }]) = true ∧
    Tests.gives (.seqFetch 0) g (fun t => (Tests.sq t).fetched == [{ index := 0, iter := 0, entry := .dend 0 }] && (Tests.sq t).fetchNext == none) = true ∧
    Tests.gives (.seqFetch 0) (Tests.image 0xC000000000000000 { st := .running, fetchNext := some (0, 0), header := 0x0120000100000000 })
      (fun t => Tests.seqFault t 0x10 1) = true := by decide

def Tests.vaultOf (v : Vault) (now : Word) : State := { State.reset.onCell 0 (fun k => { k with vault := v }) with vtime := now }
def Tests.vread : Acc := { Tests.acc0 .read 8 with place := some { r := .vault 0, off := 8 } }
theorem witness_vault_events :
    tickRaises 0 6000 = true ∧ Tests.gives (.refreshTick 0) (Tests.vaultOf { banks := [(0, { debt := 8 }), (1, { debt := 7 })] } 6000) (fun t => let v := (t.cellAt 0).vault
      (v.bank 0).debt == 8 && (v.bank 1).debt == 8 && (v.bank 7).debt == 1) = true ∧
    (let s := Tests.vaultOf { ticked := some 6000 } 6000
     Tests.gives (.refreshTick 0) s (fun t => t == s) = true) ∧
    (let s := Tests.vaultOf { banks := [(2, { debt := 1 })] } 1000
     (s.cellAt 0).pickAt (s.sclsOf 0) s.vtime.toNat = some .refAll ∧ Tests.gives (.guardRefresh 0) s (fun t => ((t.cellAt 0).vault.bank 2).debt == 0) = true) ∧
    (let s := Tests.vaultOf { queue := [Tests.vread] } 1000
     (s.startUntimed 0 8 (true, false)).isSome = true ∧ Tests.gives (.untimedAccess 0) s (fun t => (t.cellAt 0).vault.queue == [] && t.mem == s.mem &&
       t.resps.map (fun r => (r.data, r.err, r.back)) == [(s.bytesAt { r := .vault 0, off := 8 } 8, none, .store 1 0 4)]) = true) ∧
    (let s := Tests.vaultOf { queue := [Tests.vread], owned := true } 1000
     Tests.gives (.untimedAccess 0) s (fun t => t == s) = true) := by decide
theorem witness_class_fall : let s (t : Int) (now : Word) : State := { State.reset.onField 79 (fun f => { f with scls := 2, estD := t, sclsSince := 5 }) with vtime := now }
    Tests.gives (.refreshClassFall 79) (s 1439 1048581) (fun t => (t.fieldAt 79).scls == 1 && (t.fieldAt 79).sclsSince == 1048581) = true ∧
    Tests.gives (.refreshClassFall 79) (s 1440 1048581) (fun t => (t.fieldAt 79).scls == 2) = true ∧
    Tests.gives (.refreshClassFall 79) (s 1439 1048580) (fun t => (t.fieldAt 79).scls == 2) = true := by decide
theorem witness_row_remap : let s := (Tests.vaultOf { vrmap := [(0, 0x943F)] } 1000).onField 0 fun f => { f with lasting := [(.vault 0 7, [5183 * 2048])] }
    s.mem.wf = true ∧ s.quiesced 0 = true ∧ (s.cellAt 0).pathFree = true ∧ (s.cellAt 0).vault.queue = [] ∧ 5183 < 5184 ∧ 7 ∈ (s.cellAt 0).liveBanks ∧
    5183 ∈ s.rowsToMap (.vault 0 7) ∧ (s.cellAt 0).pickAt (s.sclsOf 0) 1000 = none ∧
    (s.cellAt 0).vault.spareFor 7 5183 = some 0 ∧ (s.cellAt 0).vault.spareFor 0 5183 = some 1 ∧ (s.cellAt 0).vault.physRow 0 5183 = 5184 := by decide
/-- VaultEvents: a tick of a vault that a program owns, up to a debt of 8 and past it. -/
theorem witness_owned_tick : let s (d : Int) : State := Tests.seqOf { st := .running } { owned := true, banks := (List.range 8).map fun b => (b, { debt := if b = 3 then d else 0 }) }
    let at_ (d : Int) : State := { s d with vtime := 6000 }
    tickRaises ((at_ 7).sclsOf 0) 6000 = true ∧
    Tests.gives (.refreshTick 0) (at_ 7) (fun t => (Tests.sq t).st == .running && (t.cellAt 0).vault.owned && ((t.cellAt 0).vault.bank 3).debt == 8 &&
      ((t.cellAt 0).vault.bank 7).debt == 1) = true ∧
    Tests.gives (.refreshTick 0) (at_ 8) (fun t => Tests.seqFault t 0x14 2 && ((t.cellAt 0).vault.bank 3).debt == 9) = true := by decide
/-- CacheAndTree: a cluster node of two cells, one whose operand is still to come, and its top at the node or above. -/
theorem witness_cluster_node : let y : Tok := { v := 7 }
    let z : Tok := { v := 0xFFFFFFFFFFFFFFFF, poi := true }
    let s (top : Word) (l : List (Nat × Tok)) : State := { ((State.reset.onCell 0 fun k => { k with treech := [(31, top)], inj := [(31, y)] }).onCell 1 fun k => { k with inj := l }) with
      anmask := [(nodeKey 0 0 31, 3)], ltab := [(0, 0x8000), (1, 0x8001)], ftab := [(0, 0x8000)] }.onField 0 fun f => { f with ctab := [(0, 0x8000)] }
    ((List.range 16).filter fun c => ((s 0 []).nodeMask 0 0 31).getLsbD c) = [0, 1] ∧
    (s 0 []).childUnit 0 0 0 = some 0 ∧ (s 0 []).childUnit 0 0 1 = some 1 ∧ (s 0 []).parentOf 0 0 = some (0, 0) ∧
    Tests.gives (.treeNodeCombine 0 0 31) (s 0x8000000000000000 []) (fun t => (t.cellAt 0).inj == [] && t.treeDown == [] && t.treeRound == []) = true ∧
    Tests.gives (.treeNodeCombine 0 0 31) (s 0x8000000000000000 [(31, z)]) (fun t => (t.cellAt 0).inj == [] && (t.cellAt 1).inj == [] && t.treeUp == [] &&
      t.treeRound.get 0 (nodeKey 0 0 31) == 1) = true ∧
    Tests.gives (.treeNodeCombine 0 0 31) (s 0x8800000000000000 [(31, z)]) (fun t => (t.cellAt 0).inj == [] && t.treeDown == [] &&
      t.treeUp == [{ level := 1, node := 0, chan := 31, child := 0, round := 0, v := 6, poi := true, op := 0, top := 1 }]) = true := by decide
/-! ### Witnesses: cache slices, the tree, collectives, links -/

/-- Slice 5 of field 0 caches the first 64 KiB of cell 0's vault. -/
def Tests.cached (v : Slice) : State :=
  { State.reset.onField 0 (fun f => { f with fcb := [(0, 0x8500000100000000)], slices := [(5, v)] }) with vtime := 1000 }
def Tests.cl (dirty : Bool) : CLine := { set := 1, way := 0, line := 1025, dirty := dirty, data := bytesOf 128 0x66 }
def Tests.miss : Acc := { Tests.acc0 .read 8 with place := some { r := .vault 0, off := 0x88 } }
def Tests.slice5 (t : State) : Slice := (t.fieldAt 0).slice 5
theorem witness_cache_fill : let s := Tests.cached { waiting := [Tests.miss] }
    s.cachedCell 0 5 = some 0 ∧ s.boundSlice 0 0x88 = some (0, 5) ∧ s.lineAt { r := .vault 0, off := 0x88 } = none ∧ (Tests.slice5 s).victim 1 = none ∧
    (s.startUntimed 0 128 (true, false)).isSome = true ∧
    Tests.gives (.cacheFill 0 5) s (fun t => (Tests.slice5 t).waiting == [] && t.mem == s.mem && Tests.answered t Tests.miss (State.reset.bytesAt (Tests.tcm 0) 8) none &&
      (Tests.slice5 t).lines.map (fun l => (l.set, l.way, l.line, l.dirty)) == [(1, 0, 1, false)]) = true := by decide
theorem witness_cache_writeback : let s := Tests.cached { waiting := [Tests.miss], lines := [Tests.cl true], live := 1 }
    let f := Tests.cached { flushing := true, lines := [Tests.cl true] }
    let g := Tests.cached { flushing := true, lines := [Tests.cl false] }
    (Tests.slice5 s).victim 1 = some (Tests.cl true) ∧ (s.startUntimed 0 (1025 * 128) (false, true)).isSome = true ∧
    Tests.gives (.cacheFill 0 5) s (fun t => (Tests.slice5 t).lines == [Tests.cl false] && (Tests.slice5 t).waiting == [Tests.miss] &&
      t.numAt { r := .vault 0, off := 1025 * 128 } 8 == 0x66) = true ∧
    (Tests.slice5 f).nextDirty = some (Tests.cl true) ∧ (Tests.slice5 g).nextDirty = none ∧
    Tests.gives (.cacheFlush 0 5) f (fun t => (Tests.slice5 t).lines == [Tests.cl false] && (Tests.slice5 t).flushing) = true ∧
    Tests.gives (.cacheFlush 0 5) g (fun t => (Tests.slice5 t).lines == [Tests.cl false] && !(Tests.slice5 t).flushing && t.mem == g.mem) = true := by decide

/-- An LDF of TREEEXT channel 0 that waits for a result. -/
def Tests.ldfx : Instr := .ldf Tests.hv .w64 false Tests.l
def Tests.extracting (l : List (Nat × Tok)) : State :=
  ((Tests.mine (Tests.at_ Tests.ldfx (Tests.loc 0x40000100))).onCell 0 fun k => { k with ext := l }).onCtx 0 0 fun c =>
    { c with flight := c.flight.map fun b => { b with insts := b.insts.map fun n => { n with st := .held } } }
theorem witness_treeext_pop : let s := Tests.extracting [(0, { v := 7 })]
    (s.envAt 0 0 0 0).map (fun e => (e.n.st, e.blk.instr 0, (e.treeLeft 0).length)) = some (.held, some Tests.ldfx, 1) ∧
    ((s.envAt 0 0 0 0).any fun e => Tests.isMmio (e.access (e.tok .a) 0 8 false) fun o => treeExt o == some 0) = true ∧
    Tests.gives (.treeextPop 0 0) s (fun t => t.cells == s.cells && t.mem == s.mem &&
      ((t.ctxAt 0 0).block 0).map (fun b => (b.acts, b.insts.map fun n => n.st)) == some ([(0, .pop 0)], [.fired])) = true := by decide
/-- Two children's operands at the field node 0, of a group whose top is the field, and of one that goes on. -/
def Tests.treeAt (top level : Nat) : State := { State.reset with
  anmask := [(nodeKey level 0 31, 0x8001)]
  treeUp := [{ level := level, node := 0, chan := 31, child := 15, round := 0, v := 9, poi := true, op := 0, top := top },
             { level := level, node := 0, chan := 31, child := 0, round := 0, v := 0xFFFFFFFFFFFFFFFF, poi := false, op := 0, top := top }] }
theorem witness_tree_combine :
    let s := { (Tests.treeAt 3 1) with ftab := [(0, 0x8000)] }
    let one := { s with treeUp := s.treeUp.take 1 }
    ((List.range 16).filter fun c => (s.nodeMask 1 0 31).getLsbD c) = [0, 15] ∧ s.parentOf 1 0 = some (0, 0) ∧
    Tests.gives (.treeNodeCombine 1 0 31) s (fun t => t.treeRound.get 0 (nodeKey 1 0 31) == 1 && t.treeDown == [] &&
      t.treeUp == [{ level := 2, node := 0, chan := 31, child := 0, round := 0, v := 8, poi := true, op := 0, top := 3 }]) = true ∧
    Tests.gives (.treeNodeCombine 1 0 31) one (fun t => t == one) = true ∧
    Tests.gives (.treeNodeCombine 3 0 31) (Tests.treeAt 3 3) (fun t => t.treeDown == [] && t.treeRound.get 0 (nodeKey 3 0 31) == 1) = true ∧
    foldTree 2 [(0xFFFFFFFFFFFFFFFF, false), (1, false)] = (0xFFFFFFFFFFFFFFFF, false) := by decide
def Tests.down (due : Nat) : State := { State.reset with treeDown := [{ cell := 0, chan := 31, round := 0, v := 9, poi := true, due := due }], vtime := 4 }
theorem witness_tree_extract :
    Tests.gives (.treeExtractValid 0) (Tests.down 5) (fun t => t.treeDown == [] && (t.cellAt 0).ext == [(31, { v := 9, poi := true })]) = true ∧
    Tests.gives (.treeExtractValid 0) (Tests.down 6) (fun t => t == Tests.down 6) = true ∧
    Tests.gives (.treestatRead 0) (State.reset.onCell 0 fun k => { k with treeMiss := true }) (fun t => !(t.cellAt 0).treeMiss) = true := by decide

/-- Port 3 of cell 0 belongs to instance 9 at gateway 2, with buffers of 16 bytes. -/
def Tests.port3 (n : Inst) (stat : Word := 0) : State :=
  (State.reset.onCell 0 fun k => { k with cpcfg := [(3, 0x0800090000000010)], cpstat := [(3, stat)] }).setGate 2 { insts := [(9, n)] }
def Tests.cpost : Cmd := { Tests.cmd (.cpost Tests.h 0 .none 3) (.bad 0) 0 (Tests.loc 0x3FFF0) with a := Tests.loc 0 }
def Tests.post3 : Post := { cell := 0, x := 0, cp := 3, src := 0x2000000000000000, dst := 0x200000000003FFF0 }
def Tests.posted (t : State) : Nat × Nat × Nat := ((t.cellAt 0).cpPosted 3, (t.cellAt 0).cpDone 3, (t.cellAt 0).cpLast 3)
def Tests.inst9 : Inst := { op := 0, fmt := 0x20, count := 2, members := [(0, 3)] }
theorem witness_collective_post : let s := { Tests.port3 Tests.inst9 with gateIn := [Tests.cpost] }
    let u := { Tests.port3 { Tests.inst9 with aborted := true } with gateIn := [Tests.cpost] }
    let v := { Tests.port3 Tests.inst9 with gateIn := [{ Tests.cpost with b := Tests.loc 0x3FFF1 }] }
    (s.cellAt 0).portAt 3 = (2, 9, 16) ∧ s.bufferOk 0 0 Tests.cpost.a.v 16 false = true ∧ s.bufferOk 0 0 Tests.cpost.b.v 16 true = true ∧
    v.bufferOk 0 0 (Tests.cpost.b.v + 1) 16 true = false ∧
    Tests.gives (.collectivePostAccept 0 0) v (fun t => t.gateIn == [] && Tests.posted t == (1, 1, 2) && (t.instOf 2 9).posts == []) = true ∧
    Tests.gives (.collectivePostAccept 0 0) s (fun t => t.gateIn == [] && Tests.posted t == (1, 0, 0) && (t.instOf 2 9).posts == [Tests.post3]) = true ∧
    Tests.gives (.collectivePostAccept 0 0) u (fun t => t.gateIn == [] && Tests.posted t == (1, 1, 1)) = true := by decide
theorem witness_collective_round :
    let q : Post := { Tests.post3 with cp := 5, src := 0x2000000000000008 }
    let n : Inst := { Tests.inst9 with members := [(0, 3), (0, 5)], posts := [q, Tests.post3] }
    let s := Tests.put (Tests.port3 n) (Tests.tcm 0) [0x0000000300000001, 0x00000004FFFFFFFF]
    let w := Tests.port3 { n with posts := [q] }
    let m : Inst := { n with moving := true, parts := [{ id := 4, cell := 0, cp := 3, got := some (s.bytesAt (Tests.tcm 0) 8) }, { id := 5, cell := 0, cp := 5 }] }
    let h : Inst := { m with parts := [{ id := 4, cell := 0, cp := 3, got := some (s.bytesAt (Tests.tcm 0) 8) },
                                       { id := 5, cell := 0, cp := 5, got := some (s.bytesAt (Tests.tcm 8) 8) }] }
    n.ordered = some [Tests.post3, q] ∧ (s.postPieces n q false).map (fun e => (e.addr, e.len)) = [(0x2000000000000008, 8)] ∧
    Tests.gives (.collectiveRoundStart 2 9) s (fun t => (t.instOf 2 9).moving && !(t.instOf 2 9).running && t.mem == s.mem &&
      t.net.map (fun a => (a.place, a.len, a.op)) == [(some (Tests.tcm 0), 8, .read), (some (Tests.tcm 8), 8, .read)]) = true ∧
    m.answered = false ∧ Tests.gives (.collectiveRoundStart 2 9) (Tests.port3 m) (fun t => t == Tests.port3 m) = true ∧
    Tests.gives (.loadResponse 0) { Tests.port3 m with resps := [{ id := 1, back := .gate 2 9 5, err := none, data := s.bytesAt (Tests.tcm 8) 8, due := 0 }] }
      (fun t => t.resps == [] && t.instOf 2 9 == h) = true ∧
    h.answered = true ∧ Tests.gives (.collectiveRoundStart 2 9) (Tests.port3 h) (fun t => (t.instOf 2 9).running &&
      (t.instOf 2 9).acc == [(0, false), (7, false)] && t.net == []) = true ∧
    Tests.gives (.collectiveRoundStart 2 9) w (fun t => t == w) = true := by decide
theorem witness_bucket_step :
    let n : Inst := { Tests.inst9 with dims := [(0, 2, 0)], running := true, acc := [(10, false), (20, true)], posts := [Tests.post3] }
    n.finished = false ∧ (n.move 0).map (fun m => m.2.2) = some (1, 1) ∧
    Tests.gives (.bucketStep 2 9 [[(5, false)]]) (Tests.port3 n) (fun t => (t.instOf 2 9).acc == [(10, false), (25, true)] && (t.instOf 2 9).posts == n.posts) = true := by
  decide
theorem witness_collective_finish :
    let n : Inst := { Tests.inst9 with running := true, acc := [(5, false), (6, true)], posts := [Tests.post3] }
    let s := Tests.port3 n 0x1000000
    let m : Inst := { n with moving := true, parts := [{ id := 4, cell := 0, cp := 3, got := some [] }] }
    let w : Inst := { n with moving := true, parts := [{ id := 4, cell := 0, cp := 3 }] }
    let d : Place := { r := .tcm 0, off := 0x3FFF0 }
    let cab := { Tests.port3 n 0x1000000 with gateIn := [{ Tests.cpost with i := .cabrt Tests.h 0 .none 3 }] }
    let idle := { Tests.port3 { Tests.inst9 with members := [(0, 3)] } with gateIn := [{ Tests.cpost with i := .cabrt Tests.h 0 .none 3 }] }
    n.finished = true ∧ (s.postPieces n Tests.post3 true).map (fun e => (s.pieceAt e, e.len)) = [(some d, 8)] ∧ (s.cellAt 0).cpIdle 3 = false ∧
    Tests.gives (.collectivePostFinish 2 9) s (fun t => (t.instOf 2 9).moving && (t.instOf 2 9).posts == n.posts && t.mem == s.mem &&
      t.net.map (fun a => (a.place, a.op)) == [(some d, .write (bytesOf 4 5 ++ bytesOf 4 6 true))]) = true ∧
    Tests.gives (.collectivePostFinish 2 9) (Tests.port3 w 0x1000000) (fun t => t == Tests.port3 w 0x1000000) = true ∧
    Tests.gives (.collectivePostFinish 2 9) (Tests.port3 m 0x1000000) (fun t => Tests.posted t == (1, 1, 0) && (t.instOf 2 9).posts == [] &&
      (t.instOf 2 9).round == 1) = true ∧
    Tests.gives (.abortMarker 2 9 4 (some 1)) s (fun t => (t.instOf 2 9).aborted && (t.instOf 2 9).posts == [] && (t.instOf 2 9).seen == [4] &&
      Tests.posted t == (1, 1, 1)) = true ∧ s.mem.wf = true ∧
    (let u := Tests.port3 { n with seen := [4] }
     Tests.gives (.abortMarker 2 9 4 (some 1)) u (fun t => t == u) = true) ∧
    cab.instIdle n = false ∧ Tests.gives (.abortMarker 2 9 0 none) cab (fun t => t.gateIn == [] && (t.instOf 2 9).aborted && (t.instOf 2 9).seen == [0]) = true ∧
    idle.instIdle (idle.instOf 2 9) = true ∧
    Tests.gives (.abortMarker 2 9 0 none) idle (fun t => t.gateIn == [] && t.instOf 2 9 == idle.instOf 2 9) = true := by decide
def Tests.frame (dw : Nat) : Frame := { kind := 0, vc := 1, tag := 0, swafer := 3, dwafer := dw, inst := 0, gen := 0, pois := 0, payload := List.replicate 64 0 }
def Tests.link (g : Gate) : State := { State.reset.setGate 4 g with waferId := 1, dims := [4], torus := [(1, [0]), (2, [1])] }
theorem witness_links : let on : Gate := { slkcfg := 0x8000000000000000 }
    Tests.gives (.linkFrameReceive 4 (Tests.frame 1)) (Tests.link {}) (fun t => t == Tests.link {}) = true ∧
    Tests.gives (.linkFrameReceive 4 (Tests.frame 1)) (Tests.link on) (fun t => t.net.length == 1 && t.mem == State.reset.mem) = true ∧
    Tests.gives (.linkWake 4 true) (Tests.link { on with amask := 0x03, fail := 1 }) (fun t => (t.gateAt 4).waking && (t.gateAt 4).fail == 0) = true ∧
    Tests.gives (.wavelengthReady 4 7) (Tests.link { amask := 0x03, waking := true }) (fun t => (t.gateAt 4).amask == 0x83) = true ∧
    Tests.gives (.wakeTimeout 4) { (Tests.link { amask := 0x03, waking := true }) with vtime := 2000 } (fun t => (t.gateAt 4).fail == 0xFC && !(t.gateAt 4).waking) = true ∧
    Tests.gives (.wakeTimeout 4) { (Tests.link { amask := 0x03, waking := true }) with vtime := 1999 } (fun t => (t.gateAt 4).waking) = true ∧
    Tests.gives (.linkPark 4 0x3F) (Tests.link { idle := 64 * 256 }) (fun t => (t.gateAt 4).amask == 0x03 && (t.gateAt 4).pmask == 0x3F) = true ∧
    Tests.gives (.linkPark 4 0x3F) (Tests.link { idle := 64 * 256, txFrames := [Tests.frame 2] }) (fun t => (t.gateAt 4).pmask == 0) = true ∧
    (Tests.link on).linkTo 2 = some 4 ∧
    Tests.gives (.linkFrameReceive 4 (Tests.frame 2)) (Tests.link on) (fun t => (t.gateAt 4).txFrames == [Tests.frame 2] && t.net == []) = true := by decide

/-! ### Witnesses: launches, the host, the mailbox, registers -/

/-- A launch record at index i: STATE, CTRL, LID, START, one level of one group; PASID 5, FMIN 600, PMAX 36000 mW. -/
def Tests.rec (s : State) (i st : Nat) (ctrl : Nat := 0) (start : Nat := 0) (preds : List Nat := []) (level : Nat := 0x450000) : State :=
  s.stored (hdm0 (256 * i)) (bytesOf 2 st ++ bytesOf 2 0 ++ bytesOf 2 ctrl ++ bytesOf 2 1 ++ bytesOf 4 (100 + i) ++ bytesOf 4 5 ++
    bytesOf 8 0xC000000000000000 ++ bytesOf 4 112 ++ bytesOf 2 600 ++ bytesOf 2 36000 ++ bytesOf 1 0 ++ bytesOf 1 0 ++ bytesOf 1 1 ++
    bytesOf 1 preds.length ++ bytesOf 4 0 ++ bytesOf 8 start ++ (List.range 8).flatMap (fun j => bytesOf 4 (preds.getD j 0)) ++ bytesOf 8 level)
/-- Stage 6, with a grant for HCTX 0. -/
def Tests.ready : State := { State.reset with bootst := 6, pgrant := [(0, 0x00008CA000000258)], vtime := 1000 }
theorem witness_launch_post : let s := Tests.rec Tests.ready 63 1
    let bad := Tests.rec { Tests.ready with pgrant := [] } 63 1
    s.recState 63 = 1 ∧ s.postStatus 63 = 0 ∧
    Tests.gives (.launchPosting 63) s (fun t => t.recState 63 == 2 && (t.launchAt 63).pasid == 5 && (t.launchAt 63).queuedAt == 1000) = true ∧
    bad.recBad 63 = false ∧ bad.levelsBad 63 = false ∧ bad.recStart 63 = 0 ∧
    Tests.gives (.launchPosting 63) bad (fun t => t.recState 63 == 6 && t.recNum 63 2 2 == 4) = true ∧
    Tests.gives (.launchPosting 63) (Tests.rec Tests.ready 63 1 0 999) (fun t => t.recNum 63 2 2 == 3) = true ∧
    (Tests.rec Tests.ready 63 1 0 0 [] 0x300000).levelsBad 63 = true ∧
    (Tests.rec Tests.ready 63 1 0 0 [] 0x550000).recBad 63 = true := by decide
theorem witness_launch_dispatch : let s := Tests.rec Tests.ready 0 2
    let w := Tests.rec (Tests.rec Tests.ready 1 4) 0 2 0 0 [101]
    let f := Tests.rec (Tests.rec Tests.ready 1 8) 0 2 0 0 [101]
    s.preds 0 = .done ∧ s.fieldsFree 0 = true ∧ s.timedDue 0 = false ∧
    Tests.gives (.launchDispatch 0) s (fun t => t.recState 0 == 3) = true ∧
    w.preds 0 = .waiting ∧ Tests.gives (.launchDispatch 0) w (fun t => t == w) = true ∧
    f.preds 0 = .failed ∧ Tests.gives (.launchDispatch 0) f (fun t => t.recState 0 == 6 && t.recNum 0 2 2 == 9) = true := by decide
theorem witness_launch_timed : let s := Tests.rec Tests.ready 0 2 0 1000
    let w := Tests.rec (Tests.rec Tests.ready 1 4) 0 2 0 1000 [101]
    s.timedDue 0 = true ∧ (Tests.rec Tests.ready 0 2 0 1001).timedDue 0 = false ∧
    Tests.gives (.timedDispatch 0 true) s (fun t => t.recState 0 == 3) = true ∧
    Tests.gives (.timedDispatch 0 false) s (fun t => t.recState 0 == 6 && t.recNum 0 2 2 == 0x0B) = true ∧
    Tests.gives (.timedDispatch 0 true) w (fun t => t.recState 0 == 9 && t.recNum 0 2 2 == 0x0A && t.supLog == [(0, 0x18)]) = true := by decide
theorem witness_launch_control :
    (Tests.rec Tests.ready 0 2 1).firstReady 0 = true ∧ (Tests.rec Tests.ready 0 2 1).timedDue 0 = false ∧
    Tests.gives (.launchCancel 0) (Tests.rec Tests.ready 0 2 1) (fun t => t.recState 0 == 3 && t.recNum 0 2 2 == 0x10 && t.dispAt == some 1000) = true ∧
    Tests.gives (.launchCancel 0) (Tests.rec { Tests.ready with dispAt := some 1000 } 0 2 1) (fun t => t.recState 0 == 7 && t.recNum 0 4 2 == 0) = true ∧
    Tests.gives (.launchCancel 0) (Tests.rec Tests.ready 0 1 1) (fun t => t.recState 0 == 7 && t.recNum 0 4 2 == 0) = true ∧
    Tests.gives (.launchCancel 0) (Tests.rec Tests.ready 0 4 1) (fun t => t.recState 0 == 4 && t.recNum 0 2 2 == 0x10) = true ∧
    Tests.gives (.launchCancel 0) (Tests.rec Tests.ready 0 9 1) (fun t => t.recState 0 == 9 && t.recNum 0 4 2 == 0) = true ∧
    Tests.gives (.launchCancel 0) (Tests.rec Tests.ready 0 9 3) (fun t => t.recNum 0 4 2 == 0) = true ∧
    Tests.gives (.launchKill ⟨0, false⟩) (Tests.rec { Tests.ready with dispAt := some 1000 } 0 2 2) (fun t => t.recState 0 == 2 && t.recNum 0 2 2 == 0x11) = true ∧
    Tests.gives (.launchKill ⟨0, false⟩) { ((Tests.rec Tests.ready 0 4 2).onCtx 5 3 fun c => { c with next := .at_ 0x2000000000000000 }) with
      launches := [(0, { cells := [5], fields := [0] })] } (fun t => t.recState 0 == 8 && (t.launchAt 0).cells == [] && (t.ctxAt 5 3).next == .idle) = true := by
  decide
/-- Every field at its safe operating point, of which no fused voltage is asked. -/
def Tests.tripped : List (Nat × Field) := (List.range 80).map fun f => (f, { trip := true })
/-- The smallest image: one section of one node. -/
def Tests.imageTail : List Byte := ((bytesOf 4 0 ++ bytesOf 1 1 ++ bytesOf 43 0) ++ (bytesOf 2 1 ++ bytesOf 2 1 ++ bytesOf 4 80 ++ bytesOf 4 32 ++ bytesOf 4 0) ++
  (bytesOf 2 0 ++ bytesOf 1 1 ++ bytesOf 1 1 ++ bytesOf 4 1 ++ bytesOf 24 0)).map fun e => e.1
def Tests.graph : State := { Tests.rec Tests.ready 0 3 with atc := [{ pasid := 5, page := 0, host := 0x10000 }], fields := Tests.tripped }.stored { r := .host 5, off := 0 }
  (bytesOf 4 0x4F564C31 ++ bytesOf 2 1 ++ bytesOf 2 1 ++ bytesOf 4 112 ++ bytesOf 4 (crc32c Tests.imageTail).toNat ++ Tests.imageTail.map fun b => (b, false))
def Tests.place0 : Placement := { fields := [(0, 79)], clusters := [(0, 0, 959)], cells := [(959, 0, 15359)] }
theorem witness_launch_image : (Tests.graph.recGraph 0).map (fun g => (g.npg, g.nodes.length)) = some (1, 1) ∧
    Tests.gives (.launchBinding 0 Tests.place0) (Tests.rec Tests.ready 0 3) (fun t => t.recState 0 == 6 && t.recNum 0 2 2 == 7) = true := by decide
/-- A site of this wafer, but for the power of log 44, which no proof can see; and a launch whose one group another wafer holds. -/
def Tests.sites (s : State) (p : Placement) : List Site :=
  ((s.ownGroups 0).getD []).filterMap fun e => (siteFor p e).map fun c => { g := e, cell := c }
def Tests.graph1 : State := { Tests.graph with torus := [(1, [0])] }
theorem witness_launch_binding : (Tests.sites Tests.graph Tests.place0).map (fun e => e.cell) = [15359] ∧
    Tests.graph.placed 0 Tests.place0 (Tests.sites Tests.graph Tests.place0) = true ∧
    (Tests.graph1.recGraph 0).isSome = true ∧ Tests.graph1.ownGroups 0 = some [] ∧ Tests.graph1.placed 0 Tests.place0 [] = true ∧
    (Tests.graph1.recGraph 0).any (fun g => let b : Bind := { i := 0, graph := g, sites := [] }
      Tests.graph1.bindStatus b == 0 && (M.bindAll { s := Tests.graph1 } Tests.place0 b).isSome) = true ∧
    Tests.gives (.launchBinding 0 Tests.place0) Tests.graph1 (fun t => t.recState 0 == 4 && (t.launchAt 0).cells == [] && (t.launchAt 0).pasid == 0) = true := by
  decide
theorem witness_completion : let s := { Tests.rec Tests.ready 0 4 with launches := [(0, { cells := [5], fields := [0] })] }
    let b := s.onCtx 5 0 fun c => { c with next := .at_ 0x2000000000000000 }
    s.quiet (s.launchAt 0) = true ∧ Tests.gives (.completionToken 0) s (fun t => t.recState 0 == 5 && (t.launchAt 0).cells == [] && (t.launchAt 0).fields == []) = true ∧
    b.quiet (b.launchAt 0) = false ∧ Tests.gives (.completionToken 0) b (fun t => t == b) = true := by decide

def Tests.host (r off : Nat) (wr : Option (List Byte)) : HostAcc := { range := r, off := off, len := 2, wr := wr, poi := false }
/-- A host write of range 0 reaches its home, which has nothing else for it. -/
def Tests.homeGives (s : State) (off : Nat) (d : List Byte) (p : State → Bool) : Bool :=
  let c := s.recordAcc (Tests.host 0 off (some d))
  let s := { s with net := [c] }
  s.firstAtHome 0 c && !s.routerStops c && c.ring.isNone && Tests.gives (.homeAccess 0) s (fun t => t.net.isEmpty && t.resps.map (fun r => r.err) == [none] && p t)
theorem witness_host_memory : let s := State.reset
    let q := Tests.rec s 63 2
    Tests.gives (.hostMemAccess (Tests.host 0 0 none)) s (fun t => t == { s with fresh := 1, net := [s.recordAcc (Tests.host 0 0 none)] }) = true ∧
    s.recState 63 = 0 ∧ Tests.homeGives s (256 * 63) [1, 0] (fun t => t.recState 63 == 1 && t.herrNow == 0) = true ∧
    Tests.homeGives q (256 * 63 + 255) [7] (fun t => t.mem == q.mem && t.herrNow == 1) = true ∧
    Tests.homeGives s 0x4000 [7] (fun t => t.mem == s.mem && t.herrNow == 1) = true ∧
    Tests.gives (.hostMemAccess (Tests.host 0 0xFFFF none)) s (fun t => t.herrNow == 0 && t.net == [] && t.resps.map (fun r => (r.err, r.data)) ==
      [(some cSpace, [(0, true), (0, true)])]) = true ∧
    Tests.gives (.hostMemAccess (Tests.host 0 0xFFFF (some [7, 7]))) s (fun t => t.herr == 0 && t.herrNow == 1 && t.resps.map (fun r => r.err) == [some cSpace]) = true ∧
    { s with herr := 0xFFFFFFFE }.hostDrop.herrNow = 1 ∧ { s with herr := 0xFFFFFFFE, herrNow := 1 }.hostDrop.herrNow = 1 := by decide
theorem witness_host_windows : let s := { State.reset with hwin := [(7, 0xE000020040000000), (5, 0xE000002040000000)] }
    let herr (n : Nat) (wr : Option (List Byte)) (c : Word) : Bool := Tests.gives (.hostMemAccess (Tests.host 1 (n * 2 ^ 30) wr)) s fun t =>
      t.net == [] && t.herrNow == c && t.resps.map (fun r => r.err) == [some cSpace]
    Tests.gives (.hostMemAccess (Tests.host 1 (7 * 2 ^ 30 + 8) (some [1, 2]))) s (fun t => t.net.map (fun a => (a.who, a.vc, a.len)) == [(.host, 7, 2)] &&
      t.net.map (fun a => a.addr) == [0x21840000008]) = true ∧
    herr 6 (some [1]) 1 = true ∧ herr 5 (some [1]) 1 = true ∧ herr 8 (some [1]) 1 = true ∧ herr 6 none 0 = true ∧
    Tests.gives (.hostMemAccess (Tests.host 2 8 none)) { s with mbox := [(8, 7)] } (fun t => t.net == [] &&
      t.resps.map (fun r => (r.err, r.data)) == [(none, [(7, false), (0, false)])]) = true := by decide
theorem witness_host_mailbox : let go := { State.reset with mbctl := 1 }
    Tests.gives (.hostMemAccess (Tests.host 2 0 (some [7, 8]))) go (fun t => t == { go with mbstat := 1 }) = true ∧
    Tests.gives (.hostMemAccess (Tests.host 2 0 (some [7, 8]))) State.reset (fun t => t.payload 2 == [7, 8] && t.mbstat == 0) = true ∧
    Tests.gives (.mailboxOverrun true) go (fun t => t.mbstat == 1) = true ∧ Tests.gives (.mailboxOverrun true) State.reset (fun t => t == State.reset) = true ∧
    (let e (page host order : Nat) : Atc := { pasid := 5, page := page, host := host, order := order }
     let c : Acc := { Tests.acc0 .read 8 with place := some { r := .host 5, off := 7 * 4096 }, done := 4 }
     let q := { State.reset with atc := [e 7 1 0, e 8 2 0] }
     Tests.gives (.atsMiss 5 513 (some (1024, 1))) q (fun t => t.atc == [e 7 1 0, e 8 2 0, e 1 2 1]) = true ∧
     Tests.gives (.atsInvalidation 5 7) q (fun t => t.atc == [e 8 2 0]) = true ∧
     Tests.gives (.atsInvalidation 5 7) { q with net := [c] } (fun t => t == { q with net := [c] }) = true) := by decide

/-- A mailbox command with its payload, in a boot stage. -/
def Tests.mb (opc len : Nat) (d : List (Byte × Bool)) (boot : Word := 6) : State :=
  { State.reset.setPayload 0 (d.map fun e => e.1) with mbctl := BitVec.ofNat 64 (1 + 2 * opc + 2 ^ 32 * len), bootst := boot }
def Tests.mbRc (t : State) (rc : Nat) : Bool := !t.mbctl.getLsbD 0 && fld t.mbstat 8 8 == rc && t.mem == State.reset.mem
theorem witness_mailbox_firmware :
    Tests.gives (.fwload 9) (Tests.mb 1 4 (bytesOf 4 7)) (fun t => Tests.mbRc t 3 && t.bootst == 6) = true ∧
    Tests.gives (.fwload 9) (Tests.mb 1 0 [] 1) (fun t => Tests.mbRc t 2 && t.bootst == 1) = true ∧
    Tests.gives (.fwload 9) (Tests.mb 1 4097 [] 1) (fun t => Tests.mbRc t 2 && t.bootst == 1) = true ∧
    Tests.gives (.fwload 9) (Tests.mb 1 4 (bytesOf 4 7) 1) (fun t => Tests.mbRc t 0 && t.fw.image == [7, 0, 0, 0] && t.bootst == 1) = true ∧
    (let s := { (Tests.mb 1 4 (bytesOf 4 7) 1) with fw := { image := List.replicate 4092 0 } }
     let img := s.fw.image ++ s.payload s.mbLen
     imageLen img = 0 ∧ img.length = 4096) ∧
    (Tests.mb 2 0 []).mbWaits 2 = true ∧
    Tests.gives .attest (Tests.mb 3 31 []) (fun t => Tests.mbRc t 2) = true ∧
    Tests.gives .attest { (Tests.mb 3 32 []) with fw := { leaf := 2 ^ 20 } } (fun t => Tests.mbRc t 3 && t.fw.leaf == 2 ^ 20) = true ∧
    (Tests.mb 3 32 []).mbWaits 3 = true ∧ (Tests.mb 3 32 []).mbLen = 32 ∧ (Tests.mb 3 32 []).fw.leaf < 2 ^ 20 ∧
    Tests.gives .dumpbuf (Tests.mb 4 16 (bytesOf 16 9)) (fun t => Tests.mbRc t 0 && t.fw.dump == (bytesOf 16 9).map fun e => e.1) = true ∧
    Tests.gives .dumpbuf (Tests.mb 4 15 (bytesOf 16 9)) (fun t => Tests.mbRc t 2 && t.fw == {}) = true := by decide
theorem witness_mailbox_control :
    Tests.gives .halt (Tests.mb 5 3 (bytesOf 4 0x00005)) (fun t => Tests.mbRc t 0 && t.haltGroups == 5) = true ∧
    Tests.gives .halt { (Tests.mb 5 4 (bytesOf 4 0x10004)) with haltGroups := 5 } (fun t => Tests.mbRc t 0 && t.haltGroups == 1) = true ∧
    Tests.gives .telem (Tests.mb 6 1 (bytesOf 1 0xFF)) (fun t => Tests.mbRc t 0 && t.payload 8 == leBytes 8 0x8CA00000) = true ∧
    Tests.gives .telem (Tests.mb 6 1 (bytesOf 1 80)) (fun t => Tests.mbRc t 2) = true ∧ (Tests.mb 6 1 (bytesOf 1 79)).mbWaits 6 = true ∧
    Tests.gives (.grant true) (Tests.mb 7 16 (bytesOf 8 15 ++ bytesOf 8 0x18CA000000640)) (fun t => Tests.mbRc t 0 && t.pgrant == [(15, 0x18CA000000640)]) = true ∧
    Tests.gives (.grant false) (Tests.mb 7 16 (bytesOf 8 15 ++ bytesOf 8 600)) (fun t => Tests.mbRc t 3 && t.pgrant == []) = true ∧
    Tests.gives (.grant true) (Tests.mb 7 16 (bytesOf 8 16 ++ bytesOf 8 600)) (fun t => Tests.mbRc t 2) = true ∧
    Tests.gives (.grant true) (Tests.mb 7 16 (bytesOf 8 15 ++ bytesOf 8 1601)) (fun t => Tests.mbRc t 2) = true ∧
    Tests.gives .unknownMailboxCommand (Tests.mb 9 0 []) (fun t => Tests.mbRc t 1) = true ∧
    Tests.gives .unknownMailboxCommand State.reset (fun t => t == State.reset) = true := by decide
/-- A torus of two wafers in one dimension; this one is wafer 7, at 1. -/
def Tests.torus2 (own : Nat) : List (Byte × Bool) := bytesOf 1 own ++ bytesOf 1 1 ++ bytesOf 2 2 ++ bytesOf 2 2 ++ bytesOf 10 0 ++
  bytesOf 1 9 ++ bytesOf 7 0 ++ bytesOf 1 7 ++ bytesOf 1 1 ++ bytesOf 6 0
theorem witness_mailbox_syscfg : let s := Tests.mb 8 32 (Tests.torus2 7)
    let b := Tests.rec s 0 4
    s.torusOk (s.payload s.mbLen) = true ∧ s.busyLaunch = false ∧
    Tests.gives .syscfg s (fun t => Tests.mbRc t 0 && t.waferId == 7 && t.dims == [2] && t.torus == [(9, [0]), (7, [1])]) = true ∧
    Tests.gives .syscfg (Tests.mb 8 32 (Tests.torus2 8)) (fun t => Tests.mbRc t 2 && t.torus == State.reset.torus) = true ∧
    b.busyLaunch = true ∧ Tests.gives .syscfg b (fun t => fld t.mbstat 8 8 == 4 && t.torus == State.reset.torus) = true := by decide
def Tests.boot (n : Word) : State := { State.reset with bootst := n }
theorem witness_boot :
    Tests.gives (.bootProgress (some [])) (Tests.boot 0) (fun t => t.bootst == 1) = true ∧
    Tests.gives (.bootProgress (some [])) (Tests.boot 1) (fun t => t == Tests.boot 1) = true ∧
    Tests.gives (.bootProgress (some [])) (Tests.boot 2) (fun t => t.bootst == 3) = true ∧
    ((Tests.boot 3).cellAt 5).vault.spareFor 7 100 = some 0 ∧
    Tests.gives (.bootProgress (some [(5, 7, 100)])) (Tests.boot 3) (fun t => t.bootst == 4 && ((t.fieldAt 7).slice 78).mode == 2 &&
      ((t.fieldAt 79).slice 79).mode == 2 && ((t.fieldAt 0).slice 77).mode == 3 && (t.cellAt 5).vault.vrmap == [(7 * 128, 0x8064)]) = true ∧
    Tests.gives (.bootProgress (some [])) { (Tests.boot 4) with launches := [(0, {})] } (fun t => t.bootst == 5 && t.launches == []) = true ∧
    Tests.gives (.bootProgress (some [])) { (Tests.boot 4) with launches := [(0, {})], fw := { resume := true } } (fun t => t.bootst == 5 && t.launches == [(0, {})]) = true ∧
    Tests.gives (.bootProgress (some [])) (Tests.boot 5) (fun t => t.bootst == 6) = true ∧
    Tests.gives (.bootProgress none) (Tests.boot 5) (fun t => t.bootst == 0xFF) = true := by
  decide
theorem witness_registers :
    Tests.gives (.registerWrite .mbctl 0x000F_FFFF_FFFF) { State.reset with mbctl := 1 } (fun t => t.mbctl == 1 && t.mbstat == 1) = true ∧
    Tests.gives (.registerWrite .mbctl 0xFFFFFFFFFFFFFFFF) State.reset (fun t => t.mbctl == 0x0000FFFF0000FFFF) = true ∧
    Tests.gives (.registerWrite .mbstat 1) { State.reset with mbstat := 0x301 } (fun t => t.mbstat == 0x300) = true ∧
    Tests.gives (.registerWrite .mbstat 0) { State.reset with mbstat := 0x301 } (fun t => t.mbstat == 0x301) = true ∧
    Tests.gives (.registerWrite (.ftab 127) 0xFFFF) { State.reset with gen := 4 } (fun t => t.ftab == [(127, 0x807F)] && t.wroteGen.get 0 (bindKey (.ftab 127)) == 5) = true := by
  decide

/-! ### Witnesses: stops, repair, power, the step -/

/-- Context 3 of cell 0, stopped by a cause at a block. -/
def Tests.stopped (c : Word) (nx : Nxt := .at_ 0x2000000000000040) : State := State.reset.onCtx 0 3 fun x =>
  { x with stopped := true, tcause := 0x8000000000000000 + c, tblk := 0x2000000000000040, tval := 1, next := nx, mq := [Tests.msg false []],
           slots := [(63, { v := 5, poi := true, wrote := some 0 })] }
def Tests.c3 (t : State) : Ctx := t.ctxAt 0 3
theorem witness_stop_report : let s := Tests.stopped 0x0206
    Tests.gives (.stopReport 0 3 true) s (fun t => Tests.c3 t == { Tests.c3 s with told := true } && t.supLog == [] && t.reports.map (fun r => (r.1, r.2.1, r.2.2.cause, r.2.2.detail)) == [(0, 3, 6, 2)]) = true ∧
    Tests.gives (.stopReport 0 3 false) s (fun t => t.supLog == [(3, 0x8000000000000206)]) = true ∧
    Tests.gives (.stopReport 0 3 true) (Tests.stopped 0x0A) (fun t => t.supLog.length == 1) = true ∧
    (let u := s.onCtx 0 3 fun c => { c with told := true }
     Tests.gives (.stopReport 0 3 true) u (fun t => t == u) = true) ∧
    Tests.gives (.stopReport 0 2 true) s (fun t => t == s) = true := by decide
theorem witness_stop_actions : let s := Tests.stopped 0x06
    let fatal := Tests.stopped 0x1F
    cHwFatal = 0x1F ∧ Tests.gives (.resume 0 3) s (fun t => !(Tests.c3 t).stopped && (Tests.c3 t).next == .at_ 0x2000000000000040 && (Tests.c3 t).mq == (Tests.c3 s).mq) = true ∧
    Tests.gives (.resume 0 3) (Tests.stopped 0x0A (.wfm 0x80)) (fun t => !(Tests.c3 t).stopped && (Tests.c3 t).next == .wfm 0x2000000000000040) = true ∧
    Tests.gives (.redirect 0 3 0x1FC0) s (fun t => !(Tests.c3 t).stopped && (Tests.c3 t).next == .at_ 0x1FC0) = true ∧
    Tests.gives (.redirect 0 3 0x1FC1) s (fun t => t == s) = true ∧
    Tests.gives (.endh 0 3) s (fun t => !(Tests.c3 t).stopped && (Tests.c3 t).next == .idle && (Tests.c3 t).cdepth == 0) = true ∧
    (Tests.c3 s).pending 63 = false ∧ Tests.gives (.setslot 0 3 63 9 2) s (fun t => (Tests.c3 t).stopped && (Tests.c3 t).slotAt 63 == { v := 9, life := 2, wrote := some 1 }) = true ∧
    Tests.gives (.mode 0 3 true) s (fun t => (Tests.c3 t).sup && (Tests.c3 t).nextSup) = true ∧
    Tests.gives (.clrstat 0 3) (s.onCtx 0 3 fun c => { c with sterr := 0x0600_0001_0000_0007 }) (fun t => (Tests.c3 t).sterr == 7) = true ∧
    Tests.gives (.resume 0 3) fatal (fun t => t == fatal) = true ∧ Tests.gives (.endh 0 3) fatal (fun t => t == fatal) = true := by decide
theorem witness_slot_pending : let s := (Tests.stopped 0x06).onCtx 0 3 fun c => { c with lands := [{ id := 1, slot := 63, life := 0 }] }
    (Tests.c3 s).pending 63 = true ∧ Tests.gives (.setslot 0 3 63 9 2) s (fun t => Tests.c3 t == Tests.c3 s) = true := by decide
theorem witness_hardware_fatal :
    Tests.gives (.hwFatalFault 0 5) { State.reset with launches := [(7, { cells := [0] })] } (fun t => (t.cellAt 0).failed && (t.cellAt 0).routerDown &&
      (t.ctxAt 0 0).stopped && (t.ctxAt 0 3).tval == 5 && (t.ctxAt 0 3).tcause.extractLsb' 0 16 == 0x051F && t.dumpDue == [7]) = true ∧
    Tests.gives (.hwFatalFault 0 7) State.reset (fun t => (t.cellAt 0).failed && !(t.cellAt 0).routerDown) = true ∧
    (let d := (bytesOf 8 16 ++ bytesOf 8 2).map fun e => e.1
     let l : Launch := { pasid := 5, fields := [0] }
     let s := { State.reset with fw := { dump := d }, launches := [(0, l)], atc := [{ pasid := 5, page := 0, host := 0x10000 }] }
     Tests.gives (.fatalDump 0 true) s (fun t => t.dumps.length == 1 && t.numAt { r := .host 5, off := 16 } 4 == 2) = true ∧
     Tests.gives (.fatalDump 0 false) { s with dumpDue := [3, 0] } (fun t => t.dumps.length == 1 && t.dumpDue == [3]) = true ∧
     Tests.gives (.fatalDump 0 false) s (fun t => t.dumps.length == 0) = true ∧
     Tests.gives (.fatalDump 0 true) { s with fw := {} } (fun t => t.dumps.length == 0 && t.mem == s.mem) = true) ∧
    (let s := { State.reset with bootst := 6, fw := { image := [1], svn := 3 } }
     (∀ j < 64, s.recState j = 0) ∧
     Tests.gives .supervisorRecovery s (fun t => t.bootst == 1 && t.fw.image == [] && t.fw.resume && t.launches == s.launches) = true) := by
  decide
/-- StoppedContexts: a context that is only halted takes the actions, one with a block under way does not. -/
theorem witness_halted_actions : let s := (State.reset.onCell 0 fun k => { k with halted := 1 }).onCtx 0 3 fun c => { c with next := .at_ 0x80 }
    let u := s.onCtx 0 3 fun c => { c with flight := [Tests.acqBlock Tests.sacq] }
    Tests.gives (.resume 0 3) s (fun t => Tests.c3 t == Tests.c3 s) = true ∧
    Tests.gives (.redirect 0 3 0x1FC0) s (fun t => (Tests.c3 t).next == .at_ 0x1FC0) = true ∧
    Tests.gives (.mode 0 3 true) s (fun t => (Tests.c3 t).sup) = true ∧
    Tests.gives (.setslot 0 3 63 9 2) s (fun t => ((Tests.c3 t).slotAt 63).v == 9) = true ∧
    Tests.gives (.resume 0 3) u (fun t => t == u) = true ∧ Tests.gives (.mode 0 3 true) u (fun t => Tests.c3 t == Tests.c3 u) = true := by decide
def Tests.bank15 : BankRef := .tcm 0 15
def Tests.bankState (v : Word) (log : List (Nat × Nat × Bool)) (lasting : List Nat) : State :=
  { State.reset.onField 0 (fun f => { f with banklog := [(Tests.bank15, log)], lasting := if lasting.isEmpty then [] else [(Tests.bank15, lasting)] }) with vtime := v }
def Tests.lasts (t : State) : List Nat := bankLog (t.fieldAt 0).lasting Tests.bank15
theorem witness_bank_errors :
    Tests.gives (.bankErrorEvent Tests.bank15 3 true) (Tests.bankState (BitVec.ofNat 64 (2 ^ 24)) [(5, 2, true), (1, 1, true)] []) (fun t => Tests.lasts t == [3, 2, 1]) = true ∧
    Tests.gives (.bankErrorEvent Tests.bank15 3 true) (Tests.bankState (BitVec.ofNat 64 (2 ^ 24 + 1)) [(5, 2, true), (1, 1, true)] []) (fun t => Tests.lasts t == []) = true ∧
    Tests.gives (.bankErrorEvent Tests.bank15 3 false) { (Tests.bankState 9 [] []) with launches := [(0, { cells := [0] })] } (fun t => Tests.lasts t == [3]) = true ∧
    Tests.gives (.bankErrorEvent Tests.bank15 3 false) (Tests.bankState 9 [] []) (fun t => Tests.lasts t == [] && t.mem.isPoison (keyOf 1 0 (15 * 16384) / 8)) = true ∧
    (Tests.bankState 9 [] [3]).bankQuiesced Tests.bank15 = true ∧
    Tests.gives (.bankRetirement Tests.bank15) (Tests.bankState 9 [] [3]) (fun t => (t.cellAt 0).tcmLive == 0x7FFF && Tests.lasts t == []) = true ∧
    Tests.gives (.bankRetirement Tests.bank15) (Tests.bankState 9 [] []) (fun t => t == Tests.bankState 9 [] []) = true ∧
    Tests.gives (.bankRetirement (.opm 0 1)) (State.reset.onField 0 fun f => { f with lasting := [(.opm 0 1, [3])] }) (fun t => (t.cellAt 0).dead) = true := by decide
theorem witness_cell_retirement : let s := State.reset.onCell 0 fun k => { k with vltLive := 0x07 }
    s.mustRetire 0 = true ∧ s.quiesced 0 = true ∧ Tests.gives (.cellRetirement 0) s (fun t => (t.cellAt 0).dead && t.ctxs == s.ctxs &&
      t.numAt (hdm0 (0x4000 + 88)) 1 == 1) = true ∧
    State.reset.mustRetire 0 = false ∧ Tests.gives (.cellRetirement 0) State.reset (fun t => t == State.reset) = true := by decide
/-- A running launch on cell 5, whose field is gated and drained; every field at its safe point, so that no fused voltage is asked. -/
def Tests.runs5 (gated : Bool) (snap : Bool) : State :=
  { ({ Tests.rec Tests.ready 0 4 with fields := Tests.tripped } : State).onField 0 (fun f => { f with gated := gated }) with launches := [(0, { cells := [5], clusters := [0], fields := [0], snap := snap })] }
theorem witness_preemption : let p := siteOf 0
    (Tests.runs5 false false).rectFields p.1 p.2 p.1 p.2 = [0] ∧ (Tests.runs5 true false).drained [0] = true ∧
    Tests.gives (.preemption p.1 p.2 p.1 p.2) (Tests.runs5 false false) (fun t => (t.fieldAt 0).gated) = true ∧
    Tests.gives (.preemption p.1 p.2 p.1 p.2) (Tests.runs5 true false) (fun t => (t.launchAt 0).snap && t.fsnaps.map (fun e => (e.launch, e.field)) == [(0, 0)] &&
      t.snaps.any fun e => e.launch == 0 && e.cell == 5) = true ∧
    (let a : Acc := { id := 3, who := .ctx 5 0, cell := 5, vc := 0, addr := 0x40, len := 8, op := .read, back := .inst 5 0 5 0 }
     let s := { Tests.runs5 true false with resps := [], net := [a] }
     s.drained [0] = false ∧ Tests.gives (.preemption p.1 p.2 p.1 p.2) s (fun t => t == State.gateField { s with gating := [0] } 0) = true) ∧
    (let s := { Tests.runs5 false false with gating := [1] }
     Tests.gives (.preemption p.1 p.2 p.1 p.2) s (fun t => t == s) = true) ∧
    (let s := (Tests.runs5 true false).onField 0 fun f => { f with slices := [(7, { mode := 1, lines := [{ set := 0, way := 0, line := 3, dirty := true, data := [] }] })] }
     s.drained [0] = true ∧ s.fieldDirty 0 = true ∧ Tests.gives (.preemption p.1 p.2 p.1 p.2) s (fun t => ((t.fieldAt 0).slice 7).flushing && !(t.launchAt 0).snap) = true) := by decide
theorem witness_restore : let s := Tests.runs5 true true
    s.recState 0 = 4 ∧ s.restorable 0 [(5, 6)] = true ∧ s.unflushed (s.launchAt 0) = false ∧
    Tests.gives (.snapshotRestore 0 [(5, 6)]) s (fun t => !(t.launchAt 0).snap && (t.launchAt 0).cells == [6] && t.snaps == [] && !(t.fieldAt 0).gated) = true ∧
    s.restorable 0 [(4, 6)] = false ∧ Tests.gives (.snapshotRestore 0 [(4, 6)]) s (fun t => t == s) = true ∧
    (let u := { s with rebindStep := 1 }
     Tests.gives (.snapshotRestore 0 [(5, 6)]) u (fun t => t == u) = true) ∧
    Tests.gives (.snapshotRestore 0 []) s (fun t => t.recState 0 == 8 && t.recNum 0 2 2 == 8 && (t.launchAt 0).cells == []) = true := by decide
/-- A launch pre-empted with its only node, of REP 1 and restart allowed, on a dead cell. -/
def Tests.adopting : State :=
  { (Tests.graph.recorded 0 4 0).onCell 5 (fun k => { k with dead := true, nodes := [(7, { tag := 0x70, gidx0 := 9 })] }) with
    ltab := [(3, 0x8005)]
    snaps := [{ launch := 0, cell := 5, state := {}, ctxs := [] }]
    launches := [(0, { pasid := 5, cells := [5], clusters := [0], fields := [0], snap := true, nodes := [{ cell := 5, ctx := 1, lnode := 0, group := 0, tag := 0x70 }] })] }
theorem witness_adoption_site : let s := Tests.adopting
    s.ltabOf 5 = some (0, 3, 0x8005) ∧ (s.recGraph 0).isSome = true ∧
    ((s.launchAt 0).nodes.find? fun e => e.cell == 5 && e.tag / 16 % 32 == 7).isSome = true ∧
    Tests.gives (.nodeAdoption 0 4 6 1 7 0 0) s (fun t => t.gen == 0 && t.ltab == s.ltab) = true := by decide
theorem witness_adoption : let s := Tests.adopting
    (s.recGraph 0).any (fun g => g.nodes.any fun r => s.adoptOk { launch := 0, dead := 5, cell := 6, x := 1, node := 7, am := 0, base := 63 } g
      { cell := 5, ctx := 1, lnode := 0, group := 0, tag := 0x70 } r 0x8005) = true := by decide
theorem witness_segments : let g := State.reset.onField 0 fun f => { f with gated := true }
    let live := State.reset.onCtx 0 0 fun c => { c with stopped := true }
    let part := State.reset.onCell 0 fun k => { k with lcur := lcurOf 1 3 }
    let load := { part with launches := [(0, { cells := [0], loading := true })] }
    let go (seg : Nat) (last d : Bool) (data : List (Nat × Byte)) : Instr := .configSegmentLoad 0 1 ⟨seg, last⟩ d [] data
    Tests.gives (go 2 false true [(8, 7)]) g (fun t => t.cellAt 0 == { g.cellAt 0 with lcur := lcurOf 1 3 } && t.numAt (Tests.tcm 8) 1 == 7) = true ∧
    Tests.gives (go 2 true true [(8, 7)]) g (fun t => (t.cellAt 0).lcur == 0 && t.numAt (Tests.tcm 8) 1 == 7) = true ∧
    (let w := part.onField 0 fun f => { f with gated := true }
     Tests.gives (go 3 true true [(8, 7)]) w (fun t => t == w) = true) ∧
    live.liveState 0 = true ∧ Tests.gives (go 2 true false [(8, 7)]) live (fun t => t == { live with supLog := [(0, 0)] }) = true ∧
    Tests.gives (go 2 true true []) live (fun t => t.supLog == [(0, 1)] && !(t.ctxAt 0 0).stopped) = true ∧
    Tests.gives (go 2 true false [(0x3FFFF, 7)]) State.reset (fun t => t.cells == [] && t.numAt (Tests.tcm 0x3FFFF) 1 == 7) = true ∧
    Tests.gives (go 2 true false []) load (fun t => t == load) = true ∧
    Tests.gives (go 3 false false []) load (fun t => (t.cellAt 0).lcur == lcurOf 1 4) = true := by decide
theorem witness_halts : let s := { (State.reset.onCell 0 fun k => { k with hgrp := 0x8001 }) with haltGroups := 0x8000 }
    Tests.gives (.haltSignal ⟨0x8001, false⟩ [0]) s (fun t => (t.cellAt 0).halted == 0x8000) = true ∧
    Tests.gives (.haltSignal ⟨1, false⟩ [0]) s (fun t => t == s) = true ∧
    Tests.gives (.haltSignal ⟨1, true⟩ [0]) s (fun t => (t.cellAt 0).halted == 1 && t.haltGroups == 0x8001) = true ∧
    Tests.gives (.haltRelease 0x8001 [0]) (s.onCell 0 fun k => { k with halted := 0x8001 }) (fun t => (t.cellAt 0).halted == 0x8000) = true := by decide
theorem witness_rebinding : let a : Acc := { id := 3, who := .ctx 1 0, cell := 1, vc := 0, addr := 0x40, len := 8, op := .read, back := .inst 1 0 5 0 }
    let e : RegRef × BitVec 64 := (.ftab 0, 0x8000)
    let one := { State.reset with rebindStep := 1, gen := 1, net := [a], wroteGen := [(bindKey (.ftab 0), 1)] }
    let mis := { one with net := [], misq := [(one.misField a, a)], ftab := [(0, 0x8000)], ltab := [(0, 0x8000)] }.onField 0 fun f => { f with ctab := [(0, 0x8000)] }
    let two := { State.reset with rebindStep := 2, holds := [0], rebindVs := [0], reinj := [3] }
    let full := { one with misq := List.replicate 4096 (one.misField a, a) }
    Tests.gives (.rebinding [e] []) State.reset (fun t => t.rebindStep == 1 && t.gen == 1 && t.holds == [0] && t.ftab == [(0, 0x8000)]) = true ∧
    Tests.gives (.rebinding [] []) State.reset (fun t => t == State.reset) = true ∧
    one.stale a = true ∧ Tests.gives (.rebinding [e] []) one (fun t => t == one) = true ∧
    Tests.gives (.flitMisroute 0) one (fun t => t == { one with net := [], misq := [(one.misField a, a)] }) = true ∧
    Tests.gives (.flitMisroute 0) { one with gen := 0 } (fun t => t == { one with gen := 0 }) = true ∧
    full.misRoom (one.misField a) = false ∧
    mis.translates a = true ∧ Tests.gives (.rebinding [e] []) mis (fun t => t.misq == [] && t.reinj == [3] && t.rebindStep == 2 &&
      t.net.map (fun b => (b.id, b.gen)) == [(3, 1)]) = true ∧
    { two with net := [a] }.swept = false ∧ Tests.gives (.rebinding [e] []) { two with net := [a] } (fun t => t == { two with net := [a] }) = true ∧
    two.swept = true ∧ Tests.gives (.rebinding [e] []) two (fun t => t.rebindStep == 0 && t.holds == [] && t.reinj == []) = true := by decide
theorem witness_repairs :
    Tests.gives (.vaultInterfaceFailure 0) State.reset (fun t => (t.cellAt 0).vifDead) = true ∧
    State.reset.quiesced 0 = true ∧ Tests.gives (.meshRouteRepair 0) (State.reset.onCell 0 fun k => { k with routerDown := true }) (fun t => (t.cellAt 0).avoided) = true ∧
    (Tests.runs5 false false).quiesced 5 = false ∧ Tests.gives (.meshRouteRepair 5) (Tests.runs5 false false) (fun t => t == Tests.runs5 false false) = true := by decide

def Tests.f79 (f : Field) : State := State.reset.setField 79 f
def Tests.at79 (t : State) : Field := t.fieldAt 79
theorem witness_power : let hot : Field := { tlog := 1888 }
    Tests.gives (.thermalTrip 79) (Tests.f79 { tlog := 1887 }) (fun t => !(Tests.at79 t).trip) = true ∧ (1888 : BitVec 16).toInt = 118 * 16 ∧ hot.trip = false ∧
    Tests.gives (.tripClear 79) { Tests.f79 { trip := true, below := some 5 } with vtime := 10005 } (fun t => !(Tests.at79 t).trip) = true ∧
    Tests.gives (.tripClear 79) { Tests.f79 { trip := true, below := some 5 } with vtime := 10004 } (fun t => (Tests.at79 t).trip) = true ∧
    (let up : Field := { settled := false, freqGoal := 1600, volt := some 900 }
     let down : Field := { settled := false, volt := some 900, voltGoal := some 800 }
     up.governed = true ∧ 79 ∈ (Tests.f79 up).governedIn 79 ∧
     Tests.gives (.voltageSettled 79) (Tests.f79 up) (fun t => Tests.at79 t == { up with settled := true }) = true ∧
     Tests.gives (.voltageSettled 79) (Tests.f79 down) (fun t => (Tests.at79 t).volt == some 800 && (Tests.at79 t).voltGoal == none) = true) ∧
    Tests.gives (.voltageSettled 79) (Tests.f79 { trip := true, settled := false }) (fun t => !(Tests.at79 t).settled) = true ∧
    State.reset.freqOk 79 599 = false ∧
    Tests.gives (.operatingPointChange 79 700 599) State.reset (fun t => t == State.reset) = true ∧
    State.reset.sampled 79 5 = false ∧ (Tests.f79 { sensors := [(5, { seen := 1 })] }).sampled 79 5 = true ∧
    Tests.gives (.sensorSample 79 5 9) { Tests.f79 { sensors := [(5, { seen := 1 })] } with vtime := 999 } (fun t => ((Tests.at79 t).sensor 5).seen == 1) = true ∧
    Tests.gives (.sensorSample 79 5 9) { Tests.f79 { sensors := [(5, { seen := 1 })] } with vtime := 1000 } (fun t => ((Tests.at79 t).sensor 5).seen == 2) = true ∧
    Tests.gives (.sensorSample 79 6 0) State.reset (fun t => t == State.reset) = true ∧
    Tests.gives (.sensorSuspectClear 79 5) (Tests.f79 { sensors := [(5, { last := 9, suspect := true })] }) (fun t => !((Tests.at79 t).sensor 5).suspect &&
      ((Tests.at79 t).sensor 5).last == 9) = true ∧
    State.reset.controlled = false ∧ Tests.gives (.saffronControlPeriod [] [] [] []) { State.reset with vtime := 10000 } (fun t => t.period == 2) = true ∧
    (let s := { State.reset with vtime := 9999, period := 1 }
     s.controlled = true ∧ Tests.gives (.saffronControlPeriod [] [] [] []) s (fun t => t == s) = true) := by decide
theorem witness_clocks : let s := (State.reset.onCell 0 fun k => { k with issN := 3, commits := [1], entered := true, slewV := 5, slewM := 6 }).setField 0 { cycle := 62, ebfill := 9, phase := 400 }
    (∀ c < 4, (s.cellAt c).semWait = []) ∧ s.cycleDue 0 = true ∧
    Tests.gives (.coreCycle 0) s (fun t => (t.cellAt 0).issN == 0 && (t.cellAt 0).commits == [] && !(t.cellAt 0).entered && (t.cellAt 0).slewV == 5 &&
      (t.fieldAt 0).cycle == 63 && (t.fieldAt 0).tick == 1) = true ∧
    Tests.gives (.coreCycle 0) (s.onField 0 fun f => { f with cycle := 63, ebbal := 0 }) (fun t => (t.cellAt 0).slewV == 0 && (t.cellAt 0).slewM == 0 && (t.fieldAt 0).ebbal == 9) = true ∧
    (let u := s.setField 0 { phase := 399 }
     u.cycleDue 0 = false ∧ Tests.gives (.coreCycle 0) u (fun t => t == u) = true) ∧
    Tests.gives (.coreCycle 0) (s.onCell 0 fun k => { k with hdrop := 0xFFFFFFFE, hdropNow := 5, missNow := true, semLate := [(7, 9)] }) (fun t =>
      (t.cellAt 0).hdrop == 0xFFFFFFFF && (t.cellAt 0).hdropNow == 0 && (t.cellAt 0).treeMiss && (t.cellAt 0).sem.get 0 7 == 9) = true ∧
    State.reset.cells = [] ∧ State.reset.fields = [] ∧ State.reset.gates = [] ∧ State.reset.treeDown = [] ∧ State.reset.clockDue = true ∧
    (let w := { State.reset with vtime := 0xFFFFFFFFFFFFFFFF, herr := 5, herrNow := 2 }
     w.vtime.toNat % 1500 ≠ 0 ∧ w.vtime.toNat % 1000 ≠ 999 ∧ Tests.gives .vaultClock w (fun t => t.vtime == 0 && t.herr == 7 && t.herrNow == 0) = true) ∧
    (let w := { Tests.f79 { phase := 900, freq := 1100, freqGoal := 1100, stretched := some 0, tick := 15 } with vtime := 1 }
     w.clockDue = false ∧ Tests.gives .vaultClock w (fun t => t == w) = true) ∧
    (let w := { Tests.f79 { phase := 300 } with vtime := 1 }
     (Tests.at79 w).waits = true ∧ Tests.gives .vaultClock w (fun t => (Tests.at79 t).phase == 900 && t.vtime == 2) = true) ∧
    Tests.gives .waferReset (Tests.rec { Tests.ready with agenda := [.entry 0] } 0 4) (fun t => t.recState 0 == 4 && t.bootst == 0 && t.vtime == 0 && t.agenda == [.entry 0]) = true := by
  decide
/-! ### Witnesses: further clauses -/

/-- Conversions: words that the table permits, one with a reserved bit, and one whose pair it does not permit. -/
theorem witness_conversions : let at_ (i : Instr) (w : Word) : State := Tests.at_ i { v := 0x3F800000 } { v := w }
    let runs (i : Instr) (w : Word) (ok : Bool) : Bool := Tests.can (at_ i w) i && Tests.gives i (at_ i w) fun t =>
      ((t.ctxAt 0 0).block 0).any fun b => b.excd == !ok
    runs (.fcvt Tests.hv) 0x0201 true = true ∧ runs (.fcvt Tests.hv) 0x0241 false = true ∧ runs (.fcvt Tests.hv) 0x0A01 false = true ∧
    runs (.ftoi Tests.hv) 0x0A01 true = true ∧ runs (.ftoi Tests.hv) 0x0102 false = true ∧
    runs (.itof Tests.hv) 0x010A true = true ∧ runs (.itof Tests.hv) 0x0A01 false = true := by decide
/-- MatrixQueues: each form fires with its charge and leaves its command. -/
theorem witness_matrix_forms : ([.mclaim Tests.h 0 31 64, .mrel Tests.h 0 31, .mclr Tests.h 0 22 .a80, .mscl Tests.h 0 4 .scalar,
      .mcomb Tests.h 0 4 5 .min, .mtrn Tests.h 0 6, .mcvt Tests.h 0 6 true .rtz, .macc Tests.h 0 6 7 1, .mstat Tests.hs 0] : List Instr).all (fun i =>
        let s := Tests.at_ i
        Tests.can s i (fun e => e.engOk true 32) && Tests.gives i s fun t =>
          ((t.ctxAt 0 0).block 0).any fun b => b.acts.length == 1 && b.faults.isEmpty) = true := by decide
/-- LoadsDeliver: a load of several single-copy atomic units goes to its home unit by unit. -/
theorem witness_load_units : let s := Tests.at_ Tests.ld (Tests.loc 0x3FFF4)
    Tests.can s Tests.ld (fun e => Tests.isHere (Tests.acc e 8 false) && e.loadClear && e.localClear && !e.atomicAhead (.here (Tests.tcm 0x3FFF4)) 8 &&
      unitEnd e.blk.fmode false 0x3FFF4 8 0 != 8) = true ∧
    Tests.gives Tests.ld s (fun t => t.mem == s.mem && t.net.map (fun a => (a.place, a.len, a.done)) == [(some (Tests.tcm 0x3FFF4), 8, 0)] &&
      ((t.ctxAt 0 0).block 0).any fun b => b.insts.any fun n => n.st == .held) = true := by decide
/-- StoreQueueActs: a release in the cycle of an acquire, and the end of that cycle; a TREEINJ store dropped for its token. -/
theorem witness_release_late : let s := (Tests.queued Tests.srel).onCell 0 fun k => { k with acqNow := [63] }
    Tests.gives (.storeQueueLeave 0 0) s (fun t => (t.ctxAt 0 0).sq == [] && (t.cellAt 0).sem == [] && (t.cellAt 0).semLate == [(63, 4095)]) = true ∧
    Tests.gives (.coreCycle 0) (State.reset.onCell 0 fun k => { k with semLate := [(63, 4095)], acqNow := [63] }) (fun t =>
      ((t.cellAt 0).sem.get 0 63).toNat == 4095 && (t.cellAt 0).semLate == [] && (t.cellAt 0).acqNow == []) = true ∧
    Tests.injCmd.treeChan.isSome = true ∧
    Tests.gives (.storeQueueLeave 0 0) ((Tests.waitTok Tests.injCmd (.error 0x06 0x44)).onCell 0 fun k => { k with injRes := 1 }) (fun t =>
      (t.ctxAt 0 0).sq == [] && (t.cellAt 0).injRes == 0 && fld (t.ctxAt 0 0).sterr 32 16 == 1) = true := by decide
/-- RemoteAnswers: no answer comes to a cell that has been scanned out. -/
theorem witness_asleep : let s := { Tests.landing with resps := [Tests.resp (.slot 0 0 1 true) none 0], snaps := [{ launch := 0, cell := 0, state := {}, ctxs := [] }] }
    s.asleep 0 = true ∧ Tests.gives (.loadResponse 0) s (fun t => t == s) = true := by decide
/-- TransferEngine: a piece held at its home keeps the next command in the queue. -/
theorem witness_txe_held : let a : Acc := { Tests.acc0 (.engWrite (bytesOf 8 1) []) 8 with who := .txe 0, place := some { r := .opm 0, off := 8192 } }
    let s := { Tests.onTxe (Tests.xc (.xqry Tests.h 0) 0) with net := [a] }
    s.txBlocked 0 = true ∧ Tests.gives (.txeAccept 0) s (fun t => t == s) = true := by decide
/-- MatrixEngine: commands whose checks pass start, and MSTAT lands MXSTAT. -/
theorem witness_mxe_starts :
    ([.mclr Tests.h 0 22 .a80, .mcomb Tests.h 0 4 5 .min, .mtrn Tests.h 0 6, .macc Tests.h 0 6 7 10] : List Instr).all (fun i =>
      let c := Tests.cmd i (.bad 0) 0
      let s := State.reset.onCell 0 fun k => { k with mxq := [c], ot := [(7, { st := 2 })] }
      s.sqPast c && decide (s.mxCheck c = .run) && Tests.gives (.mxeCommandStart 0) s fun t => (t.cellAt 0).mxq.isEmpty && (t.cellAt 0).mxRun.length == 1) = true ∧
    (let c := Tests.cmd (.mstat Tests.hs 0) (.bad 0) 0
     let s := (State.reset.onCell 0 fun k => { k with mxq := [c] }).onCtx 0 0 fun x => { x with mxstat := 5, lands := [{ id := 4, slot := 9, life := 1 }] }
     Tests.gives (.mxeCommandStart 0) s fun t => (t.cellAt 0).mxRun.isEmpty && t.mem == s.mem &&
       (t.ctxAt 0 0).lands == ((s.ctxAt 0 0).result 4 { v := 5 }).lands) = true := by decide
/-- VaultEntries: a DSIG into a semaphore from which something has been acquired in this core cycle. -/
theorem witness_dsig_late : let s := (Tests.seqAt (.dsig 0 true 63 2)).onCell 0 fun k => { k with acqNow := [63] }
    Tests.gives (.dsig 0 true 63 2) s (fun t => Tests.issuedAt t 3 0 0 && (t.cellAt 0).semLate == [(63, 2)] && (t.cellAt 0).sem == []) = true := by decide
/-- VaultEvents: a column with a correctable error is scrubbed when the path is free, and waits while a program owns the vault. -/
theorem witness_scrub : let s := Tests.vaultOf { flawed := [(2, 5, 3)] } 1000
    let w := Tests.vaultOf { flawed := [(2, 5, 3)], owned := true } 1000
    (s.startColumn 0 2 5 3 (true, true)).isSome = true ∧
    Tests.gives (.untimedAccess 0) s (fun t => (t.cellAt 0).vault.flawed == [] && t.mem == s.mem) = true ∧
    (w.startColumn 0 2 5 3 (true, true)).isNone = true ∧ Tests.gives (.untimedAccess 0) w (fun t => t == w) = true := by decide
/-- CacheAndTree: a binding that waits for the flush of its old slice is stored when it ends. -/
theorem witness_binding_waits : let s := (Tests.cached { flushing := true, lines := [Tests.cl false], waiting := [Tests.miss] }).onField 0 fun f => { f with fcbNext := [(0, 0)] }
    ((s.fieldAt 0).fcb.get 0 0).getLsbD 63 = true ∧ fld ((s.fieldAt 0).fcb.get 0 0) 56 7 = 5 ∧
    Tests.gives (.cacheFlush 0 5) s (fun t => (t.fieldAt 0).fcb.get 0 0 == 0 && (t.fieldAt 0).fcbNext == [] && (Tests.slice5 t).lines == [] &&
      t.net == [Tests.miss] && t.mem == s.mem) = true := by decide
/-- RegisterAccess: field registers, at a quiet point and not, within their limits and not. -/
theorem witness_field_registers : let d : Word := 0x0101010101010101
    let busy := (Tests.runs5 false false).onField 0 fun f => { f with slices := [(7, { mode := 1 })] }
    let warm := Tests.f79 { tlog := 1649, ebfill := 5 }
    let at79 (r : RegRef) (v : Word) (s : State) (p : Field → Bool) : Bool := Tests.gives (.registerWrite r v) s fun t => p (Tests.at79 t)
    dutyOk d = true ∧ dutyOk 0xFF = false ∧ (Tests.at79 warm).hot = true ∧
    at79 (.duty 79) d State.reset (fun f => f.duty == d && f.cycle == 0) = true ∧ at79 (.duty 79) 0xFF State.reset (fun f => f == {}) = true ∧
    at79 (.pwctl 79) 0x0140000007000000 State.reset (fun f => f.mstep == 1 && f.vstep == 64 && f.ebfill == 7) = true ∧
    at79 (.pwctl 79) 0x0141000007000000 State.reset (fun f => f == {}) = true ∧
    at79 (.pwctl 79) 0x0140000005000000 warm (fun f => f == Tests.at79 warm) = true ∧
    at79 (.pwctl 79) 0x0140000004000000 warm (fun f => f.ebfill == 4) = true ∧
    (let gone := Tests.f79 { trip := true }
     Tests.gives (.registerWrite (.fvf 79) 0x0000038400000640) gone (fun t => t == gone) = true) ∧
    Tests.gives (.registerWrite (.fvf 79) 0x0000038400000641) State.reset (fun t => t == State.reset) = true ∧
    State.reset.fieldQuiet 79 = true ∧ busy.fieldQuiet 0 = false ∧
    at79 (.fsslc 79 7) 0x4000000000000000 State.reset (fun f => (f.slice 7).mode == 1) = true ∧
    Tests.gives (.registerWrite (.fsslc 0 7) 0) busy (fun t => t == busy) = true ∧
    at79 (.fcb 79 2) 0x8700000000000000 (Tests.f79 { slices := [(7, { mode := 1 })] }) (fun f => f.fcb.get 0 2 == 0x8700000000000000) = true ∧
    Tests.gives (.registerWrite (.fcb 79 2) 0x8700000000000000) State.reset (fun t => t == State.reset) = true ∧
    Tests.gives (.registerWrite (.fcb 0 2) 0x8700000000000000) busy (fun t => t == busy) = true ∧
    (let s := Tests.cached { lines := [Tests.cl true] }
     s.fcbBusy 0 0 = some 5 ∧ Tests.gives (.registerWrite (.fcb 0 0) 0) s (fun t => (t.fieldAt 0).fcb == (s.fieldAt 0).fcb && (t.fieldAt 0).fcbNext == [(0, 0)] &&
       (Tests.slice5 t).flushing) = true) := by decide
/-- PowerAndClocks: a complete ring turns at the end of its core cycle, a result lands at its bound, and a vault clock in stage 6
decides. -/
theorem witness_cycle_ends : let d := Tests.fecRing 0x800000000003
    let l (due : Nat) : Ctx := { lands := [{ id := 1, slot := 63, life := 0, val := some { v := 5 }, due := some due }] }
    let s (due : Nat) : State := (State.reset.onCell 0 id).onCtx 0 3 fun _ => l due
    (Tests.ringState d).ringsOf 0 = [.tcm 0 0] ∧ d.complete = true ∧
    Tests.gives (.coreCycle 0) { Tests.ringState d with vtime := 7 } (fun t => t.ringAt (.tcm 0 0) ==
      { d with sp := 0, gen := 0, arr := 1, pend := 0, seenAt := [11] }) = true ∧
    Tests.gives (.coreCycle 0) (s 0) (fun t => (t.ctxAt 0 3).lands == [] && ((t.ctxAt 0 3).slotAt 63).v == 5) = true ∧
    Tests.gives (.coreCycle 0) (s 1) (fun t => t.ctxAt 0 3 == l 1) = true ∧
    Tests.gives .vaultClock Tests.ready (fun t => t.vtime == 1001) = true := by decide
/-- RepairAndPreemption: a correctable error of a vault bank, an uncorrectable one under a cached line, an adoption refused. -/
theorem witness_bank_places :
    let c := Tests.cached { lines := [Tests.cl true] }
    let b : BankRef := .fsram 0 5 0
    Tests.gives (.bankErrorEvent (.vault 0 2) (5 * 2048 + 3 * 128) true) State.reset (fun t => t.mem == State.reset.mem && (t.cellAt 0).vault.flawed.contains (2, 5, 3)) = true ∧
    (c.bankLine b 128).isSome = true ∧ Tests.gives (.bankErrorEvent b 128 false) c (fun t => t.mem == c.mem &&
      (Tests.slice5 t).lines == [{ Tests.cl true with data := (bytesOf 8 0x66 true) ++ bytesOf 120 0 }]) = true ∧
    (let s := Tests.adopting
     (s.recGraph 0).any (fun g => g.nodes.any fun r => s.adoptOk { launch := 0, dead := 5, cell := 6, x := 1, node := 7, am := 0, base := 0xFFFF } g
       { cell := 5, ctx := 1, lnode := 0, group := 0, tag := 0x70 } r 0x8005) = false ∧
     Tests.gives (.nodeAdoption 0 5 6 1 7 0 0xFFFF) s (fun t => t.supLog == [(0, 0x19)] && (t.launchAt 0).cells == [] && t.gen == s.gen) = true) := by decide
/-- LaunchLife: an image that cannot be read, a placement refused (the module is above 75 °C), one given up for another. -/
theorem witness_binding_refused :
    let s := { Tests.graph1 with modtel := 0x04B100000000 }
    let b : Option Bind := (s.recGraph 0).map fun g => { i := 0, graph := g, sites := [] }
    (Tests.rec Tests.ready 0 3).recGraph 0 = none ∧ regionsOk (s.formed Tests.place0).regions = true ∧ s.ownGroups 0 = some [] ∧
    s.placed 0 Tests.place0 [] = true ∧ b.map s.bindStatus = some 0x0006 ∧
    Tests.gives (.launchBinding 0 Tests.place0) s (fun t => t.recState 0 == 6 && t.recNum 0 2 2 == 6) = true ∧
    Tests.gives (.launchBinding 0 { Tests.place0 with more := true }) s (fun t => t == s.unbound 0) = true := by decide

/-- LaunchLife: a launch of two wafers is loaded and waits for the other one, then starts; a kill that a field manager asks for. -/
theorem witness_launch_wafers :
    let two := (((Tests.graph.stored (hdm0 34) (bytesOf 1 2)).stored (hdm0 80) (bytesOf 8 0x400001 ++ bytesOf 8 0x450000)) : State)
    let s := { two with torus := [(1, [0]), (2, [1])] }
    let loaded := { s with launches := [(0, { s.launchAt 0 with loaded := true })] }
    let killed := { ((Tests.rec Tests.ready 0 4).onCtx 5 3 fun c => { c with next := .at_ 0x2000000000000000 }) with
      launches := [(0, { cells := [5], fields := [0] })], reports := [(5, 3, { cause := 6 })] }
    s.spansWafers 0 = true ∧ s.ownGroups 0 = some [] ∧ (s.recGraph 0).isSome = true ∧ s.placed 0 Tests.place0 [] = true ∧
    Tests.gives (.launchBinding 0 { Tests.place0 with ready := false }) s (fun t => t.recState 0 == 3 && (t.launchAt 0).loaded) = true ∧
    Tests.gives (.launchBinding 0 { Tests.place0 with ready := true }) s (fun t => t.recState 0 == 4 && !(t.launchAt 0).loaded) = true ∧
    Tests.gives (.launchBinding 0 { Tests.place0 with ready := false }) loaded (fun t => t.recState 0 == 3 && (t.launchAt 0).loaded) = true ∧
    Tests.gives (.launchBinding 0 { Tests.place0 with ready := true }) loaded (fun t => t.recState 0 == 4 && !(t.launchAt 0).loaded) = true ∧
    killed.mayAsk 0 = true ∧ Tests.gives (.launchKill ⟨0, true⟩) killed (fun t => t.recState 0 == 8 && (t.ctxAt 5 3).next == .idle) = true ∧
    (let q := { killed with reports := [] }
     q.mayAsk 0 = false ∧ Tests.gives (.launchKill ⟨0, true⟩) q (fun t => t.recState 0 == 4) = true) := by decide
/-- RegisterAccess: registers that change at a quiesced point only, at one and at none. -/
theorem witness_quiesced_registers : let run := { State.reset with launches := [(0, { cells := [5], clusters := [0], fields := [0], chans := [31] })] }
    let still := { State.reset with launches := [(0, { cells := [5], clusters := [0], fields := [0], chans := [31], snap := true })] }
    let keeps (r : RegRef) : Bool := Tests.gives (.registerWrite r 0xFFFFFFFFFFFFFFFF) run fun t => t == run
    let takes (r : RegRef) (p : State → Bool) : Bool := Tests.gives (.registerWrite r 0xFFFFFFFFFFFFFFFF) still p
    run.quiesced 5 = false ∧ still.quiesced 5 = true ∧ run.chanQuiet 31 = false ∧ still.chanQuiet 31 = true ∧
    keeps .anpad = true ∧ keeps (.treech 5 31) = true ∧ keeps (.anmask 1 0 31) = true ∧ keeps (.cellCsr 5 0x127) = true ∧
    takes .anpad (fun t => t.anpadPad == 0xFFFF) = true ∧ takes (.treech 5 31) (fun t => (t.cellAt 5).treech.get 0 31 == 0xFFC0000000000000) = true ∧
    takes (.anmask 1 0 31) (fun t => t.nodeMask 1 0 31 == 0xFFFF) = true ∧
    takes (.cellCsr 5 0x127) (fun t => (t.cellAt 5).vsw.get 0 7 == 0xE0000000001FFFFF) = true := by decide

/-- StepRunsDecoded: each kind of move, and the first instruction after reset. -/
theorem witness_step : let i : Instr := .add Tests.hv .w64
    let s := { Tests.at_ i { v := 3 } { v := 4 } with agenda := [.fire 0 0 0 0] }
    let e := { Tests.seqAt (.dprea 0) with agenda := [.entry 0] }
    s.agenda = [.fire 0 0 0 0] ∧ isCtx 0 0 = true ∧ ((s.ctxAt 0 0).block 0).any (fun b => (b.insts[0]?).any fun n => (decode n.word).toOption == some i) = true ∧
    isCell 0 = true ∧ (e.cellAt 0).seq.fetched.map (fun f => f.entry) = [.dprea 0] ∧
    (match step s with
      | .next t => ((t.ctxAt 0 0).block 0).any fun b => b.insts.any fun n => n.a.tok == some { v := 7 } || n.b.tok == some { v := 7 } || n.st == .fired
      | _ => false) = true ∧
    (match step e with
      | .next t => Tests.issuedAt t 3 0 0
      | _ => false) = true ∧
    Instr.isBlock .herrRead = false ∧ Instr.isVault .herrRead = false ∧ unitsOk .herrRead = true ∧
    (match step { State.reset with agenda := [.event .herrRead], herr := 5 } with
      | .next t => t.herr == 0 && t.agenda == []
      | _ => false) = true ∧
    (match step State.reset with
      | .next t => t.vtime == 1
      | _ => false) = true := by decide
/-- StepRunsDecoded: with nothing listed, a due field issues what it must and then ends its core cycle; a second instruction of a slot's
cycle does not issue. -/
theorem witness_idle_moves : let i : Instr := .add Tests.hv .w64
    let s := (Tests.at_ i { v := 3 } { v := 4 }).setField 0 { phase := 400 }
    let e := State.reset.setField 0 { phase := 400 }
    let w := { (s.onCell 0 fun k => { k with issN := 4 }) with agenda := [.fire 0 0 0 0] }
    (∀ k ∈ State.reset.fields, k.2.due = false) ∧ s.fields = [(0, { phase := 400 })] ∧ (s.fieldAt 0).due = true ∧
    s.issues 0 = some (0, 0, 0, 0) ∧ s.instrAt 0 0 0 0 = some i ∧
    (match step s with
      | .next t => ((t.ctxAt 0 0).block 0).any fun b => b.insts.any fun n => n.st == .fired
      | _ => false) = true ∧
    e.issues 0 = none ∧ (match step e with
      | .next t => (t.fieldAt 0).tick == 1 && t.vtime == 0
      | _ => false) = true ∧
    s.mayFire 0 0 0 0 = true ∧ w.mayFire 0 0 0 0 = false ∧ (match step w with
      | .next t => t == { w with agenda := [] }
      | _ => false) = true := by decide
/-- StepKeepsCanon: a state whose memory lists a byte, a full word and a poisoned unit, and a step of it. -/
theorem witness_canon : let s := { Tests.fullWord (State.reset.stored (Tests.tcm 8) (bytesOf 8 0x0100 true)) 16 8 with agenda := [.event .herrRead] }
    s.mem.wf = true ∧ s.mem.bytes.length = 1 ∧ s.mem.full.length = 1 ∧ s.mem.poison.length = 1 ∧ (match step s with
      | .next t => t.mem == s.mem
      | _ => false) = true := by decide
/-- RoundTrip and LocalFrame: a well-formed instruction of each kind, and one that acts only in its block. -/
theorem witness_forms : let i : Instr := .add Tests.hv .w64
    i.wf = true ∧ i.isBlock = true ∧ Instr.wf (.dact 4095 7 8191 255) = true ∧ Instr.isVault (.dact 4095 7 8191 255) = true ∧ isLocal i = true ∧
    Tests.gives i (Tests.at_ i { v := 3 } { v := 4 }) (fun _ => true) = true := by decide
end

section
/-! The integer results of chapter 11 (R260 to R264, R266): each helper of the integer unit as the arithmetic that the spec
states on operands read at a width, and the statements of the family settled from them. -/
namespace Sys2Proof

theorem Width.bits_pos (w : Width) : 0 < w.bits := by cases w <;> decide
theorem Width.bits_le (w : Width) : w.bits ≤ 64 := by cases w <;> decide

end Sys2Proof

namespace Sys2Proof.Machine
open Sys2Proof

/-! ### The reductions of R233 -/

theorem two_pow_pos_int (w : Nat) : (0 : Int) < 2 ^ w := Int.pow_pos (by decide)
theorem natCast_two_pow (w : Nat) : ((2 ^ w : Nat) : Int) = 2 ^ w := Int.natCast_pow 2 w

theorem zextN_lt (x w : Nat) : zextN x w < 2 ^ w := Nat.mod_lt _ (Nat.two_pow_pos w)
theorem zextN_of_lt {x w : Nat} (h : x < 2 ^ w) : zextN x w = x := Nat.mod_eq_of_lt h

theorem zextI_natCast (x w : Nat) : zextI (x : Int) w = zextN x w := by
  rw [zextI, zextN]; norm_cast
theorem zextI_of_lt {x w : Nat} (h : x < 2 ^ w) : zextI (x : Int) w = x := by
  rw [zextI_natCast, zextN_of_lt h]
theorem zextI_add_pow (z : Int) (w : Nat) : zextI (z + 2 ^ w) w = zextI z w := by
  rw [zextI, Int.add_emod_right, zextI]
theorem zextI_sub_pow (z : Int) (w : Nat) : zextI (z - 2 ^ w) w = zextI z w := by
  rw [zextI, Int.sub_emod_right, zextI]

/-- Reduced first to 64 bits, an integer keeps its low bits at any width up to that. -/
theorem zextI_eq_zextN_ofInt {w : Nat} (hw : w ≤ 64) (z : Int) : zextI z w = zextN (BitVec.ofInt 64 z).toNat w := by
  have hd : (2 : Int) ^ w ∣ ((2 ^ 64 : Nat) : Int) := by exact_mod_cast Nat.pow_dvd_pow 2 hw
  rw [← zextI_natCast, zextI, zextI, BitVec.toNat_ofInt, Int.toNat_of_nonneg (Int.emod_nonneg _ (by decide)),
    Int.emod_emod_of_dvd z hd]

/-- The signed reading of a vector is its value as an integer. -/
theorem sextN_toNat {w : Nat} (x : BitVec w) : sextN x.toNat w = x.toInt := by
  have hx : x.toNat < 2 ^ w := x.isLt
  have hc : (w ≠ 0 ∧ 2 ^ (w - 1) ≤ x.toNat) ↔ 2 ^ (w - 1) ≤ x.toNat := by
    refine and_iff_right_of_imp fun h h0 => ?_
    subst h0
    omega
  simp [sextN, Nat.mod_eq_of_lt hx, hc, BitVec.toInt_eq_msb_cond, BitVec.msb_eq_decide]

/-- The signed reading differs from the unsigned one by a multiple of 2^w, so both have the same low bits. -/
theorem zextI_sextN (x w : Nat) : zextI (sextN x w) w = zextN x w := by
  have hz : zextI ((zextN x w : Nat) : Int) w = zextN x w := zextI_of_lt (zextN_lt x w)
  simp only [sextN]
  split
  · rw [zextI_sub_pow]; exact hz
  · exact hz

/-- `low` reduces as the integer unit itself does. -/
theorem low_eq (w : Width) (z : Int) : low w z = BitVec.ofNat 64 (zextI z w.bits) := rfl

/-! ### The operands at a width -/

/-- The operand at port b at a width, as a bit vector. -/
def Env.xb (e : Env) (w : Width) : BitVec w.bits := (e.tok .b).v.setWidth w.bits

theorem Env.zextN_a (e : Env) (w : Width) : zextN e.a w.bits = (e.xa w).toNat := (BitVec.toNat_setWidth ..).symm
theorem Env.zextN_b (e : Env) (w : Width) : zextN e.b w.bits = (e.xb w).toNat := (BitVec.toNat_setWidth ..).symm
theorem Env.ua_eq (e : Env) (w : Width) : e.ua w = (e.xa w).toNat := by rw [← e.zextN_a, zextN, Env.ua, Env.a]; norm_cast
theorem Env.ub_eq (e : Env) (w : Width) : e.ub w = (e.xb w).toNat := by rw [← e.zextN_b, zextN, Env.ub, Env.b]; norm_cast
theorem Env.sa_eq (e : Env) (w : Width) : e.sa w = sextN (e.xa w).toNat w.bits := (sextN_toNat _).symm
theorem Env.sb_eq (e : Env) (w : Width) : e.sb w = sextN (e.xb w).toNat w.bits := (sextN_toNat _).symm

/-! ### Firings whose effect is a result on both targets -/

/-- An instruction that runs through `fire` fires with the effect it hands to it. -/
theorem fires_of_fire {i : Instr} {g r : Env → Eff} (hx : ∀ s, exec i s = fire i g s) (hr : ∀ e, g e = r e) : Fires i r :=
  fun s e h => by rw [hx, fire_go i g s e h, hr]

/-- A result of one operand at a width, its value stated as a word. -/
theorem fires_of1 {i : Instr} {w : Width} {g : Nat → Nat} {v : Env → Word}
    (hx : ∀ s, exec i s = fire i (fun e => e.res1 w g) s)
    (hv : ∀ e, BitVec.ofNat 64 (g (e.xa w).toNat) = v e) : Fires i fun e => e.of1 (v e) :=
  fires_of_fire hx fun e => by rw [Env.res1, e.zextN_a, ← hv e]; rfl

/-- A result of two operands at a width, its value stated as a word. -/
theorem fires_of2 {i : Instr} {w : Width} {g : Nat → Nat → Nat} {v : Env → Word}
    (hx : ∀ s, exec i s = fire i (fun e => e.res2 w g) s)
    (hv : ∀ e, BitVec.ofNat 64 (g (e.xa w).toNat (e.xb w).toNat) = v e) : Fires i fun e => e.of2 (v e) :=
  fires_of_fire hx fun e => by rw [Env.res2, e.zextN_a, e.zextN_b, ← hv e]; rfl

/-- A result of one operand that is an integer reduced to the width. -/
theorem fires_low1 {i : Instr} {w : Width} {g : Nat → Nat} {z : Env → Int}
    (hx : ∀ s, exec i s = fire i (fun e => e.res1 w g) s)
    (hz : ∀ e, g (e.xa w).toNat = zextI (z e) w.bits) : Fires i fun e => e.of1 (low w (z e)) :=
  fires_of1 hx fun e => by rw [hz, low_eq]

/-- A result of two operands that is an integer reduced to the width. -/
theorem fires_low2 {i : Instr} {w : Width} {g : Nat → Nat → Nat} {z : Env → Int}
    (hx : ∀ s, exec i s = fire i (fun e => e.res2 w g) s)
    (hz : ∀ e, g (e.xa w).toNat (e.xb w).toNat = zextI (z e) w.bits) : Fires i fun e => e.of2 (low w (z e)) :=
  fires_of2 hx fun e => by rw [hz, low_eq]

/-- A result of one operand that is the low bits of a word. -/
theorem fires_word1 {i : Instr} {w : Width} {g : Nat → Nat} {v : Env → Word}
    (hx : ∀ s, exec i s = fire i (fun e => e.res1 w g) s)
    (hv : ∀ e, g (e.xa w).toNat = ((v e).setWidth w.bits).toNat) : Fires i fun e => e.of1 (((v e).setWidth w.bits).setWidth 64) :=
  fires_of1 hx fun e => by rw [hv, BitVec.ofNat_toNat]

/-- A result of two operands that is the low bits of a word. -/
theorem fires_word2 {i : Instr} {w : Width} {g : Nat → Nat → Nat} {v : Env → Word}
    (hx : ∀ s, exec i s = fire i (fun e => e.res2 w g) s)
    (hv : ∀ e, g (e.xa w).toNat (e.xb w).toNat = ((v e).setWidth w.bits).toNat) :
    Fires i fun e => e.of2 (((v e).setWidth w.bits).setWidth 64) :=
  fires_of2 hx fun e => by rw [hv, BitVec.ofNat_toNat]

/-! ### R260, R261: sums and extremes -/

theorem clampS_eq (w : Width) (z : Int) : clampS w z = satS z w.bits := by
  have hp := two_pow_pos_int (w.bits - 1)
  unfold clampS satS
  generalize (2 : Int) ^ (w.bits - 1) = p at hp
  split
  · omega
  · split <;> omega
theorem clampU_eq (w : Width) (z : Int) : clampU w z = (satU z w.bits : Nat) := by
  have hp := two_pow_pos_int w.bits
  unfold clampU satU
  generalize (2 : Int) ^ w.bits = p at hp
  split
  · omega
  · split <;> omega
theorem satU_lt (z : Int) (w : Nat) : satU z w < 2 ^ w := by
  have hp := Nat.two_pow_pos w
  rw [satU, ← natCast_two_pow]
  generalize 2 ^ w = p at hp
  omega
/-- An unsigned saturated value is a value of the width already. -/
theorem satU_eq (w : Width) (z : Int) : satU z w.bits = zextI (clampU w z) w.bits := by
  rw [clampU_eq, zextI_of_lt (satU_lt _ _)]

theorem aluAdd_eq (w x y : Nat) : aluAdd w x y = zextI ((x : Int) + y) w := by
  rw [aluAdd, ← zextI_natCast, Int.natCast_add]
/-- The lesser as a signed value is one of the operands, so it is its own low bits. -/
theorem aluMin_eq {w x y : Nat} (hx : x < 2 ^ w) (hy : y < 2 ^ w) : aluMin w x y = zextI (min (sextN x w) (sextN y w)) w := by
  unfold aluMin
  split
  · next h => rw [Int.min_eq_left h, zextI_sextN, zextN_of_lt hx]
  · next h => rw [Int.min_eq_right (Int.le_of_lt (Int.not_le.1 h)), zextI_sextN, zextN_of_lt hy]
theorem aluMax_eq {w x y : Nat} (hx : x < 2 ^ w) (hy : y < 2 ^ w) : aluMax w x y = zextI (max (sextN x w) (sextN y w)) w := by
  unfold aluMax
  split
  · next h => rw [Int.max_eq_right h, zextI_sextN, zextN_of_lt hy]
  · next h => rw [Int.max_eq_left (Int.le_of_lt (Int.not_le.1 h)), zextI_sextN, zextN_of_lt hx]
theorem aluMinu_eq {w x y : Nat} (hx : x < 2 ^ w) : aluMinu w x y = zextI (min (x : Int) y) w := by
  have hm : min (x : Int) y = (min x y : Nat) := by omega
  rw [hm, zextI_of_lt (Nat.lt_of_le_of_lt (Nat.min_le_left x y) hx), aluMinu]
theorem aluMaxu_eq {w x y : Nat} (hx : x < 2 ^ w) (hy : y < 2 ^ w) : aluMaxu w x y = zextI (max (x : Int) y) w := by
  have hm : max (x : Int) y = (max x y : Nat) := by omega
  rw [hm, zextI_of_lt (Nat.max_lt.2 ⟨hx, hy⟩), aluMaxu]

/-- Settles O1: each sum, difference and extreme is the integer the spec names, reduced to the width.  A line below is an
instruction of the statement, in its order, with the lemma about its helper; `rfl` where the helper is that integer. -/
theorem sumsAndExtremes : Obligations.SumsAndExtremes := by
  intro h w imm
  have ha (e : Env) := (e.xa w).isLt
  have hb (e : Env) := (e.xb w).isLt
  simp only [Env.ua_eq, Env.ub_eq, Env.sa_eq, Env.sb_eq, clampS_eq]
  exact ⟨
    fires_low2 (fun _ => rfl) fun _ => aluAdd_eq ..,
    fires_low2 (fun _ => rfl) fun _ => rfl,
    fires_low1 (fun _ => rfl) fun _ => rfl,
    fires_low2 (fun _ => rfl) fun _ => rfl,
    fires_low2 (fun _ => rfl) fun _ => satU_eq ..,
    fires_low2 (fun _ => rfl) fun _ => rfl,
    fires_low2 (fun _ => rfl) fun _ => satU_eq ..,
    fires_low1 (fun _ => rfl) fun _ => rfl,
    fires_low1 (fun _ => rfl) fun _ => rfl,
    fires_low1 (fun _ => rfl) fun _ => rfl,
    fires_low1 (fun _ => rfl) fun _ => rfl,
    fires_low2 (fun _ => rfl) fun e => aluMin_eq (ha e) (hb e),
    fires_low2 (fun _ => rfl) fun e => aluMax_eq (ha e) (hb e),
    fires_low2 (fun _ => rfl) fun e => aluMinu_eq (ha e),
    fires_low2 (fun _ => rfl) fun e => aluMaxu_eq (ha e) (hb e)⟩

/-! ### R262: products -/

theorem aluMul_eq (w x y : Nat) : aluMul w x y = zextI ((x : Int) * y) w := by
  rw [aluMul, ← zextI_natCast, Int.natCast_mul]
theorem aluMulh_eq (w x y : Nat) : aluMulh w x y = zextI ((sextN x w * sextN y w).fdiv (2 ^ w)) w := by
  rw [aluMulh, Int.fdiv_eq_ediv_of_nonneg _ (Int.le_of_lt (two_pow_pos_int w))]
/-- The high half of an unsigned product is below 2^w, so reducing it changes nothing. -/
theorem aluMulhu_eq {w x y : Nat} (hx : x < 2 ^ w) (hy : y < 2 ^ w) :
    aluMulhu w x y = zextI (((x : Int) * y).fdiv (2 ^ w)) w := by
  have hlt : x * y / 2 ^ w < 2 ^ w := Nat.div_lt_of_lt_mul (Nat.mul_lt_mul_of_lt_of_lt hx hy)
  rw [Int.fdiv_eq_ediv_of_nonneg _ (Int.le_of_lt (two_pow_pos_int w)), aluMulhu, ← zextI_of_lt hlt]
  norm_cast
theorem aluMulhsu_eq (w x y : Nat) : aluMulhsu w x y = zextI ((sextN x w * y).fdiv (2 ^ w)) w := by
  rw [aluMulhsu, Int.fdiv_eq_ediv_of_nonneg _ (Int.le_of_lt (two_pow_pos_int w))]
/-- Reducing the addend of MADD first changes nothing modulo 2^w. -/
theorem aluMadd_eq (w x y z : Nat) : aluMadd w x y z = zextI ((x : Int) * y + z) w := by
  rw [aluMadd, zextN, zextN, Nat.add_mod_mod, ← zextN, ← zextI_natCast, Int.natCast_add, Int.natCast_mul]

/-! ### R263: quotients and remainders -/

/-- Negating the most negative value of a width leaves its low bits: it is its own negative modulo 2^w. -/
theorem zextI_neg_least {w : Nat} (hw : 0 < w) : zextI (-(-2 ^ (w - 1))) w = zextI (-2 ^ (w - 1)) w := by
  obtain ⟨n, rfl⟩ := Nat.exists_eq_add_of_lt hw
  have hs : -(-2 ^ n : Int) = -2 ^ n + 2 ^ (n + 1) := by rw [Int.pow_succ]; omega
  rw [Nat.zero_add, Nat.add_sub_cancel, hs, zextI_add_pow]

/-- The one signed overflow, the most negative value by -1, needs no case of its own: its quotient has the low bits of the
dividend. -/
theorem aluDiv_eq {w x y : Nat} (hw : 0 < w) (hx : x < 2 ^ w) :
    aluDiv w x y = zextI (if sextN y w = 0 then -1 else (sextN x w).tdiv (sextN y w)) w := by
  simp only [aluDiv]
  split
  · rfl
  · split
    · next ho =>
      obtain ⟨hX, hY⟩ := ho
      rw [hY, Int.tdiv_neg, Int.tdiv_one, hX, zextI_neg_least hw, ← hX, zextI_sextN, zextN_of_lt hx]
    · rfl
theorem aluRem_eq {w x y : Nat} (hx : x < 2 ^ w) :
    aluRem w x y = zextI (if sextN y w = 0 then sextN x w else (sextN x w).tmod (sextN y w)) w := by
  simp only [aluRem]
  split
  · rw [zextI_sextN, zextN_of_lt hx]
  · split
    · next ho => rw [ho.2, Int.tmod_neg, Int.tmod_one]; simp [zextI]
    · rw [Int.tmod_def, Int.mul_comm]
theorem aluDivu_eq {w x y : Nat} (hx : x < 2 ^ w) :
    aluDivu w x y = zextI (if (y : Int) = 0 then -1 else (x : Int) / y) w := by
  simp only [aluDivu, Int.natCast_eq_zero]
  split
  · have h1 : (-1 : Int) = ((2 ^ w - 1 : Nat) : Int) - 2 ^ w := by
      rw [Int.natCast_sub (Nat.two_pow_pos w), natCast_two_pow]
      omega
    rw [h1, zextI_sub_pow, zextI_of_lt (Nat.sub_one_lt (Nat.ne_of_gt (Nat.two_pow_pos w)))]
  · rw [← Int.natCast_ediv, zextI_of_lt (Nat.lt_of_le_of_lt (Nat.div_le_self x y) hx)]
theorem aluRemu_eq {w x y : Nat} (hx : x < 2 ^ w) :
    aluRemu w x y = zextI (if (y : Int) = 0 then (x : Int) else x % y) w := by
  simp only [aluRemu, Int.natCast_eq_zero]
  split
  · rw [zextI_of_lt hx]
  · rw [← Int.natCast_emod, zextI_of_lt (Nat.lt_of_le_of_lt (Nat.mod_le x y) hx)]

/-- Settles O2: each product, quotient and remainder is the integer the spec names, reduced to the width. -/
theorem productsAndQuotients : Obligations.ProductsAndQuotients := by
  intro h w
  have ha (e : Env) := (e.xa w).isLt
  have hb (e : Env) := (e.xb w).isLt
  simp only [Env.ua_eq, Env.ub_eq, Env.sa_eq, Env.sb_eq]
  exact ⟨
    fires_low2 (fun _ => rfl) fun _ => aluMul_eq ..,
    fires_low2 (fun _ => rfl) fun _ => aluMulh_eq ..,
    fires_low2 (fun _ => rfl) fun e => aluMulhu_eq (ha e) (hb e),
    fires_low2 (fun _ => rfl) fun _ => aluMulhsu_eq ..,
    fires_of_fire (fun _ => rfl) fun e => by rw [e.zextN_a, e.zextN_b, aluMadd_eq]; rfl,
    fires_low2 (fun _ => rfl) fun e => aluDiv_eq w.bits_pos (ha e),
    fires_low2 (fun _ => rfl) fun e => aluRem_eq (ha e),
    fires_low2 (fun _ => rfl) fun e => aluDivu_eq (ha e),
    fires_low2 (fun _ => rfl) fun e => aluRemu_eq (ha e)⟩

/-! ### R264: logic, where reducing to the width commutes with the operation -/

theorem aluAnd_setWidth (w : Nat) (x y : Word) :
    aluAnd w (x.setWidth w).toNat (y.setWidth w).toNat = ((x &&& y).setWidth w).toNat := by
  rw [BitVec.setWidth_and, BitVec.toNat_and, aluAnd]
theorem aluOr_setWidth (w : Nat) (x y : Word) :
    aluOr w (x.setWidth w).toNat (y.setWidth w).toNat = ((x ||| y).setWidth w).toNat := by
  rw [BitVec.setWidth_or, BitVec.toNat_or, aluOr]
theorem aluXor_setWidth (w : Nat) (x y : Word) :
    aluXor w (x.setWidth w).toNat (y.setWidth w).toNat = ((x ^^^ y).setWidth w).toNat := by
  rw [BitVec.setWidth_xor, BitVec.toNat_xor, aluXor]
theorem aluAndn_setWidth {w : Nat} (hw : w ≤ 64) (x y : Word) :
    aluAndn w (x.setWidth w).toNat (y.setWidth w).toNat = ((x &&& ~~~y).setWidth w).toNat := by
  rw [BitVec.setWidth_and, BitVec.setWidth_not hw, BitVec.toNat_and, BitVec.toNat_not, aluAndn, aluNot]
/-- An immediate extended by zeros or by its sign to 64 bits, then taken at the width. -/
theorem immZ_eq {w : Nat} (hw : w ≤ 64) (zx : Bool) (imm : BitVec 26) :
    immZ imm zx w = (((if zx then imm.setWidth 64 else imm.signExtend 64) : Word).setWidth w).toNat := by
  rw [BitVec.toNat_setWidth]
  cases zx with
  | true =>
    rw [if_pos rfl, BitVec.toNat_setWidth_of_le (by decide)]
    rfl
  | false => exact zextI_eq_zextN_ofInt hw imm.toInt

/-- Settles O3: each result is the operation on the 64-bit words, reduced to the width. -/
theorem logicResults : Obligations.LogicResults := by
  intro h w zx imm
  have hi := immZ_eq w.bits_le zx imm
  exact ⟨
    fires_word2 (fun _ => rfl) fun _ => aluAnd_setWidth ..,
    fires_word2 (fun _ => rfl) fun _ => aluOr_setWidth ..,
    fires_word2 (fun _ => rfl) fun _ => aluXor_setWidth ..,
    fires_word2 (fun _ => rfl) fun _ => aluAndn_setWidth w.bits_le ..,
    fires_word1 (fun _ => rfl) fun _ => hi ▸ aluAnd_setWidth ..,
    fires_word1 (fun _ => rfl) fun _ => hi ▸ aluOr_setWidth ..,
    fires_word1 (fun _ => rfl) fun _ => hi ▸ aluXor_setWidth ..⟩

/-! ### R266: bit counts -/

/-- The highest one bit stands at the logarithm, so the zero bits above it are w - 1 less that. -/
theorem aluClz_spec {w : Nat} (x : BitVec w) (hx : x ≠ 0) :
    aluClz w x.toNat < w ∧ x.getMsbD (aluClz w x.toNat) = true ∧ ∀ j < aluClz w x.toNat, x.getMsbD j = false := by
  have h0 : x.toNat ≠ 0 := fun h => hx (BitVec.eq_of_toNat_eq h)
  have hk : x.toNat.log2 < w := (Nat.log2_lt h0).2 x.isLt
  rw [aluClz, if_neg h0]
  refine ⟨by omega, ?_, fun j hj => ?_⟩
  · rw [BitVec.getMsbD_eq_getLsbD, Nat.sub_sub_self (by omega), BitVec.getLsbD, Nat.testBit_log2 h0]
    simp only [Bool.and_true, decide_eq_true_eq]
    omega
  · have hlt : x.toNat < 2 ^ (w - 1 - j) := (Nat.log2_lt h0).1 (by omega)
    rw [BitVec.getMsbD_eq_getLsbD, BitVec.getLsbD, Nat.testBit_lt_two_pow hlt, Bool.and_false]

theorem ctzFrom_zero (w : Nat) : ctzFrom w 0 = w := by
  induction w with
  | zero => rfl
  | succ w ih => rw [ctzFrom, Nat.zero_mod, if_neg (by decide), Nat.zero_div, ih, Nat.add_comm]

/-- From the lowest bit up: an odd number has its lowest one at 0, an even one a place above its half's. -/
theorem ctzFrom_spec {w x : Nat} (h0 : x ≠ 0) (hx : x < 2 ^ w) :
    ctzFrom w x < w ∧ x.testBit (ctzFrom w x) = true ∧ ∀ j < ctzFrom w x, x.testBit j = false := by
  induction w generalizing x with
  | zero => omega
  | succ w ih =>
    rw [ctzFrom]
    split
    · next hodd => exact ⟨w.succ_pos, by simp [hodd], fun j hj => absurd hj j.not_lt_zero⟩
    · next heven =>
      obtain ⟨hlt, hone, hlow⟩ := ih (x := x / 2) (by omega) (by omega)
      rw [Nat.add_comm]
      refine ⟨Nat.succ_lt_succ hlt, by rw [Nat.testBit_succ, hone], fun j hj => ?_⟩
      cases j with
      | zero => simp [heven]
      | succ j => rw [Nat.testBit_succ]; exact hlow j (Nat.lt_of_succ_lt_succ hj)

/-- The ones of a number are its lowest bit and the ones of its half. -/
theorem popCount_eq (w x : Nat) : popCount w x = ((List.range w).filter x.testBit).length := by
  induction w generalizing x with
  | zero => rfl
  | succ w ih =>
    have hs : x.testBit ∘ Nat.succ = (x / 2).testBit := funext fun j => Nat.testBit_succ x j
    rw [popCount, ih, List.range_succ_eq_map, List.filter_cons, List.filter_map, hs, Nat.testBit_zero]
    rcases Nat.mod_two_eq_zero_or_one x with h | h <;> simp [h, Nat.add_comm]

/-- Settles O5: the counts are those the integer unit computes on the operand at the width. -/
theorem bitCounts : Obligations.BitCounts := by
  intro h w
  refine ⟨fun e => aluClz w.bits (e.xa w).toNat, fun e => aluCtz w.bits (e.xa w).toNat, fun e => aluPopc w.bits (e.xa w).toNat,
    fires_of1 (fun _ => rfl) fun _ => rfl, fires_of1 (fun _ => rfl) fun _ => rfl, fires_of1 (fun _ => rfl) fun _ => rfl,
    fun e => ⟨fun h0 => ?_, fun h0 => ?_, popCount_eq _ _⟩⟩
  · have hn : (e.xa w).toNat = 0 := by rw [h0]; rfl
    exact ⟨if_pos hn, (congrArg (ctzFrom w.bits) hn).trans (ctzFrom_zero _)⟩
  · obtain ⟨hclt, hcone, hchigh⟩ := aluClz_spec (e.xa w) h0
    obtain ⟨htlt, htone, htlow⟩ := ctzFrom_spec (fun hn => h0 (BitVec.eq_of_toNat_eq hn)) (e.xa w).isLt
    exact ⟨hclt, hcone, hchigh, htlt, htone, htlow⟩

end Sys2Proof.Machine
end

section
/-! The float selections of chapter 12 (R285 to R288): what FMIN, FMAX, FSGN, FCMP and FCLASS deliver, each as a lemma about
its helper of the float unit, and the statement of the family settled from them. -/
namespace Sys2Proof.Machine
open Sys2Proof

theorem fmtOf_w_pos (f : FFmt) : 0 < (fmtOf f).w := by cases f <;> decide
theorem fmtOf_w_le (f : FFmt) : (fmtOf f).w ≤ 64 := by cases f <;> decide

/-- A firing of the float unit on ports a and b delivers its result, its flags going to FCSR (R280, R282). -/
theorem fires_flagged2 {i : Instr} {g r : Env → Nat × Flags}
    (hx : ∀ s, exec i s = fire i (fun e => e.fres (g e) (e.pa || e.pb)) s) (hr : ∀ e, g e = r e) :
    Fires i fun e => e.flagged (r e) ((e.tok .a).poi || (e.tok .b).poi) :=
  fires_of_fire hx fun e => by rw [← hr e]; rfl

/-! ### R285: the order of two values and what FMIN and FMAX select -/

/-- Exchanging two values that are no NaN negates their comparison. -/
theorem fvCmp_swap {x y : Fv} (hx : x.isNan = false) (hy : y.isNan = false) : fvCmp y x = -fvCmp x y := by
  cases x with
  | nan => cases hx
  | inf s =>
    cases y with
    | nan => cases hy
    | inf t => cases s <;> cases t <;> rfl
    | fin => cases s <;> rfl
  | fin s n e =>
    cases y with
    | nan => cases hy
    | inf t => cases t <;> rfl
    | fin t m d =>
      simp only [fvCmp, Int.min_comm d e]
      generalize sgnInt s n * 2 ^ (e - min e d).toNat = a
      generalize sgnInt t m * 2 ^ (d - min e d).toNat = b
      rcases Int.lt_trichotomy a b with hlt | heq | hgt
      · rw [if_pos hlt, if_neg (Int.not_lt.2 (Int.le_of_lt hlt)), if_neg (Int.ne_of_gt hlt)]; rfl
      · subst heq; simp only [Int.lt_irrefl, if_true, if_false]; rfl
      · rw [if_pos hgt, if_neg (Int.not_lt.2 (Int.le_of_lt hgt)), if_neg (Int.ne_of_gt hgt)]

/-- Whether the second of two values is less, asked through the comparison of the first with it, as FMIN asks. -/
theorem less_swap {x y : Fv} (hx : x.isNan = false) (hy : y.isNan = false) :
    y.less x = (decide (fvCmp x y > 0) || (fvCmp x y == 0 && y.sign && !x.sign)) := by
  have h0 : (-fvCmp x y == 0) = (fvCmp x y == 0) := by rw [Bool.eq_iff_iff, beq_iff_eq, beq_iff_eq, Int.neg_eq_zero]
  simp only [Fv.less, fvCmp_swap hx hy, h0, Int.neg_neg_iff_pos, gt_iff_lt]

theorem fminmax_of_nan_nan {F : Fmt} {a b : Nat} (wantMax prop : Bool) (ha : (F.value a).isNan = true) (hb : (F.value b).isNan = true) :
    (fminmax F wantMax prop a b).1 = F.cnan := by
  simp only [fminmax, ha, hb, Bool.and_self, if_true]
theorem fminmax_of_nan_left {F : Fmt} {a b : Nat} (wantMax prop : Bool) (ha : (F.value a).isNan = true) (hb : (F.value b).isNan = false) :
    (fminmax F wantMax prop a b).1 = if prop then F.cnan else b % 2 ^ F.w := by
  simp only [fminmax, ha, hb, Bool.and_false, Bool.false_eq_true, if_true, if_false]
theorem fminmax_of_nan_right {F : Fmt} {a b : Nat} (wantMax prop : Bool) (ha : (F.value a).isNan = false) (hb : (F.value b).isNan = true) :
    (fminmax F wantMax prop a b).1 = if prop then F.cnan else a % 2 ^ F.w := by
  simp only [fminmax, ha, hb, Bool.and_true, Bool.false_eq_true, if_true, if_false]
theorem fmax_of_not_nan {F : Fmt} {a b : Nat} (prop : Bool) (ha : (F.value a).isNan = false) (hb : (F.value b).isNan = false) :
    (fminmax F true prop a b).1 = if (F.value a).less (F.value b) then b % 2 ^ F.w else a % 2 ^ F.w := by
  simp only [fminmax, ha, hb, Bool.and_self, Bool.false_eq_true, if_true, if_false]
  rfl
theorem fmin_of_not_nan {F : Fmt} {a b : Nat} (prop : Bool) (ha : (F.value a).isNan = false) (hb : (F.value b).isNan = false) :
    (fminmax F false prop a b).1 = if (F.value b).less (F.value a) then b % 2 ^ F.w else a % 2 ^ F.w := by
  simp only [fminmax, less_swap ha hb, ha, hb, Bool.and_self, Bool.false_eq_true, if_false]

/-! ### R286: the bits of FSGN -/

/-- The top bit of a number reduced to a width. -/
theorem mod_div_top_eq_testBit {w : Nat} (hw : 0 < w) (x : Nat) : x % 2 ^ w / 2 ^ (w - 1) = (x.testBit (w - 1)).toNat := by
  obtain ⟨n, rfl⟩ := Nat.exists_eq_add_of_lt hw
  rw [Nat.zero_add, Nat.add_sub_cancel, Nat.pow_succ, Nat.mod_mul_right_div_self, Nat.toNat_testBit]

/-- The sign that FSGN gives, of the signs of its operands. -/
def fsgnSign : Sgn → Bool → Bool → Bool
  | .j, _, sb => sb
  | .jn, _, sb => !sb
  | .jx, sa, sb => sa ^^ sb

/-- FSGN puts the new sign above the low bits of port a. -/
theorem fsgn_eq {F : Fmt} (hw : 0 < F.w) (k : Sgn) (a b : Nat) :
    fsgn F k a b = 2 ^ (F.w - 1) * (fsgnSign k (a.testBit (F.w - 1)) (b.testBit (F.w - 1))).toNat + a % 2 ^ (F.w - 1) := by
  simp only [fsgn, mod_div_top_eq_testBit hw]
  rw [Nat.add_comm, Nat.mul_comm]
  congr 2
  cases k with
  | j => rfl
  | jn => cases b.testBit (F.w - 1) <;> rfl
  | jx => cases a.testBit (F.w - 1) <;> cases b.testBit (F.w - 1) <;> rfl

theorem testBit_fsgn {F : Fmt} (hw : 0 < F.w) (k : Sgn) (a b j : Nat) :
    (fsgn F k a b).testBit j =
      if j < F.w - 1 then a.testBit j
      else if j = F.w - 1 then fsgnSign k (a.testBit (F.w - 1)) (b.testBit (F.w - 1)) else false := by
  rw [fsgn_eq hw, Nat.testBit_two_pow_mul_add _ (Nat.mod_lt _ (Nat.two_pow_pos _))]
  by_cases hlt : j < F.w - 1
  · rw [if_pos hlt, if_pos hlt, Nat.testBit_mod_two_pow, decide_eq_true hlt, Bool.true_and]
  · rw [if_neg hlt, if_neg hlt, Nat.testBit_bool_toNat]
    by_cases htop : j = F.w - 1
    · rw [if_pos htop, decide_eq_true (by omega), Bool.true_and]
    · rw [if_neg htop, decide_eq_false (by omega), Bool.false_and]

/-! ### R287, R288: truths and class masks -/

theorem truth_toNat (b : Bool) : (truth b).toNat = ofBool b := by cases b <;> rfl

theorem fclass_of_inf {F : Fmt} {a : Nat} {s : Bool} (h : F.value a = .inf s) :
    BitVec.ofNat 64 (fclass F a) = if s then 1#64 <<< 0 else 1#64 <<< 7 := by
  rw [fclass, h]; cases s <;> rfl
theorem fclass_of_nan {F : Fmt} {a : Nat} {sig : Bool} (h : F.value a = .nan sig) :
    BitVec.ofNat 64 (fclass F a) = if sig then 1#64 <<< 8 else 1#64 <<< 9 := by
  rw [fclass, h]; cases sig <;> rfl
/-- A magnitude below 2^M has no leading one: it is subnormal. -/
theorem fclass_of_fin {F : Fmt} {a n : Nat} {s : Bool} {q : Int} (h : F.value a = .fin s n q) :
    BitVec.ofNat 64 (fclass F a) =
      if n = 0 then (if s then 1#64 <<< 3 else 1#64 <<< 4)
      else if n < 2 ^ F.m then (if s then 1#64 <<< 2 else 1#64 <<< 5)
      else (if s then 1#64 <<< 1 else 1#64 <<< 6) := by
  rw [fclass, h]
  by_cases h0 : n = 0
  · simp only [if_pos h0]; cases s <;> rfl
  · by_cases hm : n < 2 ^ F.m
    · simp only [if_neg h0, if_pos hm]; cases s <;> rfl
    · simp only [if_neg h0, if_neg hm]; cases s <;> rfl

/-- Settles O12: FMIN and FMAX by which operands are NaN, FSGN bit by bit, FCMP by its condition, FCLASS by the class of its
operand. -/
theorem floatSelections : Obligations.FloatSelections := by
  intro h f prop k c F bits nv snan anyNan
  refine ⟨⟨fun e => (fminmax F false prop e.a e.b).1, fun e => (fminmax F true prop e.a e.b).1,
      fires_flagged2 (fun _ => rfl) fun _ => rfl, fires_flagged2 (fun _ => rfl) fun _ => rfl, fun e => ⟨?_, ?_, ?_, ?_⟩⟩,
    ⟨fun e => BitVec.ofNat 64 (fsgn F k e.a e.b), fires_of_fire (fun _ => rfl) fun _ => rfl, fun e j => ?_⟩,
    fires_flagged2 (fun _ => rfl) fun e => ?_, fires_of_fire (fun _ => rfl) fun e => ?_⟩
  · exact fun ha hb => ⟨fminmax_of_nan_nan _ _ ha hb, fminmax_of_nan_nan _ _ ha hb⟩
  · intro ha hb
    have hb : (e.fv F .b).isNan = false := by simpa only [Bool.not_eq_true'] using hb
    exact ⟨fminmax_of_nan_left _ _ ha hb, fminmax_of_nan_left _ _ ha hb⟩
  · intro ha hb
    have ha : (e.fv F .a).isNan = false := by simpa only [Bool.not_eq_true'] using ha
    exact ⟨fminmax_of_nan_right _ _ ha hb, fminmax_of_nan_right _ _ ha hb⟩
  · intro hn
    obtain ⟨ha, hb⟩ : (e.fv F .a).isNan = false ∧ (e.fv F .b).isNan = false := by
      simpa only [anyNan, Bool.not_or, Bool.and_eq_true, Bool.not_eq_true'] using hn
    exact ⟨fmin_of_not_nan _ ha hb, fmax_of_not_nan _ ha hb⟩
  · have hpos : 0 < F.w := fmtOf_w_pos f
    have hle : F.w ≤ 64 := fmtOf_w_le f
    rw [BitVec.getLsbD_ofNat, testBit_fsgn hpos]
    by_cases hlt : j < F.w - 1
    · rw [if_pos hlt, if_pos hlt, decide_eq_true (by omega), Bool.true_and]; rfl
    · rw [if_neg hlt, if_neg hlt]
      by_cases htop : j = F.w - 1
      · rw [if_pos htop, if_pos htop, decide_eq_true (by omega), Bool.true_and, htop]
        cases k <;> rfl
      · rw [if_neg htop, if_neg htop, Bool.and_false]
  · simp only [truth_toNat]; cases c <;> rfl
  · refine congrArg e.of1 ?_
    split
    · next hv => exact fclass_of_inf hv
    · next hv => exact fclass_of_nan hv
    · next hv => exact fclass_of_fin hv

end Sys2Proof.Machine
end
